-- ==== Sys2Proof/Word.lean ====
section
/-! DEFINITION. Words, capabilities as bit patterns, and the records that other agents hand to the device. -/

namespace Sys2Proof

/-- One byte of memory (00_scope R3: byte 0 of a value holds bits [7:0]). -/
abbrev Byte := BitVec 8

/-- An instruction word (07 R82). -/
abbrev Word := BitVec 32

/-- A scalar register (07 R89). -/
abbrev XWord := BitVec 64

/-- A vector register (15 R203). -/
abbrev VWord := BitVec 2048

/-- A mask register (15 R203). -/
abbrev MWord := BitVec 256

/-- A capability: 128 bits and an out-of-band tag (10 R142). -/
structure Cap where
  raw  : BitVec 128
  tag  : Bool
  deriving DecidableEq, Repr

/-- An untagged zero capability (03 R38). -/
def Cap.null : Cap := ⟨0, false⟩

/-- The configuration of a virtual interface, as firmware holds it (28 R324). -/
structure IfaceCfg where
  /-- HBM address of the object table and its length in entries (10 R146). -/
  objBase     : Nat
  objCount    : Nat
  /-- The key slots the interface's object entries may name. -/
  keyLo       : Nat
  keyHi       : Nat
  /-- Priority ceiling (03 R31). -/
  ceiling     : Nat
  /-- Watchdog interval in microseconds (26 R312). -/
  watchdogUs  : Nat
  superCode   : Cap
  superData   : Cap
  /-- KV arena, host window and fault ring objects; none where the configuration names none. -/
  arena       : Option Nat
  window      : Option Nat
  faultRing   : Option (Nat × Nat)
  /-- Join table capacity in entries (03 R48). -/
  joinCap     : Nat
  deriving DecidableEq, Repr

/-- What an access from another device does at its home (28 R331, R332): a load of n bytes, a store, a capability loaded
or stored with its tag, an AMO or a CAS, a reduction with its op, an operation on a barrier object, n elements of an
encoded block of CRED, or, for slots of that device, an update of a group object (03 R51: a join, an arrival, a leaving of a
member that has arrived or not, a join withdrawn) or the decrement of a join counter (03 R46). -/
inductive RemoteOp where
  | load (n : Nat)
  | store (data : List Byte)
  | loadCap
  | storeCap (v : Cap)
  | amo (op : Nat) (v : XWord)
  | cas (exp new : XWord)
  | red (op : Nat) (v : XWord)
  | binit (n : Nat)
  | barr (n : Nat)
  | cred (fmt n : Nat) (block : BitVec 512)
  | join
  | arrive
  | leave (arrived : Bool)
  | withdraw
  | joinDec
  deriving DecidableEq, Repr

/-- An access that arrives over the Ndoed link for an object of this device (28 R331). -/
structure RemoteReq where
  iface : Nat
  oid   : Nat
  off   : Nat
  op    : RemoteOp
  deriving DecidableEq, Repr

/-- Bytes that the host writes into a BAR from an offset on (28 R323). -/
structure BarWrite where
  off   : Nat
  bytes : List Byte
  deriving DecidableEq, Repr

/-- What the loader is handed with a container: the bindings of the host's list (31 R350)
and capabilities of the code, data and staging objects it places the sections in. -/
structure LoadArgs where
  iface    : Nat
  codeCap  : Cap
  dataCap  : Cap
  stageCap : Cap
  objects  : List Cap
  deriving DecidableEq, Repr

end Sys2Proof
end

