-- ==== Sys2Proof/Syntax.lean ====
section
/-! DEFINITION. The instructions (one constructor per row of spec/opcode_table.json) and the events of other agents. -/

namespace Sys2Proof

/-- What the machine can be asked to do. The constructors with bit-vector operands are the instruction words of
07 R93-R106, their operands named and sized as spec/opcode_table.json lays them out. The marks G and Y (07 R82) are no
operands of an instruction: they stand in the word the machine is executing. The table's rows without an
encoding are what the other agents of the device do, with operands that say to what. A slot is named by SLOTID [15:0]
(02 R20), a core by the same number without its slot field. The constructors without operands stand last. -/
inductive Instr where
  /-- ADD (R110). Adds two 64-bit registers modulo 2^64. -/
  | add (d : BitVec 6) (a : BitVec 6) (b : BitVec 6)
  /-- SUB (R110). Subtracts xb from xa modulo 2^64. -/
  | sub (d : BitVec 6) (a : BitVec 6) (b : BitVec 6)
  /-- AND (R110). Bitwise AND of two registers. -/
  | and (d : BitVec 6) (a : BitVec 6) (b : BitVec 6)
  /-- OR (R110). Bitwise OR of two registers. -/
  | or (d : BitVec 6) (a : BitVec 6) (b : BitVec 6)
  /-- XOR (R110). Bitwise XOR of two registers. -/
  | xor (d : BitVec 6) (a : BitVec 6) (b : BitVec 6)
  /-- ANDN (R110). Computes xa AND NOT xb. -/
  | andn (d : BitVec 6) (a : BitVec 6) (b : BitVec 6)
  /-- SHL (R110). Shifts xa left by xb[5:0]. -/
  | shl (d : BitVec 6) (a : BitVec 6) (b : BitVec 6)
  /-- SHR (R110). Shifts xa right logically by xb[5:0]. -/
  | shr (d : BitVec 6) (a : BitVec 6) (b : BitVec 6)
  /-- SAR (R110). Shifts xa right arithmetically by xb[5:0]. -/
  | sar (d : BitVec 6) (a : BitVec 6) (b : BitVec 6)
  /-- MIN (R110). Signed minimum of two registers. -/
  | min (d : BitVec 6) (a : BitVec 6) (b : BitVec 6)
  /-- MAX (R110). Signed maximum of two registers. -/
  | max (d : BitVec 6) (a : BitVec 6) (b : BitVec 6)
  /-- MINZ (R110). Unsigned minimum of two registers. -/
  | minz (d : BitVec 6) (a : BitVec 6) (b : BitVec 6)
  /-- MAXZ (R110). Unsigned maximum of two registers. -/
  | maxz (d : BitVec 6) (a : BitVec 6) (b : BitVec 6)
  /-- SLT (R110). Writes 1 if xa < xb signed, else 0. -/
  | slt (d : BitVec 6) (a : BitVec 6) (b : BitVec 6)
  /-- SLTZ (R110). Writes 1 if xa < xb unsigned, else 0. -/
  | sltz (d : BitVec 6) (a : BitVec 6) (b : BitVec 6)
  /-- SEQ (R110). Writes 1 if xa equals xb, else 0. -/
  | seq (d : BitVec 6) (a : BitVec 6) (b : BitVec 6)
  /-- MUL (R111). Low 64 bits of the product, latency 4. -/
  | mul (d : BitVec 6) (a : BitVec 6) (b : BitVec 6)
  /-- MULH (R111). High 64 bits of the signed 128-bit product. -/
  | mulh (d : BitVec 6) (a : BitVec 6) (b : BitVec 6)
  /-- MULHZ (R111). High 64 bits of the unsigned 128-bit product. -/
  | mulhz (d : BitVec 6) (a : BitVec 6) (b : BitVec 6)
  /-- DIV (R111). Signed division as a class G long operation, all ones on divide by zero. -/
  | div (d : BitVec 6) (a : BitVec 6) (b : BitVec 6)
  /-- DIVZ (R111). Unsigned division as a class G long operation. -/
  | divz (d : BitVec 6) (a : BitVec 6) (b : BitVec 6)
  /-- REM (R111). Signed remainder as a class G long operation. -/
  | rem (d : BitVec 6) (a : BitVec 6) (b : BitVec 6)
  /-- REMZ (R111). Unsigned remainder as a class G long operation. -/
  | remz (d : BitVec 6) (a : BitVec 6) (b : BitVec 6)
  /-- CLZ (R112). Counts leading zero bits. -/
  | clz (d : BitVec 6) (a : BitVec 6)
  /-- CTZ (R112). Counts trailing zero bits. -/
  | ctz (d : BitVec 6) (a : BitVec 6)
  /-- POPC (R112). Counts one bits. -/
  | popc (d : BitVec 6) (a : BitVec 6)
  /-- SEXT (R112). Sign-extends xa from bit position p. -/
  | sext (d : BitVec 6) (a : BitVec 6) (p : BitVec 6)
  /-- ZEXT (R112). Zero-extends xa from bit position p. -/
  | zext (d : BitVec 6) (a : BitVec 6) (p : BitVec 6)
  /-- SEL (R112). Selects xa or xb by the value of xd. -/
  | sel (d : BitVec 6) (a : BitVec 6) (b : BitVec 6)
  /-- BEXT (R112). Extracts a bit field of xa given by xb. -/
  | bext (d : BitVec 6) (a : BitVec 6) (b : BitVec 6)
  /-- BINS (R112). Inserts low bits of xa into xd at the field given by xb. -/
  | bins (d : BitVec 6) (a : BitVec 6) (b : BitVec 6)
  /-- ADDI (R113). Adds a sign-extended 10-bit immediate. -/
  | addi (d : BitVec 6) (a : BitVec 6) (i : BitVec 10)
  /-- ANDI (R113). ANDs with a zero-extended immediate. -/
  | andi (d : BitVec 6) (a : BitVec 6) (i : BitVec 10)
  /-- ORI (R113). ORs with a zero-extended immediate. -/
  | ori (d : BitVec 6) (a : BitVec 6) (i : BitVec 10)
  /-- XORI (R113). XORs with a zero-extended immediate. -/
  | xori (d : BitVec 6) (a : BitVec 6) (i : BitVec 10)
  /-- SHLI (R113). Shifts left by an immediate amount. -/
  | shli (d : BitVec 6) (a : BitVec 6) (s : BitVec 6)
  /-- SHRI (R113). Shifts right logically by an immediate amount. -/
  | shri (d : BitVec 6) (a : BitVec 6) (s : BitVec 6)
  /-- SARI (R113). Shifts right arithmetically by an immediate amount. -/
  | sari (d : BitVec 6) (a : BitVec 6) (s : BitVec 6)
  /-- SLTI (R113). Signed compare with a sign-extended immediate. -/
  | slti (d : BitVec 6) (a : BitVec 6) (i : BitVec 10)
  /-- SLTZI (R113). Unsigned compare with a zero-extended immediate. -/
  | sltzi (d : BitVec 6) (a : BitVec 6) (i : BitVec 10)
  /-- MOVI (R114). Writes a sign-extended 16-bit immediate. -/
  | movi (d : BitVec 6) (i : BitVec 16)
  /-- MOVK_0 (R114). Replaces bits [15:0] of xd with an immediate. -/
  | movk0 (d : BitVec 6) (i : BitVec 16)
  /-- MOVK_16 (R114). Replaces bits [31:16] of xd with an immediate. -/
  | movk16 (d : BitVec 6) (i : BitVec 16)
  /-- MOVK_32 (R114). Replaces bits [47:32] of xd with an immediate. -/
  | movk32 (d : BitVec 6) (i : BitVec 16)
  /-- MOVK_48 (R114). Replaces bits [63:48] of xd with an immediate. -/
  | movk48 (d : BitVec 6) (i : BitVec 16)
  /-- FADD (R116). FP32 addition rounded in mode rm. -/
  | fadd (d : BitVec 6) (a : BitVec 6) (b : BitVec 6) (r : BitVec 3)
  /-- FSUB (R116). FP32 subtraction rounded in mode rm. -/
  | fsub (d : BitVec 6) (a : BitVec 6) (b : BitVec 6) (r : BitVec 3)
  /-- FMUL (R116). FP32 multiplication rounded in mode rm. -/
  | fmul (d : BitVec 6) (a : BitVec 6) (b : BitVec 6) (r : BitVec 3)
  /-- FFMA (R116). FP32 fused multiply-add into xd with one rounding. -/
  | ffma (d : BitVec 6) (a : BitVec 6) (b : BitVec 6) (r : BitVec 3)
  /-- FDIV (R116). FP32 division as a class G long operation. -/
  | fdiv (d : BitVec 6) (a : BitVec 6) (b : BitVec 6) (r : BitVec 3)
  /-- FMIN (R117). FP32 minimum with NaN and signed-zero rules. -/
  | fmin (d : BitVec 6) (a : BitVec 6) (b : BitVec 6)
  /-- FMAX (R117). FP32 maximum with NaN and signed-zero rules. -/
  | fmax (d : BitVec 6) (a : BitVec 6) (b : BitVec 6)
  /-- FCMP_EQ (R117). Writes 1 if two FP32 values are equal. -/
  | fcmpEq (d : BitVec 6) (a : BitVec 6) (b : BitVec 6)
  /-- FCMP_LT (R117). Writes 1 if a < b in FP32. -/
  | fcmpLt (d : BitVec 6) (a : BitVec 6) (b : BitVec 6)
  /-- FCMP_LE (R117). Writes 1 if a <= b in FP32. -/
  | fcmpLe (d : BitVec 6) (a : BitVec 6) (b : BitVec 6)
  /-- FCMP_UN (R117). Writes 1 if either FP32 operand is NaN. -/
  | fcmpUn (d : BitVec 6) (a : BitVec 6) (b : BitVec 6)
  /-- FCLASS (R117). Writes a one-hot class of an FP32 value. -/
  | fclass (d : BitVec 6) (a : BitVec 6)
  /-- FCVT (R118). Converts a scalar between float and integer formats. -/
  | fcvt (d : BitVec 6) (a : BitVec 6) (f : BitVec 3) (t : BitVec 3) (r : BitVec 3) (s : BitVec 1)
  /-- FSQRT (R119). FP32 square root as a class G long operation. -/
  | fsqrt (d : BitVec 6) (a : BitVec 6) (r : BitVec 3)
  /-- FEXP2 (R119). FP32 base-2 exponential as a class G long operation. -/
  | fexp2 (d : BitVec 6) (a : BitVec 6) (r : BitVec 3)
  /-- FLOG2 (R119). FP32 base-2 logarithm as a class G long operation. -/
  | flog2 (d : BitVec 6) (a : BitVec 6) (r : BitVec 3)
  /-- FRCP (R119). FP32 reciprocal as a class G long operation. -/
  | frcp (d : BitVec 6) (a : BitVec 6) (r : BitVec 3)
  /-- FRSQ (R119). FP32 reciprocal square root as a class G long operation. -/
  | frsq (d : BitVec 6) (a : BitVec 6) (r : BitVec 3)
  /-- CLD (R184). Loads a 16-byte capability with its tag. -/
  | cld (d : BitVec 4) (c : BitVec 4) (i : BitVec 10)
  /-- CST (R185). Stores a capability and its tag subject to CS and GS. -/
  | cst (s : BitVec 4) (c : BitVec 4) (i : BitVec 10)
  /-- CDERIVE (R186). Derives a capability with a reduced length. -/
  | cderive (d : BitVec 4) (a : BitVec 4) (b : BitVec 6)
  /-- CSETO (R186). Sets a capability's offset, keeping its tag. -/
  | cseto (d : BitVec 4) (a : BitVec 4) (b : BitVec 6)
  /-- CADDO (R186). Adds a signed value to a capability's offset. -/
  | caddo (d : BitVec 4) (a : BitVec 4) (b : BitVec 6)
  /-- CGETO (R186). Reads a capability's offset. -/
  | cgeto (d : BitVec 6) (a : BitVec 4)
  /-- CGETL (R186). Reads a capability's length. -/
  | cgetl (d : BitVec 6) (a : BitVec 4)
  /-- CDROP (R186). Clears rights bits of a capability. -/
  | cdrop (d : BitVec 4) (a : BitVec 4) (b : BitVec 6)
  /-- CTAG (R186). Reads a capability's tag. -/
  | ctag (d : BitVec 6) (a : BitVec 4)
  /-- B (R121). Unconditional relative branch. -/
  | b (o : BitVec 22)
  /-- BL (R121). Relative branch with link to x47. -/
  | bl (o : BitVec 22)
  /-- BX (R121). Branch to the code offset in xa. -/
  | bx (a : BitVec 6)
  /-- BLX (R121). Branch to xa with link to xd. -/
  | blx (d : BitVec 6) (a : BitVec 6)
  /-- BEQZ (R122). Branches if xa is zero. -/
  | beqz (a : BitVec 6) (o : BitVec 16)
  /-- BNEZ (R122). Branches if xa is nonzero. -/
  | bnez (a : BitVec 6) (o : BitVec 16)
  /-- BLTZ (R122). Branches if xa is negative. -/
  | bltz (a : BitVec 6) (o : BitVec 16)
  /-- BGEZ (R122). Branches if xa is non-negative. -/
  | bgez (a : BitVec 6) (o : BitVec 16)
  /-- BEQ (R122). Branches if xa equals xb. -/
  | beq (a : BitVec 6) (b : BitVec 6) (o : BitVec 10)
  /-- BNE (R122). Branches if xa differs from xb. -/
  | bne (a : BitVec 6) (b : BitVec 6) (o : BitVec 10)
  /-- BLT (R122). Branches if xa < xb signed. -/
  | blt (a : BitVec 6) (b : BitVec 6) (o : BitVec 10)
  /-- BGE (R122). Branches if xa >= xb signed. -/
  | bge (a : BitVec 6) (b : BitVec 6) (o : BitVec 10)
  /-- BLTN (R122). Branches if xa < xb unsigned. -/
  | bltn (a : BitVec 6) (b : BitVec 6) (o : BitVec 10)
  /-- BGEN (R122). Branches if xa >= xb unsigned. -/
  | bgen (a : BitVec 6) (b : BitVec 6) (o : BitVec 10)
  /-- LNSET (R125). Reads, checks and arms a loop-nest context from a record. -/
  | lnset (n : BitVec 2) (c : BitVec 4) (x : BitVec 6)
  /-- LNIDX (R128). Reads an index of a loop nest. -/
  | lnidx (n : BitVec 2) (d : BitVec 6) (j : BitVec 2)
  /-- LNADR (R128). Reads a stream offset of a loop nest. -/
  | lnadr (n : BitVec 2) (d : BitVec 6) (k : BitVec 2)
  /-- LNSTEP (R127). Advances a loop nest and branches or disarms it. -/
  | lnstep (n : BitVec 2) (o : BitVec 20)
  /-- SPAWN (R131). Pushes a continuation record with a code label onto the local deque. -/
  | spawn (x : BitVec 6) (j : BitVec 6) (o : BitVec 10)
  /-- SPAWN_REG (R131). Pushes a continuation record with register code and join offsets. -/
  | spawnReg (x : BitVec 6) (c : BitVec 6) (j : BitVec 6)
  /-- SPAWNJ (R132). Registers a waiting record on a join counter using a code label. -/
  | spawnj (j : BitVec 6) (o : BitVec 16)
  /-- SPAWNJ_REG (R132). Registers a waiting record using register code and join offsets. -/
  | spawnjReg (c : BitVec 6) (j : BitVec 6)
  /-- LAUNCH (R137). Reads, checks and enqueues a launch record. -/
  | launch (a : BitVec 4)
  /-- LGROW (R138). Adds indices to the caller's launch. -/
  | lgrow (a : BitVec 6)
  /-- PRIO (R139). Sets the continuation's current priority. -/
  | prio (a : BitVec 6)
  /-- JOIN (R140). Joins a group from its next phase. -/
  | join (a : BitVec 4)
  /-- LEAVE (R140). Leaves a group or withdraws a pending join. -/
  | leave (a : BitVec 4)
  /-- GSYNC (R140). Arrives at a group and parks until its phase changes. -/
  | gsync (a : BitVec 4)
  /-- LD (R187). Loads 1 to 8 bytes sign-extended. -/
  | ld (d : BitVec 6) (c : BitVec 4) (z : BitVec 2) (i : BitVec 10)
  /-- LD_Z (R187). Loads 1 to 4 bytes zero-extended. -/
  | ldZ (d : BitVec 6) (c : BitVec 4) (z : BitVec 2) (i : BitVec 10)
  /-- ST (R187). Stores 1 to 8 bytes. -/
  | st (s : BitVec 6) (c : BitVec 4) (z : BitVec 2) (i : BitVec 10)
  /-- LDX (R187). Loads with a scaled index register. -/
  | ldx (d : BitVec 6) (c : BitVec 4) (z : BitVec 2) (x : BitVec 6) (e : BitVec 1)
  /-- STX (R187). Stores with a scaled index register. -/
  | stx (s : BitVec 6) (c : BitVec 4) (z : BitVec 2) (x : BitVec 6)
  /-- LDA (R187). Loads with acquire at a scope. -/
  | lda (d : BitVec 6) (c : BitVec 4) (z : BitVec 2) (x : BitVec 6) (p : BitVec 3) (e : BitVec 1)
  /-- STL (R187). Stores with release at a scope. -/
  | stl (s : BitVec 6) (c : BitVec 4) (z : BitVec 2) (x : BitVec 6) (p : BitVec 3)
  /-- PREF (R188). Hints a prefetch with no visible effect. -/
  | pref (c : BitVec 4) (z : BitVec 2) (i : BitVec 10)
  /-- AMO (R189). Atomic read-modify-write on 8 bytes with the order set by the major. -/
  | amo (o : BitVec 2) (d : BitVec 5) (s : BitVec 5) (c : BitVec 4) (p : BitVec 4) (i : BitVec 4)
  /-- CAS (R190). Compare-and-swap on 8 bytes with success and failure orders. -/
  | cas (d : BitVec 5) (s : BitVec 5) (c : BitVec 4) (i : BitVec 4) (o : BitVec 2) (f : BitVec 1)
  /-- RED (R191). Sends a scalar contribution to the sparse-update units. -/
  | red (s : BitVec 6) (c : BitVec 4) (p : BitVec 4) (o : BitVec 1) (i : BitVec 6)
  /-- REDV (R191). Sends a vector of contributions to the sparse-update units. -/
  | redv (s : BitVec 5) (c : BitVec 4) (p : BitVec 4) (o : BitVec 1) (i : BitVec 6)
  /-- WAIT (R59). Parks until each class count is at or below its immediate. -/
  | wait (l : BitVec 5) (s : BitVec 5) (c : BitVec 4) (t : BitVec 4) (h : BitVec 4)
  /-- KNOT (R176). Orders masked classes at a scope, parking until earlier accesses are performed. -/
  | knot (m : BitVec 5) (s : BitVec 3)
  /-- BINIT (R193). Sets a barrier object's expected count and clears arrivals and error. -/
  | binit (c : BitVec 4) (x : BitVec 6) (i : BitVec 9)
  /-- BARR (R193). Arrives at a barrier object with release. -/
  | barr (c : BitVec 4) (x : BitVec 6) (i : BitVec 9)
  /-- BWAIT (R193). Parks until a barrier object's phase differs from p. -/
  | bwait (c : BitVec 4) (p : BitVec 1) (i : BitVec 9)
  /-- BTEST (R193). Reads a barrier object's error, phase and arrivals with acquire. -/
  | btest (c : BitVec 4) (d : BitVec 6) (i : BitVec 9)
  /-- COPY (R195). Copies bytes by engine in chunks, counting into a barrier object. -/
  | copy (d : BitVec 4) (s : BitVec 4) (x : BitVec 6) (b : BitVec 4) (i : BitVec 4)
  /-- COPY_M (R196). Copies the same bytes to every destination of a list. -/
  | copyM (d : BitVec 4) (s : BitVec 4) (x : BitVec 6) (b : BitVec 4) (i : BitVec 4)
  /-- COPYN (R197). Copies per point of a loop nest between two streams. -/
  | copyn (n : BitVec 2) (b : BitVec 4) (i : BitVec 4)
  /-- COPYT (R198). Moves pages of a range to the named tier. -/
  | copyt (c : BitVec 4) (x : BitVec 6) (t : BitVec 1) (b : BitVec 4) (i : BitVec 4)
  /-- MIGR (R199). Moves one page to a new frame. -/
  | migr (c : BitVec 4) (x : BitVec 6) (b : BitVec 4) (i : BitVec 4)
  /-- CRED (R200). Makes a narrow reducing store to destinations with residual carry. -/
  | cred (d : BitVec 4) (s : BitVec 4) (x : BitVec 6) (f : BitVec 3) (b : BitVec 4)
  /-- COPYR (R201). Resumes a stopped copy from offset F to T. -/
  | copyr (d : BitVec 4) (s : BitVec 4) (x : BitVec 6) (b : BitVec 4) (i : BitVec 4)
  /-- VADD (R208). Lane-wise addition. -/
  | vadd (d : BitVec 5) (a : BitVec 5) (b : BitVec 5) (m : BitVec 4) (e : BitVec 3)
  /-- VSUB (R208). Lane-wise subtraction. -/
  | vsub (d : BitVec 5) (a : BitVec 5) (b : BitVec 5) (m : BitVec 4) (e : BitVec 3)
  /-- VMUL (R208). Lane-wise multiplication. -/
  | vmul (d : BitVec 5) (a : BitVec 5) (b : BitVec 5) (m : BitVec 4) (e : BitVec 3)
  /-- VFMA (R208). Lane-wise fused multiply-add into vd. -/
  | vfma (d : BitVec 5) (a : BitVec 5) (b : BitVec 5) (m : BitVec 4) (e : BitVec 3)
  /-- VMIN (R208). Lane-wise minimum. -/
  | vmin (d : BitVec 5) (a : BitVec 5) (b : BitVec 5) (m : BitVec 4) (e : BitVec 3)
  /-- VMAX (R208). Lane-wise maximum. -/
  | vmax (d : BitVec 5) (a : BitVec 5) (b : BitVec 5) (m : BitVec 4) (e : BitVec 3)
  /-- VAND (R209). Bitwise AND of vector registers. -/
  | vand (d : BitVec 5) (a : BitVec 5) (b : BitVec 5) (m : BitVec 4)
  /-- VOR (R209). Bitwise OR of vector registers. -/
  | vor (d : BitVec 5) (a : BitVec 5) (b : BitVec 5) (m : BitVec 4)
  /-- VXOR (R209). Bitwise XOR of vector registers. -/
  | vxor (d : BitVec 5) (a : BitVec 5) (b : BitVec 5) (m : BitVec 4)
  /-- VSHL (R210). Lane-wise left shift. -/
  | vshl (d : BitVec 5) (a : BitVec 5) (b : BitVec 5) (m : BitVec 4) (w : BitVec 2)
  /-- VSHR (R210). Lane-wise logical right shift. -/
  | vshr (d : BitVec 5) (a : BitVec 5) (b : BitVec 5) (m : BitVec 4) (w : BitVec 2)
  /-- VCMP (R211). Lane-wise comparison into a mask. -/
  | vcmp (d : BitVec 3) (a : BitVec 5) (b : BitVec 5) (c : BitVec 3) (e : BitVec 3)
  /-- VSEL (R212). Selects lanes of va or vb by a mask. -/
  | vsel (d : BitVec 5) (a : BitVec 5) (b : BitVec 5) (m : BitVec 3) (e : BitVec 3)
  /-- VCVT (R213). Converts lanes between element types. -/
  | vcvt (d : BitVec 5) (a : BitVec 5) (f : BitVec 3) (t : BitVec 3) (r : BitVec 3) (s : BitVec 1)
  /-- VRED (R214). Reduces participating lanes by a fixed pairwise tree. -/
  | vred (d : BitVec 5) (a : BitVec 5) (o : BitVec 5) (m : BitVec 4) (e : BitVec 3)
  /-- VLD (R221). Loads 256 bytes into a vector register. -/
  | vld (v : BitVec 5) (c : BitVec 4) (i : BitVec 10)
  /-- VST (R221). Stores 256 bytes from a vector register. -/
  | vst (v : BitVec 5) (c : BitVec 4) (i : BitVec 10)
  /-- VGATH (R222). Gathers 64 elements at indexed offsets. -/
  | vgath (v : BitVec 5) (c : BitVec 4) (x : BitVec 5) (e : BitVec 3)
  /-- VSCAT (R223). Scatters or scatter-adds 64 elements at indexed offsets. -/
  | vscat (v : BitVec 5) (c : BitVec 4) (x : BitVec 5) (e : BitVec 3) (a : BitVec 1)
  /-- VBCAST (R215). Broadcasts a scalar into every lane. -/
  | vbcast (d : BitVec 5) (x : BitVec 6) (e : BitVec 3)
  /-- VPERM (R215). Permutes bytes of va by vb. -/
  | vperm (d : BitVec 5) (a : BitVec 5) (b : BitVec 5)
  /-- VEXP2 (R215). Lane-wise base-2 exponential. -/
  | vexp2 (d : BitVec 5) (a : BitVec 5) (e : BitVec 3)
  /-- VRCP (R215). Lane-wise reciprocal. -/
  | vrcp (d : BitVec 5) (a : BitVec 5) (e : BitVec 3)
  /-- VBSET (R216). Sets one bit of a vector register. -/
  | vbset (v : BitVec 5) (x : BitVec 6)
  /-- VBTST (R217). Tests bitmap bits indexed by lanes into a mask. -/
  | vbtst (d : BitVec 3) (a : BitVec 5) (b : BitVec 5) (e : BitVec 3)
  /-- VMATCH (R218). Finds every occurrence of a byte pattern into a mask. -/
  | vmatch (d : BitVec 3) (a : BitVec 5) (b : BitVec 5)
  /-- VMOVX_TO_X (R219). Moves one 64-bit lane of a vector to a scalar register. -/
  | vmovxToX (x : BitVec 6) (v : BitVec 5) (l : BitVec 5)
  /-- VMOVX_TO_V (R219). Writes a scalar register into one 64-bit lane of a vector. -/
  | vmovxToV (x : BitVec 6) (v : BitVec 5) (l : BitVec 5)
  /-- TOPK (R220). Ranks lanes and writes the top k lane numbers. -/
  | topk (d : BitVec 5) (a : BitVec 5) (k : BitVec 7) (e : BitVec 3)
  /-- TMMA (R231). Accumulates a tile product into an accumulator block by block. -/
  | tmma (d : BitVec 2) (a : BitVec 4) (b : BitVec 4)
  /-- TADD (R233). Element-wise tile addition re-encoded into td. -/
  | tadd (d : BitVec 4) (a : BitVec 4) (b : BitVec 4) (r : BitVec 3) (s : BitVec 1)
  /-- TMUL (R233). Element-wise tile multiplication re-encoded into td. -/
  | tmul (d : BitVec 4) (a : BitVec 4) (b : BitVec 4) (r : BitVec 3) (s : BitVec 1)
  /-- TCVT (R233). Re-encodes a tile into td's format. -/
  | tcvt (d : BitVec 4) (a : BitVec 4) (r : BitVec 3) (s : BitVec 1)
  /-- TTRANS (R233). Transposes a tile into td. -/
  | ttrans (d : BitVec 4) (a : BitVec 4) (r : BitVec 3) (s : BitVec 1)
  /-- TZERO (R233). Sets every block of a tile to a zero block. -/
  | tzero (d : BitVec 4)
  /-- TZERO_ACC (R233). Zeroes an accumulator and its extent. -/
  | tzeroAcc (d : BitVec 2)
  /-- TROWMAX (R234). Writes each accumulator row's maximum as BF16 lanes. -/
  | trowmax (a : BitVec 2) (d : BitVec 5)
  /-- TROWSUM (R234). Writes each accumulator row's sum into two vector registers. -/
  | trowsum (a : BitVec 2) (d : BitVec 5)
  /-- TMOVV (R234). Moves one accumulator row into a vector register. -/
  | tmovv (a : BitVec 2) (d : BitVec 5) (r : BitVec 7)
  /-- TDRAIN (R236). Sends an accumulator's extent through a route entry. -/
  | tdrain (a : BitVec 2) (r : BitVec 4)
  /-- TLD (R229). Loads tile rows from memory. -/
  | tld (d : BitVec 4) (c : BitVec 4) (p : BitVec 6) (i : BitVec 8)
  /-- TST (R229). Stores tile rows to memory. -/
  | tst (d : BitVec 4) (c : BitVec 4) (p : BitVec 6) (i : BitVec 8)
  /-- MTTC (R228). Writes a tile control register. -/
  | mttc (t : BitVec 4) (x : BitVec 6)
  /-- MFTC (R228). Reads a tile control register. -/
  | mftc (t : BitVec 4) (d : BitVec 6)
  /-- TCLAIM (R225). Claims a core accumulator, stalling while another holds it. -/
  | tclaim (a : BitVec 2)
  /-- TLDN (R230). Loads tile rows from a loop-nest stream. -/
  | tldn (d : BitVec 4) (n : BitVec 2)
  /-- TGEMM (R232). Runs double-buffered block steps of tile products over a nest. -/
  | tgemm (a : BitVec 2) (p : BitVec 4) (q : BitVec 4) (n : BitVec 2)
  /-- TSAVE (R237). Saves the continuation's tile state to memory. -/
  | tsave (c : BitVec 4)
  /-- TREST (R237). Restores the continuation's tile state from memory. -/
  | trest (c : BitVec 4)
  /-- BGLOAD (R249). Checks and loads a braid image into fabric slots. -/
  | bgload (d : BitVec 6) (c : BitVec 4)
  /-- BGRUN (R250). Arms a braid for V vectors under a sequence and ply. -/
  | bgrun (a : BitVec 6) (b : BitVec 6) (c : BitVec 4) (r : BitVec 4)
  /-- BGFREE (R251). Stops and frees a loaded braid. -/
  | bgfree (a : BitVec 6)
  /-- BGSTAT (R252). Reads a braid's status. -/
  | bgstat (d : BitVec 6) (a : BitVec 6)
  /-- ATTN (R272). Checks and submits an attention job record to the die job queue. -/
  | attn (c : BitVec 4)
  /-- AMERGE (R273). Merges or finalises state arrays record by record. -/
  | amerge (d : BitVec 4) (a : BitVec 4) (b : BitVec 4)
  /-- SUMM (R274). Writes the summary rows of one KV block. -/
  | summ (c : BitVec 4) (x : BitVec 6)
  /-- KVAPP (R275). Appends one position's keys and values to the KV map. -/
  | kvapp (c : BitVec 4) (x : BitVec 6)
  /-- KVMAP (R276). Looks up a KV map key. -/
  | kvmap (d : BitVec 6) (a : BitVec 6)
  /-- KVSHOOT (R277). Invalidates cached KV map entries of a sequence across the package. -/
  | kvshoot (a : BitVec 6) (b : BitVec 6)
  /-- SLDH (R280). Loads a soft register from a 32-byte image. -/
  | sldh (d : BitVec 3) (c : BitVec 4)
  /-- SST (R280). Stores a soft register as a 32-byte image. -/
  | sst (s : BitVec 3) (c : BitVec 4)
  /-- SMIX (R281). Adds a weighted token pair to a MIX. -/
  | smix (d : BitVec 3) (a : BitVec 6) (b : BitVec 6)
  /-- SEMB (R282). Embeds a TEXT or MIX into a hidden vector. -/
  | semb (d : BitVec 3) (s : BitVec 3) (c : BitVec 4)
  /-- SCOLL_MAX (R283). Collapses a MIX to its heaviest token. -/
  | scollMax (d : BitVec 3) (s : BitVec 3)
  /-- SCOLL_SMP (R283). Collapses a MIX to a sampled token. -/
  | scollSmp (d : BitVec 3) (s : BitVec 3) (u : BitVec 6)
  /-- SDIG (R284). Computes a soft position's digest. -/
  | sdig (d : BitVec 6) (s : BitVec 3)
  /-- SLOG (R286). Appends a soft position to a position log. -/
  | slog (s : BitVec 3) (c : BitVec 4) (x : BitVec 6)
  /-- SREPLAY (R287). Restores a logged position into a soft register after a digest check. -/
  | sreplay (d : BitVec 3) (c : BitVec 4) (x : BitVec 6)
  /-- SPLFIND (R290). Matches a key list against the splice tree. -/
  | splfind (d : BitVec 6) (c : BitVec 4) (x : BitVec 6)
  /-- SPLINS (R291). Inserts a key list into the splice tree. -/
  | splins (c : BitVec 4) (a : BitVec 6) (b : BitVec 6)
  /-- SPLREF (R292). Shares or releases a sequence's block frames in every layer. -/
  | splref (a : BitVec 6) (b : BitVec 6)
  /-- PLYCUT (R295). Cancels all work of a sequence at or above a ply. -/
  | plycut (a : BitVec 6) (k : BitVec 5)
  /-- TRAP (R317). Raises trap cause 9. -/
  | trap (i : BitVec 16)
  /-- MFS (R319). Reads a system register. -/
  | mfs (d : BitVec 6) (r : BitVec 12)
  /-- MTS (R319). Writes a system register. -/
  | mts (a : BitVec 6) (r : BitVec 12)
  /-- BRK (R317). Raises breakpoint cause 8. -/
  | brk (i : BitVec 16)
  /-- OTINV (R321). Invalidates cached object table entries. -/
  | otinv (a : BitVec 6)
  /-- TLBINV (R322). Invalidates TLB entries of objects at die or package scope. -/
  | tlbinv (a : BitVec 6) (s : BitVec 3)
  /-- ILLEGAL_WORD (R107). A word with an unassigned major, selector or field raises illegal instruction. -/
  | illegalWord (w : Word)
  /-- RESULT_VISIBLE (R56). A fixed-latency result becomes visible and is pushed into l0. -/
  | resultVisible (slot : Nat)
  /-- LONG_OP_COMPLETE (R58). A long operation completes, writes its register and leaves its class. -/
  | longOpComplete (slot : Nat) (op : Nat)
  /-- ENDC_RELEASE (R46). After the counts drain, ENDC releases, decrements its join counter and the live count. -/
  | endcRelease (slot : Nat)
  /-- COMMIT_RETIRE (R135). After the counts drain, COMMIT writes the checkpoint and leaves if pre-emption is pending. -/
  | commitRetire (slot : Nat)
  /-- COMPLETION_ACTION_RESUME (R34). A completion action waiting for a page continues once the page is present. -/
  | completionActionResume (lid : Nat)
  /-- LAUNCH_REGISTER_WRITE (R30). A 64-byte posted write to a launch register is tagged, checked and queued or refused. -/
  | launchRegisterWrite (iface : Nat) (w : BarWrite)
  /-- LAUNCH_ID_ASSIGN (R32). A waiting launch receives a freed launch ID and its entry is enqueued. -/
  | launchIdAssign (n : Nat)
  /-- DISPATCH (R41). An idle slot takes the first fitting record and its state is set. -/
  | dispatch (core : Nat)
  /-- STARVATION_GUARD_ARM (R43). After 63 dispatches on a die the guard arms and serves the oldest entry. -/
  | starvationGuardArm (die : Nat)
  /-- PAGE_WALK_RETURN (R150). A page-table walk returns a leaf, resuming a stalled access or trapping. -/
  | pageWalkReturn (slot : Nat)
  /-- PAGE_PRESENT_RESUME (R151). A slot stalled on a non-present page resumes once the page is present. -/
  | pagePresentResume (slot : Nat)
  /-- SPILL_ELEMENT_PERFORM (R152). A spilled stream element is performed once its page is present and delivered. -/
  | spillElementPerform (port : Nat) (n : Nat)
  /-- CHUNK_COMPLETE (R155). An engine chunk's last byte is performed and its bytes are counted into the barrier object. -/
  | chunkComplete (slot : Nat) (op : Nat) (n : Nat)
  /-- MIGRATION_SWITCH (R160). When the copy cursor reaches the page end the leaf switches to the new frame. -/
  | migrationSwitch (n : Nat)
  /-- SHOOTDOWN_COMPLETE (R160). Completion of a migration's TLB shoot-down releases the old frame. -/
  | shootdownComplete (n : Nat)
  /-- MACRO_STEP (R232). A macro-operation step or point completes and the next begins. -/
  | macroStep (slot : Nat) (op : Nat)
  /-- APIPE_JOB_TAKE (R18). A free A-pipe takes the oldest job of its die's job queue. -/
  | apipeJobTake (die : Nat) (pipe : Nat)
  /-- APIPE_BLOCK_MERGE (R268). A block partial, diverted or not, is merged into the record's running state on arrival. -/
  | apipeBlockMerge (die : Nat) (pipe : Nat) (n : Nat)
  /-- FRAME_RETURN (R293). A freed frame returns to the pool after buffers drop it and earlier jobs leave class C. -/
  | frameReturn (n : Nat)
  /-- BRAID_INPUT_VECTOR (R246). An input vector arrives at a braid and is accepted, dropped or discarded. -/
  | braidInputVector (die : Nat) (handle : Nat)
  /-- BRAID_VECTOR_OUTPUT (R245). A braid vector's outputs are written, and the run ends after V vectors. -/
  | braidVectorOutput (die : Nat) (handle : Nat)
  /-- CRED_GROUP_COMPLETE (R200). A CRED group performed at every destination writes its residuals. -/
  | credGroupComplete (slot : Nat) (op : Nat) (n : Nat)
  /-- PREEMPTION_REQUEST (R312). Firmware raises a pre-emption request, setting TSTAT.PRE and starting the watchdog. -/
  | preemptionRequest (slot : Nat)
  /-- WATCHDOG_EXPIRY (R313). The watchdog interval elapses, commands are dropped and a cause-10 trap is taken. -/
  | watchdogExpiry (slot : Nat)
  /-- WATCHDOG_HANDLER_TIMEOUT (R313). The cause-10 handler fails to ERET in time and firmware restarts the continuation. -/
  | watchdogHandlerTimeout (slot : Nat)
  /-- MACHINE_ERROR (R310). An uncorrectable soft error makes firmware restart the continuation. -/
  | machineError (slot : Nat)
  /-- IDLE_WAKE (R320). An IDLE slot resumes after 64 cycles or a pre-emption request. -/
  | idleWake (slot : Nat)
  /-- CORE_RETIRE (R21). Firmware retires a core, mapping a spare or handing its deque to die queues. -/
  | coreRetire (die : Nat) (core : Nat)
  /-- POWER_HOLD (R25). Issue holds withhold issue and job acceptance to keep power within 2,400 W. -/
  | powerHold (core : Nat) (cycles : Nat)
  /-- THERMAL_HOLD (R355). A die above 105 degrees C gets added holds. -/
  | thermalHold (die : Nat) (cycles : Nat)
  /-- INTERFACE_CONFIGURE (R324). The host sets an interface's configuration through the mailbox. -/
  | interfaceConfigure (iface : Nat) (cfg : IfaceCfg)
  /-- HOST_WINDOW_WRITE (R324). A host posted write through BAR2 is performed on the window object in order. -/
  | hostWindowWrite (iface : Nat) (off : Nat) (bytes : List Byte)
  /-- HOST_WINDOW_READ (R324). A host read through BAR2 returns after earlier posted writes are performed. -/
  | hostWindowRead (iface : Nat) (off : Nat) (size : Nat)
  /-- NDOED_LANE_FAIL (R330). A failed Ndoed lane is retired, lowering the port rate or taking the port down. -/
  | ndoedLaneFail (port : Nat)
  /-- REMOTE_REQUEST (R331). A kind-3 access arriving over Ndoed is resolved and performed at the home device. -/
  | remoteRequest (r : RemoteReq)
  /-- REMOTE_ACCESS_TIMEOUT (R331). A remote access unanswered within 10 ms fails unresolvably with cause 10. -/
  | remoteAccessTimeout (slot : Nat) (op : Nat)
  /-- CXL_PORT_FAIL (R334). A failed CXL port or device makes its frames fail with cause 11. -/
  | cxlPortFail (port : Nat)
  /-- FIRMWARE_IMAGE_LOAD (R353). A firmware image written via the mailbox is verified or leaves the device in recovery. -/
  | firmwareImageLoad (image : List Byte) (sig : List Byte)
  /-- ABX_LOAD (R349). The loader checks a container, applies bindings and places sections. -/
  | abxLoad (args : LoadArgs) (file : List Byte)
  /-- SEQ_STEP (R352). The loader executes one SEQ step. -/
  | seqStep (iface : Nat)
  /-- INTERFACE_RESET (R48). A virtual interface is reset, which frees the join-table entries of waiting records whose counters never reached zero. -/
  | interfaceReset (iface : Nat)
  /-- ATTESTATION_REQUEST (R354). A nonce request produces a signed attestation report. -/
  | attestationRequest (nonce : List Byte)
  /-- DOMAIN_BRING_UP (R20). Firmware brings the Ndoed domain up, so that SLOTID.DOM becomes 1 and DEV holds the device ID. -/
  | domainBringUp (dev : Nat)
  /-- DIE_TEMPERATURE_FALL (R355). A die's temperature falls back below 105 °C, and the device stops adding thermal holds. -/
  | dieTemperatureFall (die : Nat)
  /-- ENDC (R134). Ends the continuation after its counts drain. -/
  | endc
  /-- COMMIT (R135). Makes a commit point once all counts drain. -/
  | commit
  /-- ERET (R318). Returns from a trap level, or restarts after a watchdog trap. -/
  | eret
  /-- IDLE (R320). Parks the slot for 64 cycles or until a pre-emption request. -/
  | idle
  /-- THERMAL_SHUTDOWN (R355). At 115 degrees C firmware stops interfaces, posts cause 17 and powers down. -/
  | thermalShutdown
  /-- CAPABILITY_LIST_UPDATE (R326). A unit change updates the capability list and raises MSI-X vector 0. -/
  | capabilityListUpdate
  /-- MODULE_RESET (R353). Module reset runs boot ROM, firmware verification, training and interface opening. -/
  | moduleReset
  deriving DecidableEq, Repr

end Sys2Proof
end

