-- ==== Sys2Proof/WellFormed.lean ====
section
/-! DEFINITION. Well-formedness: the operand values 07 R86, R87 and the instruction maps R93-R106 allow. -/

namespace Sys2Proof

/-- A 6-bit specifier as a source (R86): 63 names nothing. -/
def srcOk (r : BitVec 6) : Bool := r != 63

/-- A 6-bit specifier as a destination (R86): x0-x47, o0-o7 or xz. -/
def dstOk (r : BitVec 6) : Bool := decide (r.toNat < 56) || r == 60

/-- A rounding mode (R63). -/
def rmOk (r : BitVec 3) : Bool := decide (r.toNat ≤ 4)

/-- A tile field (R87). -/
def tileOk (t : BitVec 4) : Bool := decide (t.toNat ≤ 13)

/-- An mk field (R204): without masking the mask number is reserved. -/
def mkOk (m : BitVec 4) : Bool := decide (8 ≤ m.toNat) || m == 0

/-- A barrier operand (R194): bcap 0 means none, and the immediate must then be 0. -/
def barOk (b i : BitVec 4) : Bool := b != 0 || i == 0

/-- The numbers of the system registers (R92). -/
def sysRegOk (r : BitVec 12) : Bool :=
  [0x000, 0x001, 0x010, 0x011, 0x012, 0x013, 0x014, 0x018, 0x019, 0x01A, 0x01B].contains r.toNat

/-- The instruction may stand in a code object: every operand is in range. Events are no words. -/
def wellFormed : Instr → Bool
  | .add d a b => dstOk d && srcOk a && srcOk b
  | .sub d a b => dstOk d && srcOk a && srcOk b
  | .and d a b => dstOk d && srcOk a && srcOk b
  | .or d a b => dstOk d && srcOk a && srcOk b
  | .xor d a b => dstOk d && srcOk a && srcOk b
  | .andn d a b => dstOk d && srcOk a && srcOk b
  | .shl d a b => dstOk d && srcOk a && srcOk b
  | .shr d a b => dstOk d && srcOk a && srcOk b
  | .sar d a b => dstOk d && srcOk a && srcOk b
  | .min d a b => dstOk d && srcOk a && srcOk b
  | .max d a b => dstOk d && srcOk a && srcOk b
  | .minz d a b => dstOk d && srcOk a && srcOk b
  | .maxz d a b => dstOk d && srcOk a && srcOk b
  | .slt d a b => dstOk d && srcOk a && srcOk b
  | .sltz d a b => dstOk d && srcOk a && srcOk b
  | .seq d a b => dstOk d && srcOk a && srcOk b
  | .mul d a b => dstOk d && srcOk a && srcOk b
  | .mulh d a b => dstOk d && srcOk a && srcOk b
  | .mulhz d a b => dstOk d && srcOk a && srcOk b
  | .div d a b => dstOk d && srcOk a && srcOk b
  | .divz d a b => dstOk d && srcOk a && srcOk b
  | .rem d a b => dstOk d && srcOk a && srcOk b
  | .remz d a b => dstOk d && srcOk a && srcOk b
  | .clz d a => dstOk d && srcOk a
  | .ctz d a => dstOk d && srcOk a
  | .popc d a => dstOk d && srcOk a
  | .sext d a _ => dstOk d && srcOk a
  | .zext d a _ => dstOk d && srcOk a
  | .sel d a b => dstOk d && srcOk a && srcOk b
  | .bext d a b => dstOk d && srcOk a && srcOk b
  | .bins d a b => dstOk d && srcOk a && srcOk b
  | .addi d a _ => dstOk d && srcOk a
  | .andi d a _ => dstOk d && srcOk a
  | .ori d a _ => dstOk d && srcOk a
  | .xori d a _ => dstOk d && srcOk a
  | .shli d a _ => dstOk d && srcOk a
  | .shri d a _ => dstOk d && srcOk a
  | .sari d a _ => dstOk d && srcOk a
  | .slti d a _ => dstOk d && srcOk a
  | .sltzi d a _ => dstOk d && srcOk a
  | .movi d _ => dstOk d
  | .movk0 d _ => dstOk d
  | .movk16 d _ => dstOk d
  | .movk32 d _ => dstOk d
  | .movk48 d _ => dstOk d
  | .fadd d a b r => dstOk d && srcOk a && srcOk b && rmOk r
  | .fsub d a b r => dstOk d && srcOk a && srcOk b && rmOk r
  | .fmul d a b r => dstOk d && srcOk a && srcOk b && rmOk r
  | .ffma d a b r => dstOk d && srcOk a && srcOk b && rmOk r
  | .fdiv d a b r => dstOk d && srcOk a && srcOk b && rmOk r
  | .fmin d a b => dstOk d && srcOk a && srcOk b
  | .fmax d a b => dstOk d && srcOk a && srcOk b
  | .fcmpEq d a b => dstOk d && srcOk a && srcOk b
  | .fcmpLt d a b => dstOk d && srcOk a && srcOk b
  | .fcmpLe d a b => dstOk d && srcOk a && srcOk b
  | .fcmpUn d a b => dstOk d && srcOk a && srcOk b
  | .fclass d a => dstOk d && srcOk a
  | .fcvt d a f t r _ => dstOk d && srcOk a && rmOk r && decide (f.toNat ≤ 6) && decide (t.toNat ≤ 6)
  | .fsqrt d a r => dstOk d && srcOk a && rmOk r
  | .fexp2 d a r => dstOk d && srcOk a && rmOk r
  | .flog2 d a r => dstOk d && srcOk a && rmOk r
  | .frcp d a r => dstOk d && srcOk a && rmOk r
  | .frsq d a r => dstOk d && srcOk a && rmOk r
  | .cld _ _ _ => true
  | .cst _ _ _ => true
  | .cderive _ _ b => srcOk b
  | .cseto _ _ b => srcOk b
  | .caddo _ _ b => srcOk b
  | .cgeto d _ => dstOk d
  | .cgetl d _ => dstOk d
  | .cdrop _ _ b => srcOk b
  | .ctag d _ => dstOk d
  | .b _ => true
  | .bl _ => true
  | .bx a => srcOk a
  | .blx d a => dstOk d && srcOk a
  | .beqz a _ => srcOk a
  | .bnez a _ => srcOk a
  | .bltz a _ => srcOk a
  | .bgez a _ => srcOk a
  | .beq a b _ => srcOk a && srcOk b
  | .bne a b _ => srcOk a && srcOk b
  | .blt a b _ => srcOk a && srcOk b
  | .bge a b _ => srcOk a && srcOk b
  | .bltn a b _ => srcOk a && srcOk b
  | .bgen a b _ => srcOk a && srcOk b
  | .lnset _ _ x => srcOk x
  | .lnidx _ d _ => dstOk d
  | .lnadr _ d k => dstOk d && decide (k ≠ 3)
  | .lnstep _ _ => true
  | .spawn x _ _ => srcOk x
  | .spawnReg x c j => srcOk x && srcOk c && srcOk j
  | .spawnj j _ => decide (j ≠ 63)
  | .spawnjReg c j => srcOk c && srcOk j
  | .endc => true
  | .commit => true
  | .launch _ => true
  | .lgrow a => srcOk a
  | .prio a => srcOk a
  | .join _ => true
  | .leave _ => true
  | .gsync _ => true
  | .ld d _ _ _ => dstOk d
  | .ldZ d _ z _ => dstOk d && decide (z ≠ 3)
  | .st s _ _ _ => srcOk s
  | .ldx d _ z x e => dstOk d && srcOk x && !(z == 3 && e == 1)
  | .stx s _ _ x => srcOk s && srcOk x
  | .lda d _ z x p e => dstOk d && srcOk x && !(z == 3 && e == 1) && decide (p.toNat ≤ 4)
  | .stl s _ _ x p => srcOk s && srcOk x && decide (p.toNat ≤ 4)
  | .pref _ _ _ => true
  | .amo _ _ _ _ p _ => decide (p.toNat ≤ 9)
  | .cas _ _ _ _ _ _ => true
  | .red s _ p _ _ => srcOk s && decide (p.toNat ≤ 8)
  | .redv _ _ p _ _ => decide (p.toNat ≤ 8)
  | .wait _ _ _ _ _ => true
  | .knot m s => decide (m ≠ 0) && decide (s.toNat ≤ 4)
  | .binit _ x _ => srcOk x
  | .barr _ x _ => srcOk x
  | .bwait _ _ _ => true
  | .btest _ d _ => dstOk d
  | .copy _ _ x b i => srcOk x && barOk b i
  | .copyM _ _ x b i => srcOk x && barOk b i
  | .copyn _ b i => barOk b i
  | .copyt _ x _ b i => srcOk x && barOk b i
  | .migr _ x b i => srcOk x && barOk b i
  | .cred _ s x f _ => srcOk x && decide (f ≠ 7) && decide (s ≠ 15)
  | .copyr _ _ x b i => x.toNat % 2 = 0 && decide (x.toNat ≤ 46) && barOk b i
  | .vadd _ _ _ m _ => mkOk m
  | .vsub _ _ _ m _ => mkOk m
  | .vmul _ _ _ m _ => mkOk m
  | .vfma _ _ _ m _ => mkOk m
  | .vmin _ _ _ m _ => mkOk m
  | .vmax _ _ _ m _ => mkOk m
  | .vand _ _ _ m => mkOk m
  | .vor _ _ _ m => mkOk m
  | .vxor _ _ _ m => mkOk m
  | .vshl _ _ _ m w => mkOk m && decide (w ≠ 3)
  | .vshr _ _ _ m w => mkOk m && decide (w ≠ 3)
  | .vcmp _ _ _ c _ => decide (c.toNat ≤ 4)
  | .vsel _ _ _ _ _ => true
  | .vcvt _ _ _ _ r _ => rmOk r
  | .vred _ _ o m _ => decide (o.toNat ≤ 2) && mkOk m
  | .vld _ _ _ => true
  | .vst _ _ _ => true
  | .vgath _ _ _ _ => true
  | .vscat _ _ _ e a => !(a == 1 && (e == 6 || e == 7))
  | .vbcast _ x _ => srcOk x
  | .vperm _ _ _ => true
  | .vexp2 _ _ e => (e == 1 || e == 3 || e == 4)
  | .vrcp _ _ e => (e == 1 || e == 3 || e == 4)
  | .vbset _ x => srcOk x
  | .vbtst _ _ _ e => (e == 0 || e == 2 || e == 5)
  | .vmatch _ _ _ => true
  | .vmovxToX x _ _ => dstOk x
  | .vmovxToV x _ _ => srcOk x
  | .topk _ _ k _ => decide (1 ≤ k.toNat) && decide (k.toNat ≤ 64)
  | .tmma _ a b => tileOk a && tileOk b
  | .tadd d a b r _ => tileOk d && tileOk a && tileOk b && rmOk r
  | .tmul d a b r _ => tileOk d && tileOk a && tileOk b && rmOk r
  | .tcvt d a r _ => tileOk d && tileOk a && rmOk r
  | .ttrans d a r _ => tileOk d && tileOk a && rmOk r
  | .tzero d => tileOk d
  | .tzeroAcc _ => true
  | .trowmax _ _ => true
  | .trowsum _ d => d.toNat % 2 = 0
  | .tmovv _ _ _ => true
  | .tdrain _ _ => true
  | .tld d _ p _ => tileOk d && srcOk p
  | .tst d _ p _ => tileOk d && srcOk p
  | .mttc _ x => srcOk x
  | .mftc _ d => dstOk d
  | .tclaim _ => true
  | .tldn d _ => tileOk d
  | .tgemm _ p q _ => decide (p.toNat ≤ 12) && decide (q.toNat ≤ 12) && decide (p.toNat + 1 < q.toNat ∨ q.toNat + 1 < p.toNat)
  | .tsave _ => true
  | .trest _ => true
  | .bgload d _ => dstOk d
  | .bgrun a b _ _ => srcOk a && srcOk b
  | .bgfree a => srcOk a
  | .bgstat d a => dstOk d && srcOk a
  | .attn _ => true
  | .amerge _ _ _ => true
  | .summ _ x => srcOk x
  | .kvapp _ x => srcOk x
  | .kvmap d a => dstOk d && srcOk a
  | .kvshoot a b => srcOk a && srcOk b
  | .sldh _ _ => true
  | .sst _ _ => true
  | .smix _ a b => srcOk a && srcOk b
  | .semb _ _ _ => true
  | .scollMax _ _ => true
  | .scollSmp _ _ u => srcOk u
  | .sdig d _ => dstOk d
  | .slog _ _ x => srcOk x
  | .sreplay _ _ x => srcOk x
  | .splfind d _ x => dstOk d && srcOk x
  | .splins _ a b => srcOk a && srcOk b
  | .splref a b => srcOk a && srcOk b
  | .plycut a _ => srcOk a
  | .trap _ => true
  | .eret => true
  | .mfs d r => dstOk d && sysRegOk r
  | .mts a r => srcOk a && sysRegOk r && decide (r ≠ 0) && decide (r ≠ 1)
  | .brk _ => true
  | .idle => true
  | .otinv a => srcOk a
  | .tlbinv a s => srcOk a && (s == 1 || s == 2)
  | .illegalWord _ => false
  | .resultVisible _ => false
  | .longOpComplete _ _ => false
  | .endcRelease _ => false
  | .commitRetire _ => false
  | .completionActionResume _ => false
  | .launchRegisterWrite _ _ => false
  | .launchIdAssign _ => false
  | .dispatch _ => false
  | .starvationGuardArm _ => false
  | .pageWalkReturn _ => false
  | .pagePresentResume _ => false
  | .spillElementPerform _ _ => false
  | .chunkComplete _ _ _ => false
  | .migrationSwitch _ => false
  | .shootdownComplete _ => false
  | .macroStep _ _ => false
  | .apipeJobTake _ _ => false
  | .apipeBlockMerge _ _ _ => false
  | .frameReturn _ => false
  | .braidInputVector _ _ => false
  | .braidVectorOutput _ _ => false
  | .credGroupComplete _ _ _ => false
  | .preemptionRequest _ => false
  | .watchdogExpiry _ => false
  | .watchdogHandlerTimeout _ => false
  | .machineError _ => false
  | .idleWake _ => false
  | .coreRetire _ _ => false
  | .powerHold _ _ => false
  | .thermalHold _ _ => false
  | .thermalShutdown => false
  | .interfaceConfigure _ _ => false
  | .hostWindowWrite _ _ _ => false
  | .hostWindowRead _ _ _ => false
  | .capabilityListUpdate => false
  | .ndoedLaneFail _ => false
  | .remoteRequest _ => false
  | .remoteAccessTimeout _ _ => false
  | .cxlPortFail _ => false
  | .moduleReset => false
  | .firmwareImageLoad _ _ => false
  | .attestationRequest _ => false
  | .abxLoad _ _ => false
  | .seqStep _ => false
  | .interfaceReset _ => false
  | .domainBringUp _ => false
  | .dieTemperatureFall _ => false

end Sys2Proof
end

