-- ==== Sys2Proof/Decode.lean ====
section
/-! DEFINITION. Decoding of instruction words (07 R82-R107) and the encoder written from the same tables. -/

namespace Sys2Proof

/-- Bits [hi:lo] of a number. -/
def bits (w hi lo : Nat) : Nat := w / 2 ^ lo % 2 ^ (hi + 1 - lo)

/-- Why a word is no instruction (07 R107). Each raises an illegal-instruction trap. -/
inductive DecodeError where
  /-- The major opcode has no group (R93). -/
  | noGroup
  /-- The selector is unassigned or a reserved bit is not zero. -/
  | unassigned
  /-- A specifier or a narrow field is out of range (R86, R87). -/
  | operand
  deriving DecidableEq, Repr

/-- Major opcode 0x01. -/
def decode01 (w : Nat) : Option Instr :=
  if bits w 3 0 = 0 then some (.add (.ofNat 6 (bits w 21 16)) (.ofNat 6 (bits w 15 10)) (.ofNat 6 (bits w 9 4)))
  else if bits w 3 0 = 1 then some (.sub (.ofNat 6 (bits w 21 16)) (.ofNat 6 (bits w 15 10)) (.ofNat 6 (bits w 9 4)))
  else if bits w 3 0 = 2 then some (.and (.ofNat 6 (bits w 21 16)) (.ofNat 6 (bits w 15 10)) (.ofNat 6 (bits w 9 4)))
  else if bits w 3 0 = 3 then some (.or (.ofNat 6 (bits w 21 16)) (.ofNat 6 (bits w 15 10)) (.ofNat 6 (bits w 9 4)))
  else if bits w 3 0 = 4 then some (.xor (.ofNat 6 (bits w 21 16)) (.ofNat 6 (bits w 15 10)) (.ofNat 6 (bits w 9 4)))
  else if bits w 3 0 = 5 then some (.andn (.ofNat 6 (bits w 21 16)) (.ofNat 6 (bits w 15 10)) (.ofNat 6 (bits w 9 4)))
  else if bits w 3 0 = 6 then some (.shl (.ofNat 6 (bits w 21 16)) (.ofNat 6 (bits w 15 10)) (.ofNat 6 (bits w 9 4)))
  else if bits w 3 0 = 7 then some (.shr (.ofNat 6 (bits w 21 16)) (.ofNat 6 (bits w 15 10)) (.ofNat 6 (bits w 9 4)))
  else if bits w 3 0 = 8 then some (.sar (.ofNat 6 (bits w 21 16)) (.ofNat 6 (bits w 15 10)) (.ofNat 6 (bits w 9 4)))
  else if bits w 3 0 = 9 then some (.min (.ofNat 6 (bits w 21 16)) (.ofNat 6 (bits w 15 10)) (.ofNat 6 (bits w 9 4)))
  else if bits w 3 0 = 10 then some (.max (.ofNat 6 (bits w 21 16)) (.ofNat 6 (bits w 15 10)) (.ofNat 6 (bits w 9 4)))
  else if bits w 3 0 = 11 then some (.minz (.ofNat 6 (bits w 21 16)) (.ofNat 6 (bits w 15 10)) (.ofNat 6 (bits w 9 4)))
  else if bits w 3 0 = 12 then some (.maxz (.ofNat 6 (bits w 21 16)) (.ofNat 6 (bits w 15 10)) (.ofNat 6 (bits w 9 4)))
  else if bits w 3 0 = 13 then some (.slt (.ofNat 6 (bits w 21 16)) (.ofNat 6 (bits w 15 10)) (.ofNat 6 (bits w 9 4)))
  else if bits w 3 0 = 14 then some (.sltz (.ofNat 6 (bits w 21 16)) (.ofNat 6 (bits w 15 10)) (.ofNat 6 (bits w 9 4)))
  else if bits w 3 0 = 15 then some (.seq (.ofNat 6 (bits w 21 16)) (.ofNat 6 (bits w 15 10)) (.ofNat 6 (bits w 9 4)))
  else none

/-- Major opcode 0x02. -/
def decode02 (w : Nat) : Option Instr :=
  if bits w 3 0 = 0 then some (.mul (.ofNat 6 (bits w 21 16)) (.ofNat 6 (bits w 15 10)) (.ofNat 6 (bits w 9 4)))
  else if bits w 3 0 = 1 then some (.mulh (.ofNat 6 (bits w 21 16)) (.ofNat 6 (bits w 15 10)) (.ofNat 6 (bits w 9 4)))
  else if bits w 3 0 = 2 then some (.mulhz (.ofNat 6 (bits w 21 16)) (.ofNat 6 (bits w 15 10)) (.ofNat 6 (bits w 9 4)))
  else if bits w 3 0 = 3 then some (.div (.ofNat 6 (bits w 21 16)) (.ofNat 6 (bits w 15 10)) (.ofNat 6 (bits w 9 4)))
  else if bits w 3 0 = 4 then some (.divz (.ofNat 6 (bits w 21 16)) (.ofNat 6 (bits w 15 10)) (.ofNat 6 (bits w 9 4)))
  else if bits w 3 0 = 5 then some (.rem (.ofNat 6 (bits w 21 16)) (.ofNat 6 (bits w 15 10)) (.ofNat 6 (bits w 9 4)))
  else if bits w 3 0 = 6 then some (.remz (.ofNat 6 (bits w 21 16)) (.ofNat 6 (bits w 15 10)) (.ofNat 6 (bits w 9 4)))
  else none

/-- Major opcode 0x03. -/
def decode03 (w : Nat) : Option Instr :=
  if bits w 9 0 = 0 then some (.clz (.ofNat 6 (bits w 21 16)) (.ofNat 6 (bits w 15 10)))
  else if bits w 9 0 = 1 then some (.ctz (.ofNat 6 (bits w 21 16)) (.ofNat 6 (bits w 15 10)))
  else if bits w 9 0 = 2 then some (.popc (.ofNat 6 (bits w 21 16)) (.ofNat 6 (bits w 15 10)))
  else if bits w 3 0 = 3 then some (.sext (.ofNat 6 (bits w 21 16)) (.ofNat 6 (bits w 15 10)) (.ofNat 6 (bits w 9 4)))
  else if bits w 3 0 = 4 then some (.zext (.ofNat 6 (bits w 21 16)) (.ofNat 6 (bits w 15 10)) (.ofNat 6 (bits w 9 4)))
  else if bits w 3 0 = 5 then some (.sel (.ofNat 6 (bits w 21 16)) (.ofNat 6 (bits w 15 10)) (.ofNat 6 (bits w 9 4)))
  else if bits w 3 0 = 6 then some (.bext (.ofNat 6 (bits w 21 16)) (.ofNat 6 (bits w 15 10)) (.ofNat 6 (bits w 9 4)))
  else if bits w 3 0 = 7 then some (.bins (.ofNat 6 (bits w 21 16)) (.ofNat 6 (bits w 15 10)) (.ofNat 6 (bits w 9 4)))
  else none

/-- Major opcode 0x10. -/
def decode10 (w : Nat) : Option Instr :=
  some (.addi (.ofNat 6 (bits w 21 16)) (.ofNat 6 (bits w 15 10)) (.ofNat 10 (bits w 9 0)))

/-- Major opcode 0x11. -/
def decode11 (w : Nat) : Option Instr :=
  some (.andi (.ofNat 6 (bits w 21 16)) (.ofNat 6 (bits w 15 10)) (.ofNat 10 (bits w 9 0)))

/-- Major opcode 0x12. -/
def decode12 (w : Nat) : Option Instr :=
  some (.ori (.ofNat 6 (bits w 21 16)) (.ofNat 6 (bits w 15 10)) (.ofNat 10 (bits w 9 0)))

/-- Major opcode 0x13. -/
def decode13 (w : Nat) : Option Instr :=
  some (.xori (.ofNat 6 (bits w 21 16)) (.ofNat 6 (bits w 15 10)) (.ofNat 10 (bits w 9 0)))

/-- Major opcode 0x14. -/
def decode14 (w : Nat) : Option Instr :=
  if bits w 9 6 = 0 then some (.shli (.ofNat 6 (bits w 21 16)) (.ofNat 6 (bits w 15 10)) (.ofNat 6 (bits w 5 0)))
  else none

/-- Major opcode 0x15. -/
def decode15 (w : Nat) : Option Instr :=
  if bits w 9 6 = 0 then some (.shri (.ofNat 6 (bits w 21 16)) (.ofNat 6 (bits w 15 10)) (.ofNat 6 (bits w 5 0)))
  else none

/-- Major opcode 0x16. -/
def decode16 (w : Nat) : Option Instr :=
  if bits w 9 6 = 0 then some (.sari (.ofNat 6 (bits w 21 16)) (.ofNat 6 (bits w 15 10)) (.ofNat 6 (bits w 5 0)))
  else none

/-- Major opcode 0x17. -/
def decode17 (w : Nat) : Option Instr :=
  some (.slti (.ofNat 6 (bits w 21 16)) (.ofNat 6 (bits w 15 10)) (.ofNat 10 (bits w 9 0)))

/-- Major opcode 0x18. -/
def decode18 (w : Nat) : Option Instr :=
  some (.sltzi (.ofNat 6 (bits w 21 16)) (.ofNat 6 (bits w 15 10)) (.ofNat 10 (bits w 9 0)))

/-- Major opcode 0x19. -/
def decode19 (w : Nat) : Option Instr :=
  some (.movi (.ofNat 6 (bits w 21 16)) (.ofNat 16 (bits w 15 0)))

/-- Major opcode 0x1A. -/
def decode1A (w : Nat) : Option Instr :=
  some (.movk0 (.ofNat 6 (bits w 21 16)) (.ofNat 16 (bits w 15 0)))

/-- Major opcode 0x1B. -/
def decode1B (w : Nat) : Option Instr :=
  some (.movk16 (.ofNat 6 (bits w 21 16)) (.ofNat 16 (bits w 15 0)))

/-- Major opcode 0x1C. -/
def decode1C (w : Nat) : Option Instr :=
  some (.movk32 (.ofNat 6 (bits w 21 16)) (.ofNat 16 (bits w 15 0)))

/-- Major opcode 0x1D. -/
def decode1D (w : Nat) : Option Instr :=
  some (.movk48 (.ofNat 6 (bits w 21 16)) (.ofNat 16 (bits w 15 0)))

/-- Major opcode 0x20. -/
def decode20 (w : Nat) : Option Instr :=
  if bits w 0 0 = 0 then some (.fadd (.ofNat 6 (bits w 21 16)) (.ofNat 6 (bits w 15 10)) (.ofNat 6 (bits w 9 4)) (.ofNat 3 (bits w 3 1)))
  else none

/-- Major opcode 0x21. -/
def decode21 (w : Nat) : Option Instr :=
  if bits w 0 0 = 0 then some (.fsub (.ofNat 6 (bits w 21 16)) (.ofNat 6 (bits w 15 10)) (.ofNat 6 (bits w 9 4)) (.ofNat 3 (bits w 3 1)))
  else none

/-- Major opcode 0x22. -/
def decode22 (w : Nat) : Option Instr :=
  if bits w 0 0 = 0 then some (.fmul (.ofNat 6 (bits w 21 16)) (.ofNat 6 (bits w 15 10)) (.ofNat 6 (bits w 9 4)) (.ofNat 3 (bits w 3 1)))
  else none

/-- Major opcode 0x23. -/
def decode23 (w : Nat) : Option Instr :=
  if bits w 0 0 = 0 then some (.ffma (.ofNat 6 (bits w 21 16)) (.ofNat 6 (bits w 15 10)) (.ofNat 6 (bits w 9 4)) (.ofNat 3 (bits w 3 1)))
  else none

/-- Major opcode 0x24. -/
def decode24 (w : Nat) : Option Instr :=
  if bits w 3 0 = 0 then some (.fmin (.ofNat 6 (bits w 21 16)) (.ofNat 6 (bits w 15 10)) (.ofNat 6 (bits w 9 4)))
  else if bits w 3 0 = 1 then some (.fmax (.ofNat 6 (bits w 21 16)) (.ofNat 6 (bits w 15 10)) (.ofNat 6 (bits w 9 4)))
  else if bits w 3 0 = 2 then some (.fcmpEq (.ofNat 6 (bits w 21 16)) (.ofNat 6 (bits w 15 10)) (.ofNat 6 (bits w 9 4)))
  else if bits w 3 0 = 3 then some (.fcmpLt (.ofNat 6 (bits w 21 16)) (.ofNat 6 (bits w 15 10)) (.ofNat 6 (bits w 9 4)))
  else if bits w 3 0 = 4 then some (.fcmpLe (.ofNat 6 (bits w 21 16)) (.ofNat 6 (bits w 15 10)) (.ofNat 6 (bits w 9 4)))
  else if bits w 3 0 = 5 then some (.fcmpUn (.ofNat 6 (bits w 21 16)) (.ofNat 6 (bits w 15 10)) (.ofNat 6 (bits w 9 4)))
  else if bits w 9 0 = 6 then some (.fclass (.ofNat 6 (bits w 21 16)) (.ofNat 6 (bits w 15 10)))
  else none

/-- Major opcode 0x25. -/
def decode25 (w : Nat) : Option Instr :=
  some (.fcvt (.ofNat 6 (bits w 21 16)) (.ofNat 6 (bits w 15 10)) (.ofNat 3 (bits w 9 7)) (.ofNat 3 (bits w 6 4)) (.ofNat 3 (bits w 3 1)) (.ofNat 1 (bits w 0 0)))

/-- Major opcode 0x26. -/
def decode26 (w : Nat) : Option Instr :=
  if bits w 0 0 = 0 then some (.fdiv (.ofNat 6 (bits w 21 16)) (.ofNat 6 (bits w 15 10)) (.ofNat 6 (bits w 9 4)) (.ofNat 3 (bits w 3 1)))
  else none

/-- Major opcode 0x27. -/
def decode27 (w : Nat) : Option Instr :=
  if bits w 0 0 = 0 ∧ bits w 9 4 = 0 then some (.fsqrt (.ofNat 6 (bits w 21 16)) (.ofNat 6 (bits w 15 10)) (.ofNat 3 (bits w 3 1)))
  else if bits w 0 0 = 0 ∧ bits w 9 4 = 8 then some (.fexp2 (.ofNat 6 (bits w 21 16)) (.ofNat 6 (bits w 15 10)) (.ofNat 3 (bits w 3 1)))
  else if bits w 0 0 = 0 ∧ bits w 9 4 = 16 then some (.flog2 (.ofNat 6 (bits w 21 16)) (.ofNat 6 (bits w 15 10)) (.ofNat 3 (bits w 3 1)))
  else if bits w 0 0 = 0 ∧ bits w 9 4 = 24 then some (.frcp (.ofNat 6 (bits w 21 16)) (.ofNat 6 (bits w 15 10)) (.ofNat 3 (bits w 3 1)))
  else if bits w 0 0 = 0 ∧ bits w 9 4 = 32 then some (.frsq (.ofNat 6 (bits w 21 16)) (.ofNat 6 (bits w 15 10)) (.ofNat 3 (bits w 3 1)))
  else none

/-- Major opcode 0x28. -/
def decode28 (w : Nat) : Option Instr :=
  if bits w 11 10 = 3 ∧ bits w 21 20 = 0 then some (.cld (.ofNat 4 (bits w 19 16)) (.ofNat 4 (bits w 15 12)) (.ofNat 10 (bits w 9 0)))
  else none

/-- Major opcode 0x29. -/
def decode29 (w : Nat) : Option Instr :=
  if bits w 11 10 = 3 ∧ bits w 21 20 = 0 then some (.cst (.ofNat 4 (bits w 19 16)) (.ofNat 4 (bits w 15 12)) (.ofNat 10 (bits w 9 0)))
  else none

/-- Major opcode 0x2A. -/
def decode2A (w : Nat) : Option Instr :=
  if bits w 3 0 = 0 ∧ bits w 15 14 = 0 ∧ bits w 21 20 = 0 then some (.cderive (.ofNat 4 (bits w 19 16)) (.ofNat 4 (bits w 13 10)) (.ofNat 6 (bits w 9 4)))
  else if bits w 3 0 = 1 ∧ bits w 15 14 = 0 ∧ bits w 21 20 = 0 then some (.cseto (.ofNat 4 (bits w 19 16)) (.ofNat 4 (bits w 13 10)) (.ofNat 6 (bits w 9 4)))
  else if bits w 3 0 = 2 ∧ bits w 15 14 = 0 ∧ bits w 21 20 = 0 then some (.caddo (.ofNat 4 (bits w 19 16)) (.ofNat 4 (bits w 13 10)) (.ofNat 6 (bits w 9 4)))
  else if bits w 9 0 = 3 ∧ bits w 15 14 = 0 then some (.cgeto (.ofNat 6 (bits w 21 16)) (.ofNat 4 (bits w 13 10)))
  else if bits w 9 0 = 4 ∧ bits w 15 14 = 0 then some (.cgetl (.ofNat 6 (bits w 21 16)) (.ofNat 4 (bits w 13 10)))
  else if bits w 3 0 = 5 ∧ bits w 15 14 = 0 ∧ bits w 21 20 = 0 then some (.cdrop (.ofNat 4 (bits w 19 16)) (.ofNat 4 (bits w 13 10)) (.ofNat 6 (bits w 9 4)))
  else if bits w 9 0 = 6 ∧ bits w 15 14 = 0 then some (.ctag (.ofNat 6 (bits w 21 16)) (.ofNat 4 (bits w 13 10)))
  else none

/-- Major opcode 0x30. -/
def decode30 (w : Nat) : Option Instr :=
  some (.b (.ofNat 22 (bits w 21 0)))

/-- Major opcode 0x31. -/
def decode31 (w : Nat) : Option Instr :=
  some (.bl (.ofNat 22 (bits w 21 0)))

/-- Major opcode 0x32. -/
def decode32 (w : Nat) : Option Instr :=
  if bits w 9 0 = 0 ∧ bits w 21 16 = 0 then some (.bx (.ofNat 6 (bits w 15 10)))
  else none

/-- Major opcode 0x33. -/
def decode33 (w : Nat) : Option Instr :=
  if bits w 9 0 = 0 then some (.blx (.ofNat 6 (bits w 21 16)) (.ofNat 6 (bits w 15 10)))
  else none

/-- Major opcode 0x34. -/
def decode34 (w : Nat) : Option Instr :=
  some (.beqz (.ofNat 6 (bits w 21 16)) (.ofNat 16 (bits w 15 0)))

/-- Major opcode 0x35. -/
def decode35 (w : Nat) : Option Instr :=
  some (.bnez (.ofNat 6 (bits w 21 16)) (.ofNat 16 (bits w 15 0)))

/-- Major opcode 0x36. -/
def decode36 (w : Nat) : Option Instr :=
  some (.bltz (.ofNat 6 (bits w 21 16)) (.ofNat 16 (bits w 15 0)))

/-- Major opcode 0x37. -/
def decode37 (w : Nat) : Option Instr :=
  some (.bgez (.ofNat 6 (bits w 21 16)) (.ofNat 16 (bits w 15 0)))

/-- Major opcode 0x38. -/
def decode38 (w : Nat) : Option Instr :=
  some (.beq (.ofNat 6 (bits w 21 16)) (.ofNat 6 (bits w 15 10)) (.ofNat 10 (bits w 9 0)))

/-- Major opcode 0x39. -/
def decode39 (w : Nat) : Option Instr :=
  some (.bne (.ofNat 6 (bits w 21 16)) (.ofNat 6 (bits w 15 10)) (.ofNat 10 (bits w 9 0)))

/-- Major opcode 0x3A. -/
def decode3A (w : Nat) : Option Instr :=
  some (.blt (.ofNat 6 (bits w 21 16)) (.ofNat 6 (bits w 15 10)) (.ofNat 10 (bits w 9 0)))

/-- Major opcode 0x3B. -/
def decode3B (w : Nat) : Option Instr :=
  some (.bge (.ofNat 6 (bits w 21 16)) (.ofNat 6 (bits w 15 10)) (.ofNat 10 (bits w 9 0)))

/-- Major opcode 0x3C. -/
def decode3C (w : Nat) : Option Instr :=
  some (.bltn (.ofNat 6 (bits w 21 16)) (.ofNat 6 (bits w 15 10)) (.ofNat 10 (bits w 9 0)))

/-- Major opcode 0x3D. -/
def decode3D (w : Nat) : Option Instr :=
  some (.bgen (.ofNat 6 (bits w 21 16)) (.ofNat 6 (bits w 15 10)) (.ofNat 10 (bits w 9 0)))

/-- Major opcode 0x3E. -/
def decode3E (w : Nat) : Option Instr :=
  if bits w 7 0 = 0 ∧ bits w 19 18 = 0 then some (.lnset (.ofNat 2 (bits w 21 20)) (.ofNat 4 (bits w 17 14)) (.ofNat 6 (bits w 13 8)))
  else if bits w 5 0 = 0 ∧ bits w 19 14 = 16 then some (.lnidx (.ofNat 2 (bits w 21 20)) (.ofNat 6 (bits w 13 8)) (.ofNat 2 (bits w 7 6)))
  else if bits w 5 0 = 0 ∧ bits w 19 14 = 32 then some (.lnadr (.ofNat 2 (bits w 21 20)) (.ofNat 6 (bits w 13 8)) (.ofNat 2 (bits w 7 6)))
  else none

/-- Major opcode 0x3F. -/
def decode3F (w : Nat) : Option Instr :=
  some (.lnstep (.ofNat 2 (bits w 21 20)) (.ofNat 20 (bits w 19 0)))

/-- Major opcode 0x40. -/
def decode40 (w : Nat) : Option Instr :=
  some (.spawn (.ofNat 6 (bits w 21 16)) (.ofNat 6 (bits w 15 10)) (.ofNat 10 (bits w 9 0)))

/-- Major opcode 0x41. -/
def decode41 (w : Nat) : Option Instr :=
  if bits w 3 0 = 0 then some (.spawnReg (.ofNat 6 (bits w 21 16)) (.ofNat 6 (bits w 15 10)) (.ofNat 6 (bits w 9 4)))
  else none

/-- Major opcode 0x42. -/
def decode42 (w : Nat) : Option Instr :=
  some (.spawnj (.ofNat 6 (bits w 21 16)) (.ofNat 16 (bits w 15 0)))

/-- Major opcode 0x43. -/
def decode43 (w : Nat) : Option Instr :=
  if bits w 3 0 = 0 ∧ bits w 21 16 = 0 then some (.spawnjReg (.ofNat 6 (bits w 15 10)) (.ofNat 6 (bits w 9 4)))
  else none

/-- Major opcode 0x44. -/
def decode44 (w : Nat) : Option Instr :=
  if bits w 21 0 = 0 then some (.endc)
  else if bits w 21 0 = 1 then some (.commit)
  else if bits w 9 0 = 2 ∧ bits w 21 14 = 0 then some (.launch (.ofNat 4 (bits w 13 10)))
  else if bits w 9 0 = 3 ∧ bits w 21 16 = 0 then some (.lgrow (.ofNat 6 (bits w 15 10)))
  else if bits w 9 0 = 4 ∧ bits w 21 16 = 0 then some (.prio (.ofNat 6 (bits w 15 10)))
  else if bits w 9 0 = 5 ∧ bits w 21 14 = 0 then some (.join (.ofNat 4 (bits w 13 10)))
  else if bits w 9 0 = 6 ∧ bits w 21 14 = 0 then some (.leave (.ofNat 4 (bits w 13 10)))
  else if bits w 9 0 = 7 ∧ bits w 21 14 = 0 then some (.gsync (.ofNat 4 (bits w 13 10)))
  else none

/-- Major opcode 0x48. -/
def decode48 (w : Nat) : Option Instr :=
  some (.ld (.ofNat 6 (bits w 21 16)) (.ofNat 4 (bits w 15 12)) (.ofNat 2 (bits w 11 10)) (.ofNat 10 (bits w 9 0)))

/-- Major opcode 0x49. -/
def decode49 (w : Nat) : Option Instr :=
  some (.ldZ (.ofNat 6 (bits w 21 16)) (.ofNat 4 (bits w 15 12)) (.ofNat 2 (bits w 11 10)) (.ofNat 10 (bits w 9 0)))

/-- Major opcode 0x4A. -/
def decode4A (w : Nat) : Option Instr :=
  some (.st (.ofNat 6 (bits w 21 16)) (.ofNat 4 (bits w 15 12)) (.ofNat 2 (bits w 11 10)) (.ofNat 10 (bits w 9 0)))

/-- Major opcode 0x4B. -/
def decode4B (w : Nat) : Option Instr :=
  if bits w 2 0 = 0 then some (.ldx (.ofNat 6 (bits w 21 16)) (.ofNat 4 (bits w 15 12)) (.ofNat 2 (bits w 11 10)) (.ofNat 6 (bits w 9 4)) (.ofNat 1 (bits w 3 3)))
  else none

/-- Major opcode 0x4C. -/
def decode4C (w : Nat) : Option Instr :=
  if bits w 3 0 = 0 then some (.stx (.ofNat 6 (bits w 21 16)) (.ofNat 4 (bits w 15 12)) (.ofNat 2 (bits w 11 10)) (.ofNat 6 (bits w 9 4)))
  else none

/-- Major opcode 0x4D. -/
def decode4D (w : Nat) : Option Instr :=
  some (.lda (.ofNat 6 (bits w 21 16)) (.ofNat 4 (bits w 15 12)) (.ofNat 2 (bits w 11 10)) (.ofNat 6 (bits w 9 4)) (.ofNat 3 (bits w 3 1)) (.ofNat 1 (bits w 0 0)))

/-- Major opcode 0x4E. -/
def decode4E (w : Nat) : Option Instr :=
  if bits w 0 0 = 0 then some (.stl (.ofNat 6 (bits w 21 16)) (.ofNat 4 (bits w 15 12)) (.ofNat 2 (bits w 11 10)) (.ofNat 6 (bits w 9 4)) (.ofNat 3 (bits w 3 1)))
  else none

/-- Major opcode 0x4F. -/
def decode4F (w : Nat) : Option Instr :=
  if bits w 21 16 = 0 then some (.pref (.ofNat 4 (bits w 15 12)) (.ofNat 2 (bits w 11 10)) (.ofNat 10 (bits w 9 0)))
  else none

/-- Major opcodes 0x50-0x53. -/
def decode50 (w : Nat) : Option Instr :=
  some (.amo (.ofNat 2 (bits w 23 22)) (.ofNat 5 (bits w 21 17)) (.ofNat 5 (bits w 16 12)) (.ofNat 4 (bits w 11 8)) (.ofNat 4 (bits w 7 4)) (.ofNat 4 (bits w 3 0)))

/-- Major opcode 0x54. -/
def decode54 (w : Nat) : Option Instr :=
  if bits w 0 0 = 0 then some (.cas (.ofNat 5 (bits w 21 17)) (.ofNat 5 (bits w 16 12)) (.ofNat 4 (bits w 11 8)) (.ofNat 4 (bits w 7 4)) (.ofNat 2 (bits w 3 2)) (.ofNat 1 (bits w 1 1)))
  else none

/-- Major opcode 0x55. -/
def decode55 (w : Nat) : Option Instr :=
  if bits w 6 6 = 0 then some (.red (.ofNat 6 (bits w 21 16)) (.ofNat 4 (bits w 15 12)) (.ofNat 4 (bits w 11 8)) (.ofNat 1 (bits w 7 7)) (.ofNat 6 (bits w 5 0)))
  else if bits w 6 6 = 1 ∧ bits w 21 21 = 0 then some (.redv (.ofNat 5 (bits w 20 16)) (.ofNat 4 (bits w 15 12)) (.ofNat 4 (bits w 11 8)) (.ofNat 1 (bits w 7 7)) (.ofNat 6 (bits w 5 0)))
  else none

/-- Major opcode 0x56. -/
def decode56 (w : Nat) : Option Instr :=
  some (.wait (.ofNat 5 (bits w 21 17)) (.ofNat 5 (bits w 16 12)) (.ofNat 4 (bits w 11 8)) (.ofNat 4 (bits w 7 4)) (.ofNat 4 (bits w 3 0)))

/-- Major opcode 0x57. -/
def decode57 (w : Nat) : Option Instr :=
  if bits w 10 0 = 0 ∧ bits w 21 19 = 0 then some (.knot (.ofNat 5 (bits w 18 14)) (.ofNat 3 (bits w 13 11)))
  else if bits w 21 19 = 1 then some (.binit (.ofNat 4 (bits w 18 15)) (.ofNat 6 (bits w 14 9)) (.ofNat 9 (bits w 8 0)))
  else if bits w 21 19 = 2 then some (.barr (.ofNat 4 (bits w 18 15)) (.ofNat 6 (bits w 14 9)) (.ofNat 9 (bits w 8 0)))
  else if bits w 13 9 = 0 ∧ bits w 21 19 = 3 then some (.bwait (.ofNat 4 (bits w 18 15)) (.ofNat 1 (bits w 14 14)) (.ofNat 9 (bits w 8 0)))
  else if bits w 21 19 = 4 then some (.btest (.ofNat 4 (bits w 18 15)) (.ofNat 6 (bits w 14 9)) (.ofNat 9 (bits w 8 0)))
  else none

/-- Major opcode 0x58. -/
def decode58 (w : Nat) : Option Instr :=
  some (.copy (.ofNat 4 (bits w 21 18)) (.ofNat 4 (bits w 17 14)) (.ofNat 6 (bits w 13 8)) (.ofNat 4 (bits w 7 4)) (.ofNat 4 (bits w 3 0)))

/-- Major opcode 0x59. -/
def decode59 (w : Nat) : Option Instr :=
  some (.copyM (.ofNat 4 (bits w 21 18)) (.ofNat 4 (bits w 17 14)) (.ofNat 6 (bits w 13 8)) (.ofNat 4 (bits w 7 4)) (.ofNat 4 (bits w 3 0)))

/-- Major opcode 0x5A. -/
def decode5A (w : Nat) : Option Instr :=
  if bits w 11 0 = 0 then some (.copyn (.ofNat 2 (bits w 21 20)) (.ofNat 4 (bits w 19 16)) (.ofNat 4 (bits w 15 12)))
  else none

/-- Major opcode 0x5B. -/
def decode5B (w : Nat) : Option Instr :=
  if bits w 2 0 = 0 then some (.copyt (.ofNat 4 (bits w 21 18)) (.ofNat 6 (bits w 17 12)) (.ofNat 1 (bits w 11 11)) (.ofNat 4 (bits w 10 7)) (.ofNat 4 (bits w 6 3)))
  else none

/-- Major opcode 0x5C. -/
def decode5C (w : Nat) : Option Instr :=
  if bits w 3 0 = 0 then some (.migr (.ofNat 4 (bits w 21 18)) (.ofNat 6 (bits w 17 12)) (.ofNat 4 (bits w 11 8)) (.ofNat 4 (bits w 7 4)))
  else none

/-- Major opcode 0x5D. -/
def decode5D (w : Nat) : Option Instr :=
  if bits w 0 0 = 0 then some (.cred (.ofNat 4 (bits w 21 18)) (.ofNat 4 (bits w 17 14)) (.ofNat 6 (bits w 13 8)) (.ofNat 3 (bits w 7 5)) (.ofNat 4 (bits w 4 1)))
  else none

/-- Major opcode 0x5E. -/
def decode5E (w : Nat) : Option Instr :=
  some (.copyr (.ofNat 4 (bits w 21 18)) (.ofNat 4 (bits w 17 14)) (.ofNat 6 (bits w 13 8)) (.ofNat 4 (bits w 7 4)) (.ofNat 4 (bits w 3 0)))

/-- Major opcode 0x60. -/
def decode60 (w : Nat) : Option Instr :=
  some (.vadd (.ofNat 5 (bits w 21 17)) (.ofNat 5 (bits w 16 12)) (.ofNat 5 (bits w 11 7)) (.ofNat 4 (bits w 6 3)) (.ofNat 3 (bits w 2 0)))

/-- Major opcode 0x61. -/
def decode61 (w : Nat) : Option Instr :=
  some (.vsub (.ofNat 5 (bits w 21 17)) (.ofNat 5 (bits w 16 12)) (.ofNat 5 (bits w 11 7)) (.ofNat 4 (bits w 6 3)) (.ofNat 3 (bits w 2 0)))

/-- Major opcode 0x62. -/
def decode62 (w : Nat) : Option Instr :=
  some (.vmul (.ofNat 5 (bits w 21 17)) (.ofNat 5 (bits w 16 12)) (.ofNat 5 (bits w 11 7)) (.ofNat 4 (bits w 6 3)) (.ofNat 3 (bits w 2 0)))

/-- Major opcode 0x63. -/
def decode63 (w : Nat) : Option Instr :=
  some (.vfma (.ofNat 5 (bits w 21 17)) (.ofNat 5 (bits w 16 12)) (.ofNat 5 (bits w 11 7)) (.ofNat 4 (bits w 6 3)) (.ofNat 3 (bits w 2 0)))

/-- Major opcode 0x64. -/
def decode64 (w : Nat) : Option Instr :=
  some (.vmin (.ofNat 5 (bits w 21 17)) (.ofNat 5 (bits w 16 12)) (.ofNat 5 (bits w 11 7)) (.ofNat 4 (bits w 6 3)) (.ofNat 3 (bits w 2 0)))

/-- Major opcode 0x65. -/
def decode65 (w : Nat) : Option Instr :=
  some (.vmax (.ofNat 5 (bits w 21 17)) (.ofNat 5 (bits w 16 12)) (.ofNat 5 (bits w 11 7)) (.ofNat 4 (bits w 6 3)) (.ofNat 3 (bits w 2 0)))

/-- Major opcode 0x66. -/
def decode66 (w : Nat) : Option Instr :=
  if bits w 2 0 = 0 then some (.vand (.ofNat 5 (bits w 21 17)) (.ofNat 5 (bits w 16 12)) (.ofNat 5 (bits w 11 7)) (.ofNat 4 (bits w 6 3)))
  else if bits w 2 0 = 1 then some (.vor (.ofNat 5 (bits w 21 17)) (.ofNat 5 (bits w 16 12)) (.ofNat 5 (bits w 11 7)) (.ofNat 4 (bits w 6 3)))
  else if bits w 2 0 = 2 then some (.vxor (.ofNat 5 (bits w 21 17)) (.ofNat 5 (bits w 16 12)) (.ofNat 5 (bits w 11 7)) (.ofNat 4 (bits w 6 3)))
  else none

/-- Major opcode 0x67. -/
def decode67 (w : Nat) : Option Instr :=
  if bits w 2 2 = 0 then some (.vshl (.ofNat 5 (bits w 21 17)) (.ofNat 5 (bits w 16 12)) (.ofNat 5 (bits w 11 7)) (.ofNat 4 (bits w 6 3)) (.ofNat 2 (bits w 1 0)))
  else if bits w 2 2 = 1 then some (.vshr (.ofNat 5 (bits w 21 17)) (.ofNat 5 (bits w 16 12)) (.ofNat 5 (bits w 11 7)) (.ofNat 4 (bits w 6 3)) (.ofNat 2 (bits w 1 0)))
  else none

/-- Major opcode 0x68. -/
def decode68 (w : Nat) : Option Instr :=
  if bits w 3 3 = 0 ∧ bits w 21 20 = 0 then some (.vcmp (.ofNat 3 (bits w 19 17)) (.ofNat 5 (bits w 16 12)) (.ofNat 5 (bits w 11 7)) (.ofNat 3 (bits w 6 4)) (.ofNat 3 (bits w 2 0)))
  else none

/-- Major opcode 0x69. -/
def decode69 (w : Nat) : Option Instr :=
  if bits w 6 6 = 1 then some (.vsel (.ofNat 5 (bits w 21 17)) (.ofNat 5 (bits w 16 12)) (.ofNat 5 (bits w 11 7)) (.ofNat 3 (bits w 5 3)) (.ofNat 3 (bits w 2 0)))
  else none

/-- Major opcode 0x6A. -/
def decode6A (w : Nat) : Option Instr :=
  if bits w 1 0 = 0 then some (.vcvt (.ofNat 5 (bits w 21 17)) (.ofNat 5 (bits w 16 12)) (.ofNat 3 (bits w 11 9)) (.ofNat 3 (bits w 8 6)) (.ofNat 3 (bits w 5 3)) (.ofNat 1 (bits w 2 2)))
  else none

/-- Major opcode 0x6B. -/
def decode6B (w : Nat) : Option Instr :=
  some (.vred (.ofNat 5 (bits w 21 17)) (.ofNat 5 (bits w 16 12)) (.ofNat 5 (bits w 11 7)) (.ofNat 4 (bits w 6 3)) (.ofNat 3 (bits w 2 0)))

/-- Major opcode 0x6C. -/
def decode6C (w : Nat) : Option Instr :=
  if bits w 12 10 = 0 then some (.vld (.ofNat 5 (bits w 21 17)) (.ofNat 4 (bits w 16 13)) (.ofNat 10 (bits w 9 0)))
  else if bits w 12 10 = 2 then some (.vst (.ofNat 5 (bits w 21 17)) (.ofNat 4 (bits w 16 13)) (.ofNat 10 (bits w 9 0)))
  else if bits w 2 0 = 0 ∧ bits w 12 11 = 2 then some (.vgath (.ofNat 5 (bits w 21 17)) (.ofNat 4 (bits w 16 13)) (.ofNat 5 (bits w 10 6)) (.ofNat 3 (bits w 5 3)))
  else if bits w 1 0 = 0 ∧ bits w 12 11 = 3 then some (.vscat (.ofNat 5 (bits w 21 17)) (.ofNat 4 (bits w 16 13)) (.ofNat 5 (bits w 10 6)) (.ofNat 3 (bits w 5 3)) (.ofNat 1 (bits w 2 2)))
  else none

/-- Major opcode 0x6D. -/
def decode6D (w : Nat) : Option Instr :=
  if bits w 7 3 = 0 ∧ bits w 16 14 = 0 then some (.vbcast (.ofNat 5 (bits w 21 17)) (.ofNat 6 (bits w 13 8)) (.ofNat 3 (bits w 2 0)))
  else if bits w 3 0 = 0 ∧ bits w 16 14 = 1 then some (.vperm (.ofNat 5 (bits w 21 17)) (.ofNat 5 (bits w 13 9)) (.ofNat 5 (bits w 8 4)))
  else if bits w 8 3 = 0 ∧ bits w 16 14 = 2 then some (.vexp2 (.ofNat 5 (bits w 21 17)) (.ofNat 5 (bits w 13 9)) (.ofNat 3 (bits w 2 0)))
  else if bits w 8 3 = 0 ∧ bits w 16 14 = 3 then some (.vrcp (.ofNat 5 (bits w 21 17)) (.ofNat 5 (bits w 13 9)) (.ofNat 3 (bits w 2 0)))
  else none

/-- Major opcode 0x6E. -/
def decode6E (w : Nat) : Option Instr :=
  if bits w 8 0 = 0 ∧ bits w 21 20 = 0 then some (.vbset (.ofNat 5 (bits w 19 15)) (.ofNat 6 (bits w 14 9)))
  else if bits w 3 0 = 0 ∧ bits w 21 20 = 1 then some (.vbtst (.ofNat 3 (bits w 19 17)) (.ofNat 5 (bits w 16 12)) (.ofNat 5 (bits w 11 7)) (.ofNat 3 (bits w 6 4)))
  else if bits w 6 0 = 0 ∧ bits w 21 20 = 2 then some (.vmatch (.ofNat 3 (bits w 19 17)) (.ofNat 5 (bits w 16 12)) (.ofNat 5 (bits w 11 7)))
  else if bits w 2 0 = 0 ∧ bits w 21 19 = 6 then some (.vmovxToX (.ofNat 6 (bits w 18 13)) (.ofNat 5 (bits w 12 8)) (.ofNat 5 (bits w 7 3)))
  else if bits w 2 0 = 0 ∧ bits w 21 19 = 7 then some (.vmovxToV (.ofNat 6 (bits w 18 13)) (.ofNat 5 (bits w 12 8)) (.ofNat 5 (bits w 7 3)))
  else none

/-- Major opcode 0x6F. -/
def decode6F (w : Nat) : Option Instr :=
  if bits w 1 0 = 0 then some (.topk (.ofNat 5 (bits w 21 17)) (.ofNat 5 (bits w 16 12)) (.ofNat 7 (bits w 11 5)) (.ofNat 3 (bits w 4 2)))
  else none

/-- Major opcode 0x70. -/
def decode70 (w : Nat) : Option Instr :=
  if bits w 9 0 = 0 ∧ bits w 21 20 = 0 then some (.tmma (.ofNat 2 (bits w 19 18)) (.ofNat 4 (bits w 17 14)) (.ofNat 4 (bits w 13 10)))
  else none

/-- Major opcode 0x71. -/
def decode71 (w : Nat) : Option Instr :=
  if bits w 1 0 = 0 ∧ bits w 9 6 = 0 then some (.tadd (.ofNat 4 (bits w 21 18)) (.ofNat 4 (bits w 17 14)) (.ofNat 4 (bits w 13 10)) (.ofNat 3 (bits w 5 3)) (.ofNat 1 (bits w 2 2)))
  else if bits w 1 0 = 0 ∧ bits w 9 6 = 2 then some (.tmul (.ofNat 4 (bits w 21 18)) (.ofNat 4 (bits w 17 14)) (.ofNat 4 (bits w 13 10)) (.ofNat 3 (bits w 5 3)) (.ofNat 1 (bits w 2 2)))
  else if bits w 1 0 = 0 ∧ bits w 13 6 = 4 then some (.tcvt (.ofNat 4 (bits w 21 18)) (.ofNat 4 (bits w 17 14)) (.ofNat 3 (bits w 5 3)) (.ofNat 1 (bits w 2 2)))
  else if bits w 1 0 = 0 ∧ bits w 13 6 = 6 then some (.ttrans (.ofNat 4 (bits w 21 18)) (.ofNat 4 (bits w 17 14)) (.ofNat 3 (bits w 5 3)) (.ofNat 1 (bits w 2 2)))
  else if bits w 17 0 = 512 then some (.tzero (.ofNat 4 (bits w 21 18)))
  else if bits w 17 0 = 576 ∧ bits w 21 20 = 0 then some (.tzeroAcc (.ofNat 2 (bits w 19 18)))
  else none

/-- Major opcode 0x72. -/
def decode72 (w : Nat) : Option Instr :=
  if bits w 14 0 = 0 then some (.trowmax (.ofNat 2 (bits w 21 20)) (.ofNat 5 (bits w 19 15)))
  else if bits w 14 0 = 8192 then some (.trowsum (.ofNat 2 (bits w 21 20)) (.ofNat 5 (bits w 19 15)))
  else if bits w 5 0 = 0 ∧ bits w 14 13 = 2 then some (.tmovv (.ofNat 2 (bits w 21 20)) (.ofNat 5 (bits w 19 15)) (.ofNat 7 (bits w 12 6)))
  else none

/-- Major opcode 0x73. -/
def decode73 (w : Nat) : Option Instr :=
  if bits w 15 0 = 0 then some (.tdrain (.ofNat 2 (bits w 21 20)) (.ofNat 4 (bits w 19 16)))
  else none

/-- Major opcode 0x74. -/
def decode74 (w : Nat) : Option Instr :=
  some (.tld (.ofNat 4 (bits w 21 18)) (.ofNat 4 (bits w 17 14)) (.ofNat 6 (bits w 13 8)) (.ofNat 8 (bits w 7 0)))

/-- Major opcode 0x75. -/
def decode75 (w : Nat) : Option Instr :=
  some (.tst (.ofNat 4 (bits w 21 18)) (.ofNat 4 (bits w 17 14)) (.ofNat 6 (bits w 13 8)) (.ofNat 8 (bits w 7 0)))

/-- Major opcode 0x76. -/
def decode76 (w : Nat) : Option Instr :=
  if bits w 8 0 = 0 ∧ bits w 21 19 = 0 then some (.mttc (.ofNat 4 (bits w 18 15)) (.ofNat 6 (bits w 14 9)))
  else if bits w 8 0 = 0 ∧ bits w 21 19 = 1 then some (.mftc (.ofNat 4 (bits w 18 15)) (.ofNat 6 (bits w 14 9)))
  else if bits w 16 0 = 0 ∧ bits w 21 19 = 2 then some (.tclaim (.ofNat 2 (bits w 18 17)))
  else if bits w 12 0 = 0 ∧ bits w 21 19 = 3 then some (.tldn (.ofNat 4 (bits w 18 15)) (.ofNat 2 (bits w 14 13)))
  else if bits w 6 0 = 0 ∧ bits w 21 19 = 4 then some (.tgemm (.ofNat 2 (bits w 18 17)) (.ofNat 4 (bits w 16 13)) (.ofNat 4 (bits w 12 9)) (.ofNat 2 (bits w 8 7)))
  else if bits w 14 0 = 0 ∧ bits w 21 19 = 5 then some (.tsave (.ofNat 4 (bits w 18 15)))
  else if bits w 14 0 = 0 ∧ bits w 21 19 = 6 then some (.trest (.ofNat 4 (bits w 18 15)))
  else none

/-- Major opcode 0x78. -/
def decode78 (w : Nat) : Option Instr :=
  if bits w 9 0 = 0 ∧ bits w 21 20 = 0 then some (.bgload (.ofNat 6 (bits w 19 14)) (.ofNat 4 (bits w 13 10)))
  else if bits w 21 20 = 1 then some (.bgrun (.ofNat 6 (bits w 19 14)) (.ofNat 6 (bits w 13 8)) (.ofNat 4 (bits w 7 4)) (.ofNat 4 (bits w 3 0)))
  else if bits w 13 0 = 0 ∧ bits w 21 20 = 2 then some (.bgfree (.ofNat 6 (bits w 19 14)))
  else if bits w 7 0 = 0 ∧ bits w 21 20 = 3 then some (.bgstat (.ofNat 6 (bits w 19 14)) (.ofNat 6 (bits w 13 8)))
  else none

/-- Major opcode 0x7A. -/
def decode7A (w : Nat) : Option Instr :=
  if bits w 14 0 = 0 ∧ bits w 21 19 = 0 then some (.attn (.ofNat 4 (bits w 18 15)))
  else if bits w 6 0 = 0 ∧ bits w 21 19 = 1 then some (.amerge (.ofNat 4 (bits w 18 15)) (.ofNat 4 (bits w 14 11)) (.ofNat 4 (bits w 10 7)))
  else if bits w 8 0 = 0 ∧ bits w 21 19 = 2 then some (.summ (.ofNat 4 (bits w 18 15)) (.ofNat 6 (bits w 14 9)))
  else if bits w 8 0 = 0 ∧ bits w 21 19 = 3 then some (.kvapp (.ofNat 4 (bits w 18 15)) (.ofNat 6 (bits w 14 9)))
  else if bits w 6 0 = 0 ∧ bits w 21 19 = 4 then some (.kvmap (.ofNat 6 (bits w 18 13)) (.ofNat 6 (bits w 12 7)))
  else if bits w 6 0 = 0 ∧ bits w 21 19 = 5 then some (.kvshoot (.ofNat 6 (bits w 18 13)) (.ofNat 6 (bits w 12 7)))
  else none

/-- Major opcode 0x7C. -/
def decode7C (w : Nat) : Option Instr :=
  if bits w 10 0 = 0 ∧ bits w 21 18 = 0 then some (.sldh (.ofNat 3 (bits w 17 15)) (.ofNat 4 (bits w 14 11)))
  else if bits w 10 0 = 0 ∧ bits w 21 18 = 1 then some (.sst (.ofNat 3 (bits w 17 15)) (.ofNat 4 (bits w 14 11)))
  else if bits w 2 0 = 0 ∧ bits w 21 18 = 2 then some (.smix (.ofNat 3 (bits w 17 15)) (.ofNat 6 (bits w 14 9)) (.ofNat 6 (bits w 8 3)))
  else if bits w 7 0 = 0 ∧ bits w 21 18 = 3 then some (.semb (.ofNat 3 (bits w 17 15)) (.ofNat 3 (bits w 14 12)) (.ofNat 4 (bits w 11 8)))
  else if bits w 11 0 = 0 ∧ bits w 21 18 = 4 then some (.scollMax (.ofNat 3 (bits w 17 15)) (.ofNat 3 (bits w 14 12)))
  else if bits w 4 0 = 0 ∧ bits w 11 11 = 1 ∧ bits w 21 18 = 4 then some (.scollSmp (.ofNat 3 (bits w 17 15)) (.ofNat 3 (bits w 14 12)) (.ofNat 6 (bits w 10 5)))
  else if bits w 8 0 = 0 ∧ bits w 21 18 = 5 then some (.sdig (.ofNat 6 (bits w 17 12)) (.ofNat 3 (bits w 11 9)))
  else if bits w 4 0 = 0 ∧ bits w 21 18 = 6 then some (.slog (.ofNat 3 (bits w 17 15)) (.ofNat 4 (bits w 14 11)) (.ofNat 6 (bits w 10 5)))
  else if bits w 4 0 = 0 ∧ bits w 21 18 = 7 then some (.sreplay (.ofNat 3 (bits w 17 15)) (.ofNat 4 (bits w 14 11)) (.ofNat 6 (bits w 10 5)))
  else if bits w 1 0 = 0 ∧ bits w 21 18 = 8 then some (.splfind (.ofNat 6 (bits w 17 12)) (.ofNat 4 (bits w 11 8)) (.ofNat 6 (bits w 7 2)))
  else if bits w 1 0 = 0 ∧ bits w 21 18 = 9 then some (.splins (.ofNat 4 (bits w 17 14)) (.ofNat 6 (bits w 13 8)) (.ofNat 6 (bits w 7 2)))
  else if bits w 5 0 = 0 ∧ bits w 21 18 = 10 then some (.splref (.ofNat 6 (bits w 17 12)) (.ofNat 6 (bits w 11 6)))
  else if bits w 6 0 = 0 ∧ bits w 21 18 = 11 then some (.plycut (.ofNat 6 (bits w 17 12)) (.ofNat 5 (bits w 11 7)))
  else none

/-- Major opcode 0x7E. -/
def decode7E (w : Nat) : Option Instr :=
  if bits w 21 16 = 0 then some (.trap (.ofNat 16 (bits w 15 0)))
  else if bits w 21 0 = 524288 then some (.eret)
  else if bits w 12 12 = 0 ∧ bits w 21 19 = 2 then some (.mfs (.ofNat 6 (bits w 18 13)) (.ofNat 12 (bits w 11 0)))
  else if bits w 12 12 = 0 ∧ bits w 21 19 = 3 then some (.mts (.ofNat 6 (bits w 18 13)) (.ofNat 12 (bits w 11 0)))
  else if bits w 21 16 = 32 then some (.brk (.ofNat 16 (bits w 15 0)))
  else if bits w 21 0 = 2621440 then some (.idle)
  else if bits w 12 0 = 0 ∧ bits w 21 19 = 6 then some (.otinv (.ofNat 6 (bits w 18 13)))
  else if bits w 9 0 = 0 ∧ bits w 21 19 = 7 then some (.tlbinv (.ofNat 6 (bits w 18 13)) (.ofNat 3 (bits w 12 10)))
  else none

/-- The instruction of a word by its major opcode; operands are not yet checked. -/
def decodeMajor (m w : Nat) : Option Instr :=
  match m with
  | 0x01 => decode01 w
  | 0x02 => decode02 w
  | 0x03 => decode03 w
  | 0x10 => decode10 w
  | 0x11 => decode11 w
  | 0x12 => decode12 w
  | 0x13 => decode13 w
  | 0x14 => decode14 w
  | 0x15 => decode15 w
  | 0x16 => decode16 w
  | 0x17 => decode17 w
  | 0x18 => decode18 w
  | 0x19 => decode19 w
  | 0x1A => decode1A w
  | 0x1B => decode1B w
  | 0x1C => decode1C w
  | 0x1D => decode1D w
  | 0x20 => decode20 w
  | 0x21 => decode21 w
  | 0x22 => decode22 w
  | 0x23 => decode23 w
  | 0x24 => decode24 w
  | 0x25 => decode25 w
  | 0x26 => decode26 w
  | 0x27 => decode27 w
  | 0x28 => decode28 w
  | 0x29 => decode29 w
  | 0x2A => decode2A w
  | 0x30 => decode30 w
  | 0x31 => decode31 w
  | 0x32 => decode32 w
  | 0x33 => decode33 w
  | 0x34 => decode34 w
  | 0x35 => decode35 w
  | 0x36 => decode36 w
  | 0x37 => decode37 w
  | 0x38 => decode38 w
  | 0x39 => decode39 w
  | 0x3A => decode3A w
  | 0x3B => decode3B w
  | 0x3C => decode3C w
  | 0x3D => decode3D w
  | 0x3E => decode3E w
  | 0x3F => decode3F w
  | 0x40 => decode40 w
  | 0x41 => decode41 w
  | 0x42 => decode42 w
  | 0x43 => decode43 w
  | 0x44 => decode44 w
  | 0x48 => decode48 w
  | 0x49 => decode49 w
  | 0x4A => decode4A w
  | 0x4B => decode4B w
  | 0x4C => decode4C w
  | 0x4D => decode4D w
  | 0x4E => decode4E w
  | 0x4F => decode4F w
  | 0x50 => decode50 w
  | 0x51 => decode50 w
  | 0x52 => decode50 w
  | 0x53 => decode50 w
  | 0x54 => decode54 w
  | 0x55 => decode55 w
  | 0x56 => decode56 w
  | 0x57 => decode57 w
  | 0x58 => decode58 w
  | 0x59 => decode59 w
  | 0x5A => decode5A w
  | 0x5B => decode5B w
  | 0x5C => decode5C w
  | 0x5D => decode5D w
  | 0x5E => decode5E w
  | 0x60 => decode60 w
  | 0x61 => decode61 w
  | 0x62 => decode62 w
  | 0x63 => decode63 w
  | 0x64 => decode64 w
  | 0x65 => decode65 w
  | 0x66 => decode66 w
  | 0x67 => decode67 w
  | 0x68 => decode68 w
  | 0x69 => decode69 w
  | 0x6A => decode6A w
  | 0x6B => decode6B w
  | 0x6C => decode6C w
  | 0x6D => decode6D w
  | 0x6E => decode6E w
  | 0x6F => decode6F w
  | 0x70 => decode70 w
  | 0x71 => decode71 w
  | 0x72 => decode72 w
  | 0x73 => decode73 w
  | 0x74 => decode74 w
  | 0x75 => decode75 w
  | 0x76 => decode76 w
  | 0x78 => decode78 w
  | 0x7A => decode7A w
  | 0x7C => decode7C w
  | 0x7E => decode7E w
  | _ => none

/-- The major opcodes that have a group (R93). -/
def majors : List Nat := [0x01, 0x02, 0x03, 0x10, 0x11, 0x12, 0x13, 0x14, 0x15, 0x16, 0x17, 0x18, 0x19, 0x1A, 0x1B, 0x1C, 0x1D, 0x20, 0x21, 0x22, 0x23, 0x24, 0x25, 0x26] ++
  [0x27, 0x28, 0x29, 0x2A, 0x30, 0x31, 0x32, 0x33, 0x34, 0x35, 0x36, 0x37, 0x38, 0x39, 0x3A, 0x3B, 0x3C, 0x3D, 0x3E, 0x3F, 0x40, 0x41, 0x42, 0x43] ++
  [0x44, 0x48, 0x49, 0x4A, 0x4B, 0x4C, 0x4D, 0x4E, 0x4F, 0x50, 0x51, 0x52, 0x53, 0x54, 0x55, 0x56, 0x57, 0x58, 0x59, 0x5A, 0x5B, 0x5C, 0x5D, 0x5E, 0x60, 0x61, 0x62, 0x63, 0x64, 0x65, 0x66, 0x67, 0x68, 0x69, 0x6A, 0x6B, 0x6C, 0x6D, 0x6E, 0x6F, 0x70, 0x71, 0x72, 0x73, 0x74, 0x75, 0x76, 0x78, 0x7A, 0x7C, 0x7E]

/-- Decode of 07 R107, up to what the word alone decides; G [31:30] and Y [29] take no part. -/
def decode (w : Word) : Except DecodeError Instr :=
  match decodeMajor (bits w.toNat 28 22) w.toNat with
  | some i => if wellFormed i then .ok i else .error .operand
  | none => if majors.contains (bits w.toNat 28 22) then .error .unassigned else .error .noGroup

/-- The word of an instruction without its marks; none for an event. -/
def encodeNat : Instr → Option Nat
  | .add d a b => some (0x00400000 + d.toNat * 65536 + a.toNat * 1024 + b.toNat * 16)
  | .sub d a b => some (0x00400001 + d.toNat * 65536 + a.toNat * 1024 + b.toNat * 16)
  | .and d a b => some (0x00400002 + d.toNat * 65536 + a.toNat * 1024 + b.toNat * 16)
  | .or d a b => some (0x00400003 + d.toNat * 65536 + a.toNat * 1024 + b.toNat * 16)
  | .xor d a b => some (0x00400004 + d.toNat * 65536 + a.toNat * 1024 + b.toNat * 16)
  | .andn d a b => some (0x00400005 + d.toNat * 65536 + a.toNat * 1024 + b.toNat * 16)
  | .shl d a b => some (0x00400006 + d.toNat * 65536 + a.toNat * 1024 + b.toNat * 16)
  | .shr d a b => some (0x00400007 + d.toNat * 65536 + a.toNat * 1024 + b.toNat * 16)
  | .sar d a b => some (0x00400008 + d.toNat * 65536 + a.toNat * 1024 + b.toNat * 16)
  | .min d a b => some (0x00400009 + d.toNat * 65536 + a.toNat * 1024 + b.toNat * 16)
  | .max d a b => some (0x0040000A + d.toNat * 65536 + a.toNat * 1024 + b.toNat * 16)
  | .minz d a b => some (0x0040000B + d.toNat * 65536 + a.toNat * 1024 + b.toNat * 16)
  | .maxz d a b => some (0x0040000C + d.toNat * 65536 + a.toNat * 1024 + b.toNat * 16)
  | .slt d a b => some (0x0040000D + d.toNat * 65536 + a.toNat * 1024 + b.toNat * 16)
  | .sltz d a b => some (0x0040000E + d.toNat * 65536 + a.toNat * 1024 + b.toNat * 16)
  | .seq d a b => some (0x0040000F + d.toNat * 65536 + a.toNat * 1024 + b.toNat * 16)
  | .mul d a b => some (0x00800000 + d.toNat * 65536 + a.toNat * 1024 + b.toNat * 16)
  | .mulh d a b => some (0x00800001 + d.toNat * 65536 + a.toNat * 1024 + b.toNat * 16)
  | .mulhz d a b => some (0x00800002 + d.toNat * 65536 + a.toNat * 1024 + b.toNat * 16)
  | .div d a b => some (0x00800003 + d.toNat * 65536 + a.toNat * 1024 + b.toNat * 16)
  | .divz d a b => some (0x00800004 + d.toNat * 65536 + a.toNat * 1024 + b.toNat * 16)
  | .rem d a b => some (0x00800005 + d.toNat * 65536 + a.toNat * 1024 + b.toNat * 16)
  | .remz d a b => some (0x00800006 + d.toNat * 65536 + a.toNat * 1024 + b.toNat * 16)
  | .clz d a => some (0x00C00000 + d.toNat * 65536 + a.toNat * 1024)
  | .ctz d a => some (0x00C00001 + d.toNat * 65536 + a.toNat * 1024)
  | .popc d a => some (0x00C00002 + d.toNat * 65536 + a.toNat * 1024)
  | .sext d a p => some (0x00C00003 + d.toNat * 65536 + a.toNat * 1024 + p.toNat * 16)
  | .zext d a p => some (0x00C00004 + d.toNat * 65536 + a.toNat * 1024 + p.toNat * 16)
  | .sel d a b => some (0x00C00005 + d.toNat * 65536 + a.toNat * 1024 + b.toNat * 16)
  | .bext d a b => some (0x00C00006 + d.toNat * 65536 + a.toNat * 1024 + b.toNat * 16)
  | .bins d a b => some (0x00C00007 + d.toNat * 65536 + a.toNat * 1024 + b.toNat * 16)
  | .addi d a i => some (0x04000000 + d.toNat * 65536 + a.toNat * 1024 + i.toNat)
  | .andi d a i => some (0x04400000 + d.toNat * 65536 + a.toNat * 1024 + i.toNat)
  | .ori d a i => some (0x04800000 + d.toNat * 65536 + a.toNat * 1024 + i.toNat)
  | .xori d a i => some (0x04C00000 + d.toNat * 65536 + a.toNat * 1024 + i.toNat)
  | .shli d a s => some (0x05000000 + d.toNat * 65536 + a.toNat * 1024 + s.toNat)
  | .shri d a s => some (0x05400000 + d.toNat * 65536 + a.toNat * 1024 + s.toNat)
  | .sari d a s => some (0x05800000 + d.toNat * 65536 + a.toNat * 1024 + s.toNat)
  | .slti d a i => some (0x05C00000 + d.toNat * 65536 + a.toNat * 1024 + i.toNat)
  | .sltzi d a i => some (0x06000000 + d.toNat * 65536 + a.toNat * 1024 + i.toNat)
  | .movi d i => some (0x06400000 + d.toNat * 65536 + i.toNat)
  | .movk0 d i => some (0x06800000 + d.toNat * 65536 + i.toNat)
  | .movk16 d i => some (0x06C00000 + d.toNat * 65536 + i.toNat)
  | .movk32 d i => some (0x07000000 + d.toNat * 65536 + i.toNat)
  | .movk48 d i => some (0x07400000 + d.toNat * 65536 + i.toNat)
  | .fadd d a b r => some (0x08000000 + d.toNat * 65536 + a.toNat * 1024 + b.toNat * 16 + r.toNat * 2)
  | .fsub d a b r => some (0x08400000 + d.toNat * 65536 + a.toNat * 1024 + b.toNat * 16 + r.toNat * 2)
  | .fmul d a b r => some (0x08800000 + d.toNat * 65536 + a.toNat * 1024 + b.toNat * 16 + r.toNat * 2)
  | .ffma d a b r => some (0x08C00000 + d.toNat * 65536 + a.toNat * 1024 + b.toNat * 16 + r.toNat * 2)
  | .fdiv d a b r => some (0x09800000 + d.toNat * 65536 + a.toNat * 1024 + b.toNat * 16 + r.toNat * 2)
  | .fmin d a b => some (0x09000000 + d.toNat * 65536 + a.toNat * 1024 + b.toNat * 16)
  | .fmax d a b => some (0x09000001 + d.toNat * 65536 + a.toNat * 1024 + b.toNat * 16)
  | .fcmpEq d a b => some (0x09000002 + d.toNat * 65536 + a.toNat * 1024 + b.toNat * 16)
  | .fcmpLt d a b => some (0x09000003 + d.toNat * 65536 + a.toNat * 1024 + b.toNat * 16)
  | .fcmpLe d a b => some (0x09000004 + d.toNat * 65536 + a.toNat * 1024 + b.toNat * 16)
  | .fcmpUn d a b => some (0x09000005 + d.toNat * 65536 + a.toNat * 1024 + b.toNat * 16)
  | .fclass d a => some (0x09000006 + d.toNat * 65536 + a.toNat * 1024)
  | .fcvt d a f t r s => some (0x09400000 + d.toNat * 65536 + a.toNat * 1024 + f.toNat * 128 + t.toNat * 16 + r.toNat * 2 + s.toNat)
  | .fsqrt d a r => some (0x09C00000 + d.toNat * 65536 + a.toNat * 1024 + r.toNat * 2)
  | .fexp2 d a r => some (0x09C00080 + d.toNat * 65536 + a.toNat * 1024 + r.toNat * 2)
  | .flog2 d a r => some (0x09C00100 + d.toNat * 65536 + a.toNat * 1024 + r.toNat * 2)
  | .frcp d a r => some (0x09C00180 + d.toNat * 65536 + a.toNat * 1024 + r.toNat * 2)
  | .frsq d a r => some (0x09C00200 + d.toNat * 65536 + a.toNat * 1024 + r.toNat * 2)
  | .cld d c i => some (0x0A000C00 + d.toNat * 65536 + c.toNat * 4096 + i.toNat)
  | .cst s c i => some (0x0A400C00 + s.toNat * 65536 + c.toNat * 4096 + i.toNat)
  | .cderive d a b => some (0x0A800000 + d.toNat * 65536 + a.toNat * 1024 + b.toNat * 16)
  | .cseto d a b => some (0x0A800001 + d.toNat * 65536 + a.toNat * 1024 + b.toNat * 16)
  | .caddo d a b => some (0x0A800002 + d.toNat * 65536 + a.toNat * 1024 + b.toNat * 16)
  | .cgeto d a => some (0x0A800003 + d.toNat * 65536 + a.toNat * 1024)
  | .cgetl d a => some (0x0A800004 + d.toNat * 65536 + a.toNat * 1024)
  | .cdrop d a b => some (0x0A800005 + d.toNat * 65536 + a.toNat * 1024 + b.toNat * 16)
  | .ctag d a => some (0x0A800006 + d.toNat * 65536 + a.toNat * 1024)
  | .b o => some (0x0C000000 + o.toNat)
  | .bl o => some (0x0C400000 + o.toNat)
  | .bx a => some (0x0C800000 + a.toNat * 1024)
  | .blx d a => some (0x0CC00000 + d.toNat * 65536 + a.toNat * 1024)
  | .beqz a o => some (0x0D000000 + a.toNat * 65536 + o.toNat)
  | .bnez a o => some (0x0D400000 + a.toNat * 65536 + o.toNat)
  | .bltz a o => some (0x0D800000 + a.toNat * 65536 + o.toNat)
  | .bgez a o => some (0x0DC00000 + a.toNat * 65536 + o.toNat)
  | .beq a b o => some (0x0E000000 + a.toNat * 65536 + b.toNat * 1024 + o.toNat)
  | .bne a b o => some (0x0E400000 + a.toNat * 65536 + b.toNat * 1024 + o.toNat)
  | .blt a b o => some (0x0E800000 + a.toNat * 65536 + b.toNat * 1024 + o.toNat)
  | .bge a b o => some (0x0EC00000 + a.toNat * 65536 + b.toNat * 1024 + o.toNat)
  | .bltn a b o => some (0x0F000000 + a.toNat * 65536 + b.toNat * 1024 + o.toNat)
  | .bgen a b o => some (0x0F400000 + a.toNat * 65536 + b.toNat * 1024 + o.toNat)
  | .lnset n c x => some (0x0F800000 + n.toNat * 1048576 + c.toNat * 16384 + x.toNat * 256)
  | .lnidx n d j => some (0x0F840000 + n.toNat * 1048576 + d.toNat * 256 + j.toNat * 64)
  | .lnadr n d k => some (0x0F880000 + n.toNat * 1048576 + d.toNat * 256 + k.toNat * 64)
  | .lnstep n o => some (0x0FC00000 + n.toNat * 1048576 + o.toNat)
  | .spawn x j o => some (0x10000000 + x.toNat * 65536 + j.toNat * 1024 + o.toNat)
  | .spawnReg x c j => some (0x10400000 + x.toNat * 65536 + c.toNat * 1024 + j.toNat * 16)
  | .spawnj j o => some (0x10800000 + j.toNat * 65536 + o.toNat)
  | .spawnjReg c j => some (0x10C00000 + c.toNat * 1024 + j.toNat * 16)
  | .endc => some (0x11000000)
  | .commit => some (0x11000001)
  | .launch a => some (0x11000002 + a.toNat * 1024)
  | .lgrow a => some (0x11000003 + a.toNat * 1024)
  | .prio a => some (0x11000004 + a.toNat * 1024)
  | .join a => some (0x11000005 + a.toNat * 1024)
  | .leave a => some (0x11000006 + a.toNat * 1024)
  | .gsync a => some (0x11000007 + a.toNat * 1024)
  | .ld d c z i => some (0x12000000 + d.toNat * 65536 + c.toNat * 4096 + z.toNat * 1024 + i.toNat)
  | .ldZ d c z i => some (0x12400000 + d.toNat * 65536 + c.toNat * 4096 + z.toNat * 1024 + i.toNat)
  | .st s c z i => some (0x12800000 + s.toNat * 65536 + c.toNat * 4096 + z.toNat * 1024 + i.toNat)
  | .ldx d c z x e => some (0x12C00000 + d.toNat * 65536 + c.toNat * 4096 + z.toNat * 1024 + x.toNat * 16 + e.toNat * 8)
  | .stx s c z x => some (0x13000000 + s.toNat * 65536 + c.toNat * 4096 + z.toNat * 1024 + x.toNat * 16)
  | .lda d c z x p e => some (0x13400000 + d.toNat * 65536 + c.toNat * 4096 + z.toNat * 1024 + x.toNat * 16 + p.toNat * 2 + e.toNat)
  | .stl s c z x p => some (0x13800000 + s.toNat * 65536 + c.toNat * 4096 + z.toNat * 1024 + x.toNat * 16 + p.toNat * 2)
  | .pref c z i => some (0x13C00000 + c.toNat * 4096 + z.toNat * 1024 + i.toNat)
  | .amo o d s c p i => some (0x14000000 + o.toNat * 4194304 + d.toNat * 131072 + s.toNat * 4096 + c.toNat * 256 + p.toNat * 16 + i.toNat)
  | .cas d s c i o f => some (0x15000000 + d.toNat * 131072 + s.toNat * 4096 + c.toNat * 256 + i.toNat * 16 + o.toNat * 4 + f.toNat * 2)
  | .red s c p o i => some (0x15400000 + s.toNat * 65536 + c.toNat * 4096 + p.toNat * 256 + o.toNat * 128 + i.toNat)
  | .redv s c p o i => some (0x15400040 + s.toNat * 65536 + c.toNat * 4096 + p.toNat * 256 + o.toNat * 128 + i.toNat)
  | .wait l s c t h => some (0x15800000 + l.toNat * 131072 + s.toNat * 4096 + c.toNat * 256 + t.toNat * 16 + h.toNat)
  | .knot m s => some (0x15C00000 + m.toNat * 16384 + s.toNat * 2048)
  | .binit c x i => some (0x15C80000 + c.toNat * 32768 + x.toNat * 512 + i.toNat)
  | .barr c x i => some (0x15D00000 + c.toNat * 32768 + x.toNat * 512 + i.toNat)
  | .bwait c p i => some (0x15D80000 + c.toNat * 32768 + p.toNat * 16384 + i.toNat)
  | .btest c d i => some (0x15E00000 + c.toNat * 32768 + d.toNat * 512 + i.toNat)
  | .copy d s x b i => some (0x16000000 + d.toNat * 262144 + s.toNat * 16384 + x.toNat * 256 + b.toNat * 16 + i.toNat)
  | .copyM d s x b i => some (0x16400000 + d.toNat * 262144 + s.toNat * 16384 + x.toNat * 256 + b.toNat * 16 + i.toNat)
  | .copyn n b i => some (0x16800000 + n.toNat * 1048576 + b.toNat * 65536 + i.toNat * 4096)
  | .copyt c x t b i => some (0x16C00000 + c.toNat * 262144 + x.toNat * 4096 + t.toNat * 2048 + b.toNat * 128 + i.toNat * 8)
  | .migr c x b i => some (0x17000000 + c.toNat * 262144 + x.toNat * 4096 + b.toNat * 256 + i.toNat * 16)
  | .cred d s x f b => some (0x17400000 + d.toNat * 262144 + s.toNat * 16384 + x.toNat * 256 + f.toNat * 32 + b.toNat * 2)
  | .copyr d s x b i => some (0x17800000 + d.toNat * 262144 + s.toNat * 16384 + x.toNat * 256 + b.toNat * 16 + i.toNat)
  | .vadd d a b m e => some (0x18000000 + d.toNat * 131072 + a.toNat * 4096 + b.toNat * 128 + m.toNat * 8 + e.toNat)
  | .vsub d a b m e => some (0x18400000 + d.toNat * 131072 + a.toNat * 4096 + b.toNat * 128 + m.toNat * 8 + e.toNat)
  | .vmul d a b m e => some (0x18800000 + d.toNat * 131072 + a.toNat * 4096 + b.toNat * 128 + m.toNat * 8 + e.toNat)
  | .vfma d a b m e => some (0x18C00000 + d.toNat * 131072 + a.toNat * 4096 + b.toNat * 128 + m.toNat * 8 + e.toNat)
  | .vmin d a b m e => some (0x19000000 + d.toNat * 131072 + a.toNat * 4096 + b.toNat * 128 + m.toNat * 8 + e.toNat)
  | .vmax d a b m e => some (0x19400000 + d.toNat * 131072 + a.toNat * 4096 + b.toNat * 128 + m.toNat * 8 + e.toNat)
  | .vand d a b m => some (0x19800000 + d.toNat * 131072 + a.toNat * 4096 + b.toNat * 128 + m.toNat * 8)
  | .vor d a b m => some (0x19800001 + d.toNat * 131072 + a.toNat * 4096 + b.toNat * 128 + m.toNat * 8)
  | .vxor d a b m => some (0x19800002 + d.toNat * 131072 + a.toNat * 4096 + b.toNat * 128 + m.toNat * 8)
  | .vshl d a b m w => some (0x19C00000 + d.toNat * 131072 + a.toNat * 4096 + b.toNat * 128 + m.toNat * 8 + w.toNat)
  | .vshr d a b m w => some (0x19C00004 + d.toNat * 131072 + a.toNat * 4096 + b.toNat * 128 + m.toNat * 8 + w.toNat)
  | .vcmp d a b c e => some (0x1A000000 + d.toNat * 131072 + a.toNat * 4096 + b.toNat * 128 + c.toNat * 16 + e.toNat)
  | .vsel d a b m e => some (0x1A400040 + d.toNat * 131072 + a.toNat * 4096 + b.toNat * 128 + m.toNat * 8 + e.toNat)
  | .vcvt d a f t r s => some (0x1A800000 + d.toNat * 131072 + a.toNat * 4096 + f.toNat * 512 + t.toNat * 64 + r.toNat * 8 + s.toNat * 4)
  | .vred d a o m e => some (0x1AC00000 + d.toNat * 131072 + a.toNat * 4096 + o.toNat * 128 + m.toNat * 8 + e.toNat)
  | .vld v c i => some (0x1B000000 + v.toNat * 131072 + c.toNat * 8192 + i.toNat)
  | .vst v c i => some (0x1B000800 + v.toNat * 131072 + c.toNat * 8192 + i.toNat)
  | .vgath v c x e => some (0x1B001000 + v.toNat * 131072 + c.toNat * 8192 + x.toNat * 64 + e.toNat * 8)
  | .vscat v c x e a => some (0x1B001800 + v.toNat * 131072 + c.toNat * 8192 + x.toNat * 64 + e.toNat * 8 + a.toNat * 4)
  | .vbcast d x e => some (0x1B400000 + d.toNat * 131072 + x.toNat * 256 + e.toNat)
  | .vperm d a b => some (0x1B404000 + d.toNat * 131072 + a.toNat * 512 + b.toNat * 16)
  | .vexp2 d a e => some (0x1B408000 + d.toNat * 131072 + a.toNat * 512 + e.toNat)
  | .vrcp d a e => some (0x1B40C000 + d.toNat * 131072 + a.toNat * 512 + e.toNat)
  | .vbset v x => some (0x1B800000 + v.toNat * 32768 + x.toNat * 512)
  | .vbtst d a b e => some (0x1B900000 + d.toNat * 131072 + a.toNat * 4096 + b.toNat * 128 + e.toNat * 16)
  | .vmatch d a b => some (0x1BA00000 + d.toNat * 131072 + a.toNat * 4096 + b.toNat * 128)
  | .vmovxToX x v l => some (0x1BB00000 + x.toNat * 8192 + v.toNat * 256 + l.toNat * 8)
  | .vmovxToV x v l => some (0x1BB80000 + x.toNat * 8192 + v.toNat * 256 + l.toNat * 8)
  | .topk d a k e => some (0x1BC00000 + d.toNat * 131072 + a.toNat * 4096 + k.toNat * 32 + e.toNat * 4)
  | .tmma d a b => some (0x1C000000 + d.toNat * 262144 + a.toNat * 16384 + b.toNat * 1024)
  | .tadd d a b r s => some (0x1C400000 + d.toNat * 262144 + a.toNat * 16384 + b.toNat * 1024 + r.toNat * 8 + s.toNat * 4)
  | .tmul d a b r s => some (0x1C400080 + d.toNat * 262144 + a.toNat * 16384 + b.toNat * 1024 + r.toNat * 8 + s.toNat * 4)
  | .tcvt d a r s => some (0x1C400100 + d.toNat * 262144 + a.toNat * 16384 + r.toNat * 8 + s.toNat * 4)
  | .ttrans d a r s => some (0x1C400180 + d.toNat * 262144 + a.toNat * 16384 + r.toNat * 8 + s.toNat * 4)
  | .tzero d => some (0x1C400200 + d.toNat * 262144)
  | .tzeroAcc d => some (0x1C400240 + d.toNat * 262144)
  | .trowmax a d => some (0x1C800000 + a.toNat * 1048576 + d.toNat * 32768)
  | .trowsum a d => some (0x1C802000 + a.toNat * 1048576 + d.toNat * 32768)
  | .tmovv a d r => some (0x1C804000 + a.toNat * 1048576 + d.toNat * 32768 + r.toNat * 64)
  | .tdrain a r => some (0x1CC00000 + a.toNat * 1048576 + r.toNat * 65536)
  | .tld d c p i => some (0x1D000000 + d.toNat * 262144 + c.toNat * 16384 + p.toNat * 256 + i.toNat)
  | .tst d c p i => some (0x1D400000 + d.toNat * 262144 + c.toNat * 16384 + p.toNat * 256 + i.toNat)
  | .mttc t x => some (0x1D800000 + t.toNat * 32768 + x.toNat * 512)
  | .mftc t d => some (0x1D880000 + t.toNat * 32768 + d.toNat * 512)
  | .tclaim a => some (0x1D900000 + a.toNat * 131072)
  | .tldn d n => some (0x1D980000 + d.toNat * 32768 + n.toNat * 8192)
  | .tgemm a p q n => some (0x1DA00000 + a.toNat * 131072 + p.toNat * 8192 + q.toNat * 512 + n.toNat * 128)
  | .tsave c => some (0x1DA80000 + c.toNat * 32768)
  | .trest c => some (0x1DB00000 + c.toNat * 32768)
  | .bgload d c => some (0x1E000000 + d.toNat * 16384 + c.toNat * 1024)
  | .bgrun a b c r => some (0x1E100000 + a.toNat * 16384 + b.toNat * 256 + c.toNat * 16 + r.toNat)
  | .bgfree a => some (0x1E200000 + a.toNat * 16384)
  | .bgstat d a => some (0x1E300000 + d.toNat * 16384 + a.toNat * 256)
  | .attn c => some (0x1E800000 + c.toNat * 32768)
  | .amerge d a b => some (0x1E880000 + d.toNat * 32768 + a.toNat * 2048 + b.toNat * 128)
  | .summ c x => some (0x1E900000 + c.toNat * 32768 + x.toNat * 512)
  | .kvapp c x => some (0x1E980000 + c.toNat * 32768 + x.toNat * 512)
  | .kvmap d a => some (0x1EA00000 + d.toNat * 8192 + a.toNat * 128)
  | .kvshoot a b => some (0x1EA80000 + a.toNat * 8192 + b.toNat * 128)
  | .sldh d c => some (0x1F000000 + d.toNat * 32768 + c.toNat * 2048)
  | .sst s c => some (0x1F040000 + s.toNat * 32768 + c.toNat * 2048)
  | .smix d a b => some (0x1F080000 + d.toNat * 32768 + a.toNat * 512 + b.toNat * 8)
  | .semb d s c => some (0x1F0C0000 + d.toNat * 32768 + s.toNat * 4096 + c.toNat * 256)
  | .scollMax d s => some (0x1F100000 + d.toNat * 32768 + s.toNat * 4096)
  | .scollSmp d s u => some (0x1F100800 + d.toNat * 32768 + s.toNat * 4096 + u.toNat * 32)
  | .sdig d s => some (0x1F140000 + d.toNat * 4096 + s.toNat * 512)
  | .slog s c x => some (0x1F180000 + s.toNat * 32768 + c.toNat * 2048 + x.toNat * 32)
  | .sreplay d c x => some (0x1F1C0000 + d.toNat * 32768 + c.toNat * 2048 + x.toNat * 32)
  | .splfind d c x => some (0x1F200000 + d.toNat * 4096 + c.toNat * 256 + x.toNat * 4)
  | .splins c a b => some (0x1F240000 + c.toNat * 16384 + a.toNat * 256 + b.toNat * 4)
  | .splref a b => some (0x1F280000 + a.toNat * 4096 + b.toNat * 64)
  | .plycut a k => some (0x1F2C0000 + a.toNat * 4096 + k.toNat * 128)
  | .trap i => some (0x1F800000 + i.toNat)
  | .eret => some (0x1F880000)
  | .mfs d r => some (0x1F900000 + d.toNat * 8192 + r.toNat)
  | .mts a r => some (0x1F980000 + a.toNat * 8192 + r.toNat)
  | .brk i => some (0x1FA00000 + i.toNat)
  | .idle => some (0x1FA80000)
  | .otinv a => some (0x1FB00000 + a.toNat * 8192)
  | .tlbinv a s => some (0x1FB80000 + a.toNat * 8192 + s.toNat * 1024)
  | .illegalWord _ => none
  | .resultVisible _ => none
  | .longOpComplete _ _ => none
  | .endcRelease _ => none
  | .commitRetire _ => none
  | .completionActionResume _ => none
  | .launchRegisterWrite _ _ => none
  | .launchIdAssign _ => none
  | .dispatch _ => none
  | .starvationGuardArm _ => none
  | .pageWalkReturn _ => none
  | .pagePresentResume _ => none
  | .spillElementPerform _ _ => none
  | .chunkComplete _ _ _ => none
  | .migrationSwitch _ => none
  | .shootdownComplete _ => none
  | .macroStep _ _ => none
  | .apipeJobTake _ _ => none
  | .apipeBlockMerge _ _ _ => none
  | .frameReturn _ => none
  | .braidInputVector _ _ => none
  | .braidVectorOutput _ _ => none
  | .credGroupComplete _ _ _ => none
  | .preemptionRequest _ => none
  | .watchdogExpiry _ => none
  | .watchdogHandlerTimeout _ => none
  | .machineError _ => none
  | .idleWake _ => none
  | .coreRetire _ _ => none
  | .powerHold _ _ => none
  | .thermalHold _ _ => none
  | .thermalShutdown => none
  | .interfaceConfigure _ _ => none
  | .hostWindowWrite _ _ _ => none
  | .hostWindowRead _ _ _ => none
  | .capabilityListUpdate => none
  | .ndoedLaneFail _ => none
  | .remoteRequest _ => none
  | .remoteAccessTimeout _ _ => none
  | .cxlPortFail _ => none
  | .moduleReset => none
  | .firmwareImageLoad _ _ => none
  | .attestationRequest _ => none
  | .abxLoad _ _ => none
  | .seqStep _ => none
  | .interfaceReset _ => none
  | .domainBringUp _ => none
  | .dieTemperatureFall _ => none

/-- The word of an instruction with its marks G and Y (R82); none for an event. -/
def encode (i : Instr) (g : BitVec 2) (y : BitVec 1) : Option Word :=
  (encodeNat i).map fun n => BitVec.ofNat 32 (n + y.toNat * 536870912 + g.toNat * 1073741824)

/-- The instruction read from a word numbered as spec/opcode_table.json numbers it. A word is 32 bits, so a
shorter one is filled with zeros. -/
def decodeTableWord (_nbits w : Nat) : Option Instr := (decode (BitVec.ofNat 32 w)).toOption

/-- Byte i of a value, least significant first (00 R3). -/
def byteOf (n i : Nat) : Byte := BitVec.ofNat 8 (n / 256 ^ i)

/-- The first n bytes of a value, least significant first (00 R3). -/
def bytesOf (n v : Nat) : List Byte := (List.range n).map (byteOf v)

/-- The value of bytes, least significant first (00 R3). -/
def natOfBytes : List Byte → Nat
  | [] => 0
  | b :: bs => b.toNat + 256 * natOfBytes bs

end Sys2Proof
end

