-- ==== Sys2Proof/Machine/Map.lean ====
section
/-! DEFINITION. Finite maps as sorted lists of pairs, and total access to vectors. -/

namespace Sys2Proof

/-- A finite map: pairs with strictly rising keys. -/
abbrev Map (α : Type) := List (Nat × α)

/-- The value at a key. -/
def mget {α : Type} : Map α → Nat → Option α
  | [], _ => none
  | (j, v) :: m, k => if j = k then some v else mget m k

/-- The map with a value put at a key. -/
def mset {α : Type} : Map α → Nat → α → Map α
  | [], k, v => [(k, v)]
  | (j, w) :: m, k, v =>
    if k < j then (k, v) :: (j, w) :: m
    else if k = j then (k, v) :: m
    else (j, w) :: mset m k v

/-- The map without a key. -/
def mdel {α : Type} (m : Map α) (k : Nat) : Map α := m.filter fun p => p.1 != k

/-- Keys strictly rise. -/
abbrev Rising {α : Type} (m : Map α) : Prop := m.Pairwise fun a b => a.1 < b.1

/-- Entry i of a vector, with a value for an index outside it. -/
def vget {α : Type} {n : Nat} (v : Vector α n) (i : Nat) (d : α) : α := v[i]?.getD d

/-- The vector with entry i replaced; unchanged for an index outside it. -/
def vset {α : Type} {n : Nat} (v : Vector α n) (i : Nat) (a : α) : Vector α n := v.setIfInBounds i a

/-- The first element that meets a test is replaced. -/
def replaceFirst {α : Type} (p : α → Bool) (f : α → α) : List α → List α
  | [] => []
  | a :: as => if p a then f a :: as else a :: replaceFirst p f as

/-- A fold that may stop. -/
def foldE {ε α β : Type} (f : β → α → Except ε β) : β → List α → Except ε β
  | b, [] => .ok b
  | b, a :: as => match f b a with
    | .ok b' => foldE f b' as
    | .error e => .error e

end Sys2Proof
end

