-- ==== Sys2Proof/Machine/Num.lean ====
section
/-! DEFINITION. Number formats, exact values and rounding (05 R60-R81). -/

namespace Sys2Proof.Num

/-- An exact value: a NaN as its FP32 bits, an infinity, or ± m × 2^e. A value that is no dyadic number is held as a
dyadic number between the same two neighbours, odd in a bit far below any rounding (log 12). -/
inductive FV where
  | nan (b : Nat)
  | inf (neg : Bool)
  | fin (neg : Bool) (m : Nat) (e : Int)
  deriving DecidableEq, Repr

/-- The canonical NaN (05 R61). -/
def cnan : Nat := 0x7FC00000

/-- The formats an element can have (05 R60, R62, R65). -/
inductive Fmt where
  | fp32 | fp16 | bf16 | e4m3 | e5m2
  | int (w : Nat)
  /-- A 4-bit type, 0-3. -/
  | nib (ty : Nat)
  deriving DecidableEq, Repr

/-- Width in bits. -/
def Fmt.width : Fmt → Nat
  | .fp32 => 32
  | .fp16 | .bf16 => 16
  | .e4m3 | .e5m2 => 8
  | .int w => w
  | .nib _ => 4

/-- Mantissa bits of a float format. -/
def Fmt.mb : Fmt → Nat
  | .fp32 => 23
  | .fp16 => 10
  | .bf16 => 7
  | .e4m3 => 3
  | .e5m2 => 2
  | .int _ => 0
  | .nib ty => if ty = 2 then 0 else 1

/-- The exponent of the smallest normal value: 1 − bias; for the 4-bit types by 05 R65. -/
def Fmt.emin : Fmt → Int
  | .fp32 | .bf16 => -126
  | .fp16 | .e5m2 => -14
  | .e4m3 => -6
  | .int _ => 0
  | .nib ty => if ty = 1 then 0 else if ty = 2 then -3 else 1

/-- The code of the largest finite magnitude (05 R60, R65). -/
def Fmt.maxCode : Fmt → Nat
  | .fp32 => 0x7F7FFFFF
  | .fp16 => 0x7BFF
  | .bf16 => 0x7F7F
  | .e4m3 => 0x7E
  | .e5m2 => 0x7B
  | .int w => 2 ^ (w - 1) - 1
  | .nib _ => 7

/-- The code of +infinity; E4M3 has none and takes its NaN code (05 R74). -/
def Fmt.infCode : Fmt → Nat
  | .fp32 => 0x7F800000
  | .fp16 => 0x7C00
  | .bf16 => 0x7F80
  | .e4m3 => 0x7F
  | .e5m2 => 0x7C
  | f => f.maxCode

/-- The sign bit's weight. -/
def Fmt.signBit (f : Fmt) : Nat := 2 ^ (f.width - 1)

/-- The format is an integer: INT8 to INT64, and 4-bit type 00. -/
def Fmt.isInt : Fmt → Bool
  | .int _ => true
  | .nib ty => ty == 0
  | _ => false

/-- The result rounds away from zero: of the remaining part, compared with half: 0 none, 1 below, 2 half, 3 above. -/
def roundsUp (rm : Nat) (neg odd : Bool) (part : Nat) : Bool :=
  match rm with
  | 0 => part == 3 || (part == 2 && odd)
  | 1 => false
  | 2 => part != 0 && !neg
  | 3 => part != 0 && neg
  | _ => decide (2 ≤ part)

/-- How m mod 2^k compares with half of 2^k. -/
def partOf (m k : Nat) : Nat :=
  let r := m % 2 ^ k
  if r = 0 then 0 else if 2 * r < 2 ^ k then 1 else if 2 * r = 2 ^ k then 2 else 3

/-- A magnitude m × 2^e rounded to a code of a float format with unbounded exponent (05 R63, R64). -/
def roundMag (f : Fmt) (rm : Nat) (neg : Bool) (m : Nat) (e : Int) : Nat :=
  if m = 0 then 0 else
  let top : Int := Nat.log2 m + e
  let ex : Int := if top < f.emin then f.emin else top
  let q : Int := ex - f.mb
  let base := (ex - f.emin).toNat * 2 ^ f.mb
  if q ≤ e then base + m * 2 ^ (e - q).toNat
  else
    let k := (q - e).toNat
    let n := m / 2 ^ k
    let c := base + n
    if roundsUp rm neg (c % 2 == 1) (partOf m k) then c + 1 else c

/-- A magnitude rounded to an integer. -/
def roundInt (rm : Nat) (neg : Bool) (m : Nat) (e : Int) : Nat :=
  if 0 ≤ e then m * 2 ^ e.toNat
  else
    let k := (-e).toNat
    let n := m / 2 ^ k
    if roundsUp rm neg (n % 2 == 1) (partOf m k) then n + 1 else n

/-- Under IEEE 754 an overflow goes to infinity (05 R74). -/
def overflowsToInf (rm : Nat) (neg : Bool) : Bool :=
  match rm with
  | 1 => false
  | 2 => !neg
  | 3 => neg
  | _ => true

/-- The code of a NaN in a float format, from its FP32 bits (05 R75). -/
def nanCode (f : Fmt) (b : Nat) : Nat :=
  let s := bits b 31 31
  match f with
  | .fp32 => b
  | .fp16 => s * 2 ^ 15 + 0x7C00 + (if bits b 22 13 = 0 then 1 else bits b 22 13)
  | .bf16 => s * 2 ^ 15 + 0x7F80 + (if bits b 22 16 = 0 then 1 else bits b 22 16)
  | .e4m3 => s * 2 ^ 7 + 0x7F
  | .e5m2 => s * 2 ^ 7 + 0x7C + (if bits b 22 21 = 0 then 1 else bits b 22 21)
  | _ => 0

/-- A value encoded into a format at scale 1.0 (05 R73-R75); a NaN gives 0 in the integer formats and 4-bit types. -/
def encode (f : Fmt) (rm : Nat) (sat : Bool) : FV → Nat
  | .nan b => nanCode f b
  | .inf neg =>
    if f.isInt then if neg then 2 ^ (f.width - 1) else f.maxCode
    else (if neg then f.signBit else 0) + (if sat then f.maxCode else f.infCode)
  | .fin neg m e =>
    if f.isInt then
      let n := roundInt rm neg m e
      if neg then (2 ^ f.width - (if 2 ^ (f.width - 1) ≤ n then 2 ^ (f.width - 1) else n)) % 2 ^ f.width
      else if f.maxCode < n then f.maxCode else n
    else
      let c := roundMag f rm neg m e
      (if neg then f.signBit else 0) +
        (if c ≤ f.maxCode then c
         else match f with
           | .nib _ => f.maxCode
           | _ => if sat then f.maxCode else if overflowsToInf rm neg then f.infCode else f.maxCode)

/-- The magnitude value of a code without its sign, as m and e. -/
def magOf (f : Fmt) (c : Nat) : Nat × Int :=
  let ef := c / 2 ^ f.mb
  let mant := c % 2 ^ f.mb
  if ef = 0 then (mant, f.emin - f.mb) else (2 ^ f.mb + mant, f.emin - f.mb + (ef - 1 : Nat))

/-- The value of a two's-complement number. -/
def intVal (w c : Nat) : FV :=
  let c := c % 2 ^ w
  if 2 ^ (w - 1) ≤ c then .fin true (2 ^ w - c) 0 else .fin false c 0

/-- The value of a code (05 R60, R62, R65, R72). -/
def decode (f : Fmt) (c : Nat) : FV :=
  let neg := c / f.signBit % 2 == 1
  let m := c % f.signBit
  let sg := if neg then 2 ^ 31 else 0
  match f with
  | .fp32 => if m = 0x7F800000 then .inf neg else if 0x7F800000 < m then .nan (c % 2 ^ 32) else .fin neg (magOf f m).1 (magOf f m).2
  | .fp16 => if m = 0x7C00 then .inf neg else if 0x7C00 < m then .nan (sg + 0x7F800000 + m % 1024 * 2 ^ 13)
      else .fin neg (magOf f m).1 (magOf f m).2
  | .bf16 => if m = 0x7F80 then .inf neg else if 0x7F80 < m then .nan (sg + 0x7F800000 + m % 128 * 2 ^ 16)
      else .fin neg (magOf f m).1 (magOf f m).2
  | .e4m3 => if m = 0x7F then .nan (sg + 0x7FF00000) else .fin neg (magOf f m).1 (magOf f m).2
  | .e5m2 => if m = 0x7C then .inf neg else if 0x7C < m then .nan (sg + 0x7F800000 + m % 4 * 2 ^ 21)
      else .fin neg (magOf f m).1 (magOf f m).2
  | .int w => intVal w c
  | .nib ty => if ty = 0 then intVal 4 c else .fin neg (magOf f m).1 (magOf f m).2

/-! ### Exact arithmetic -/

def FV.isNan : FV → Bool
  | .nan _ => true
  | _ => false

def FV.isInf : FV → Bool
  | .inf _ => true
  | _ => false

def FV.isZero : FV → Bool
  | .fin _ 0 _ => true
  | _ => false

def FV.neg : FV → Bool
  | .nan b => bits b 31 31 == 1
  | .inf n => n
  | .fin n _ _ => n

/-- The value with its sign turned. -/
def FV.negate : FV → FV
  | .nan b => .nan b
  | .inf n => .inf !n
  | .fin n m e => .fin (!n) m e

def FV.abs : FV → FV
  | .nan b => .nan (b % 2 ^ 31)
  | .inf _ => .inf false
  | .fin _ m e => .fin false m e

/-- ± m × 2^e as an integer multiple of 2^q, q ≤ e. -/
def scaled (neg : Bool) (m : Nat) (e q : Int) : Int :=
  let v : Int := m * 2 ^ (e - q).toNat
  if neg then -v else v

/-- The sum, exact; an exact zero is +0, or −0 under RDN, unless both operands are zeros of one sign (08 R116). -/
def add (rm : Nat) (a b : FV) : FV :=
  match a, b with
  | .nan _, _ => .nan cnan
  | _, .nan _ => .nan cnan
  | .inf x, .inf y => if x = y then .inf x else .nan cnan
  | .inf x, _ => .inf x
  | _, .inf y => .inf y
  | .fin x m e, .fin y n g =>
    if m = 0 ∧ n = 0 then .fin (if x = y then x else rm == 3) 0 0
    else
      let q := if e ≤ g then e else g
      let v := scaled x m e q + scaled y n g q
      if v = 0 then .fin (rm == 3) 0 0 else .fin (decide (v < 0)) v.natAbs q

/-- The product, exact; a zero product carries the exclusive OR of the signs (05 R64). -/
def mul (a b : FV) : FV :=
  match a, b with
  | .nan _, _ => .nan cnan
  | _, .nan _ => .nan cnan
  | .inf x, v => if v.isZero then .nan cnan else .inf (x != v.neg)
  | v, .inf y => if v.isZero then .nan cnan else .inf (v.neg != y)
  | .fin x m e, .fin y n g => .fin (x != y) (m * n) (e + g)

/-- m ÷ n × 2^e for n > 0: exact, or odd in a bit far below any rounding. -/
def divMag (m n : Nat) (e : Int) : Nat × Int :=
  let k := 96 + Nat.log2 n
  let q := m * 2 ^ k / n
  (2 * q + (if m * 2 ^ k % n = 0 then 0 else 1), e - k - 1)

/-- The quotient (08 R116). -/
def div (a b : FV) : FV :=
  match a, b with
  | .nan _, _ => .nan cnan
  | _, .nan _ => .nan cnan
  | .inf _, .inf _ => .nan cnan
  | .inf x, v => .inf (x != v.neg)
  | v, .inf y => .fin (v.neg != y) 0 0
  | .fin x m e, .fin y n g =>
    if n = 0 then if m = 0 then .nan cnan else .inf (x != y)
    else let r := divMag m n (e - g); .fin (x != y) r.1 r.2

/-- The integer square root, with fuel for the number of digits to base 4. -/
def isqrt : Nat → Nat → Nat
  | 0, _ => 0
  | fuel + 1, n =>
    if n = 0 then 0 else
    let r := 2 * isqrt fuel (n / 4)
    if (r + 1) * (r + 1) ≤ n then r + 1 else r

/-- The square root of a positive m × 2^e. -/
def sqrtMag (m : Nat) (e : Int) : Nat × Int :=
  let m' := if e % 2 = 0 then m else 2 * m
  let e' := if e % 2 = 0 then e else e - 1
  let n := m' * 2 ^ 128
  let r := isqrt (Nat.log2 n / 2 + 1) n
  (2 * r + (if r * r = n then 0 else 1), e' / 2 - 65)

/-- The reciprocal square root of a positive m × 2^e. -/
def rsqrtMag (m : Nat) (e : Int) : Nat × Int :=
  let m' := if e % 2 = 0 then m else 2 * m
  let e' := if e % 2 = 0 then e else e - 1
  let k := 96 + Nat.log2 m'
  let n := 2 ^ (2 * k) / m'
  let r := isqrt (Nat.log2 n / 2 + 1) n
  (2 * r + (if r * r * m' = 2 ^ (2 * k) then 0 else 1), -(e' / 2) - k - 1)

/-- 2^f for a fraction f = n ÷ 2^k, as a multiple of 2^-192 rounded down: the product of the roots 2^(1/2), 2^(1/4), …
whose bit is set. -/
def exp2Frac : Nat → Nat → Nat → Nat → Nat
  | 0, _, _, acc => acc
  | k + 1, n, root, acc =>
    let r := isqrt 200 (root * 2 ^ 192)
    exp2Frac k n r (if bits n k k = 1 then acc * r / 2 ^ 192 else acc)

/-- 2^a (08 R119). -/
def exp2 : FV → FV
  | .nan _ => .nan cnan
  | .inf true => .fin false 0 0
  | .inf false => .inf false
  | .fin neg m e =>
    if m = 0 then .fin false 1 0
    else if 12 ≤ Nat.log2 m + e then if neg then .fin false 1 (-100000) else .fin false 1 100000
    else if Nat.log2 m + e < -64 then if neg then .fin false (2 ^ 97 - 1) (-97) else .fin false (2 ^ 97 + 1) (-97)
    else
      let k := (-e).toNat
      let num : Int := scaled neg m (e + k) 0
      let n := num / 2 ^ k
      let f := (num % 2 ^ k).toNat
      if f = 0 then .fin false 1 n
      else .fin false (2 * exp2Frac k f (2 * 2 ^ 192) (2 ^ 192) + 1) (n - 193)

/-- Fraction bits of log2 y for y in [1, 2), y a multiple of 2^-288: by squaring, most significant first. -/
def log2Frac : Nat → Nat → Nat → Nat
  | 0, _, acc => acc
  | k + 1, y, acc =>
    let y2 := y * y / 2 ^ 288
    if 2 ^ 289 ≤ y2 then log2Frac k (y2 / 2) (2 * acc + 1) else log2Frac k y2 (2 * acc)

/-- log2 a (08 R119). -/
def log2 : FV → FV
  | .nan _ => .nan cnan
  | .inf true => .nan cnan
  | .inf false => .inf false
  | .fin neg m e =>
    if m = 0 then .inf true
    else if neg then .nan cnan
    else
      let l := Nat.log2 m
      let ip : Int := l + e
      if m = 2 ^ l then .fin (decide (ip < 0)) ip.natAbs 0
      else
        let v : Int := ip * 2 ^ 128 + log2Frac 128 (m * 2 ^ 288 / 2 ^ l) 0
        if 0 ≤ v then .fin false (2 * v.toNat + 1) (-129) else .fin true (2 * (-v - 1).toNat + 1) (-129)

/-- 1 ÷ a (08 R119). -/
def rcp (a : FV) : FV := div (.fin false 1 0) a

/-- The square root (08 R119). -/
def sqrt : FV → FV
  | .nan _ => .nan cnan
  | .inf neg => if neg then .nan cnan else .inf false
  | .fin neg m e =>
    if m = 0 then .fin neg 0 0 else if neg then .nan cnan else .fin false (sqrtMag m e).1 (sqrtMag m e).2

/-- The reciprocal square root (08 R119). -/
def rsqrt : FV → FV
  | .nan _ => .nan cnan
  | .inf neg => if neg then .nan cnan else .fin false 0 0
  | .fin neg m e =>
    if m = 0 then .inf neg else if neg then .nan cnan else .fin false (rsqrtMag m e).1 (rsqrtMag m e).2

/-- a < b as numbers; false where either is a NaN. -/
def lt (a b : FV) : Bool :=
  match a, b with
  | .nan _, _ => false
  | _, .nan _ => false
  | .inf x, .inf y => x && !y
  | .inf x, _ => x
  | _, .inf y => !y
  | .fin x m e, .fin y n g =>
    let q := if e ≤ g then e else g
    decide (scaled x m e q < scaled y n g q)

/-- a = b as numbers: +0 = −0; false where either is a NaN. -/
def eq (a b : FV) : Bool := !a.isNan && !b.isNan && !lt a b && !lt b a

/-- The lesser, with −0 below +0; of a NaN and a number the number (08 R117). -/
def minV (a b : FV) : FV :=
  if a.isNan then if b.isNan then .nan cnan else b
  else if b.isNan then a
  else if lt a b then a else if lt b a then b else if a.neg then a else b

/-- The greater, by the same rules. -/
def maxV (a b : FV) : FV :=
  if a.isNan then if b.isNan then .nan cnan else b
  else if b.isNan then a
  else if lt a b then b else if lt b a then a else if a.neg then b else a

/-! ### FP32 -/

/-- A value rounded to FP32 bits, overflow unsaturated. -/
def f32 (rm : Nat) (v : FV) : Nat := encode .fp32 rm false v

/-- FP32 bits as a value. -/
def of32 (b : Nat) : FV := decode .fp32 (b % 2 ^ 32)

/-- The RNE sum and product of FP32 bits. -/
def add32 (a b : Nat) : Nat := f32 0 (add 0 (of32 a) (of32 b))
def mul32 (a b : Nat) : Nat := f32 0 (mul (of32 a) (of32 b))

/-! ### Described blocks -/

/-- The element format of a format code and type (05 R68). -/
def fmtOf (fmt ty : Nat) : Option Fmt :=
  if fmt = 0x10 then some (.nib ty) else if fmt = 0x20 then some .e4m3 else if fmt = 0x21 then some .e5m2
  else if fmt = 0x22 then some (.int 8) else if fmt = 0x30 then some .bf16 else if fmt = 0x31 then some .fp16
  else if fmt = 0x40 then some .fp32 else none

/-- The format code is one of 05 R68's. -/
def fmtKnown (fmt : Nat) : Bool := fmt == 0 || fmt == 0xFF || (fmtOf fmt 0).isSome

/-- The width class of a format code as a TC width code; none for a class of any width (05 R68). -/
def widthClass (fmt : Nat) : Option Nat :=
  if fmt = 0x10 then some 0 else if fmt = 0x20 ∨ fmt = 0x21 ∨ fmt = 0x22 then some 1
  else if fmt = 0x30 ∨ fmt = 0x31 then some 2 else if fmt = 0x40 then some 3 else none

/-- Elements of a payload at a TC width code (05 R68). -/
def perBlock (w : Nat) : Nat := if w = 0 then 120 else if w = 1 then 60 else if w = 2 then 30 else 15

/-- Bits of an element at a TC width code. -/
def widthBits (w : Nat) : Nat := 4 * 2 ^ w

/-- The fields of a block's header (05 R67). -/
def hFmt (b : Nat) : Nat := bits b 7 0
def hAux (b : Nat) : Nat := bits b 17 8
def hScale (b : Nat) : Nat := bits b 29 18
def hType (b : Nat) : Nat := bits b 31 30

/-- A header word (05 R67); the type is written only for format 0x10. -/
def header (fmt ty scale : Nat) : Nat := fmt + scale * 2 ^ 18 + (if fmt = 0x10 then ty % 4 * 2 ^ 30 else 0)

/-- The header is ill-formed for a consumer that expects a width (05 R69). -/
def illFormed (b w : Nat) : Bool :=
  !fmtKnown (hFmt b) || hAux b != 0 || (match widthClass (hFmt b) with | some k => k != w | none => false)

/-- A scale's value as m and e (05 R66): (16 + m) × 2^(e − 131). -/
def scaleOf (s : Nat) : Nat × Int := (16 + s % 16, (s / 16 : Nat) - 131)

/-- The code of element i of a block at a width in bits (05 R68). -/
def elemCode (b w i : Nat) : Nat := b / 2 ^ (32 + w * i) % 2 ^ w

/-- A value times a scale, exact; NaNs and infinities stay (05 R70). -/
def timesScale (s : Nat) : FV → FV
  | .fin n m e => .fin n (m * (scaleOf s).1) (e + (scaleOf s).2)
  | v => v

/-- Element i of a described block, for a consumer that expects a width code (05 R70). -/
def readElem (b w i : Nat) : FV :=
  if hFmt b = 0xFF ∨ illFormed b w then .nan cnan
  else if hFmt b = 0 then .fin false 0 0
  else if hScale b / 16 = 255 then .nan cnan
  else if hScale b / 16 = 0 then .fin false 0 0
  else match fmtOf (hFmt b) (hType b) with
    | some f => timesScale (hScale b) (decode f (elemCode b f.width i))
    | none => .nan cnan

/-- A value divided by a scale (05 R73). -/
def overScale (s : Nat) : FV → FV
  | .fin n m e => let r := divMag m (scaleOf s).1 (e - (scaleOf s).2); .fin n r.1 r.2
  | v => v

/-- An element encoded at a scale (05 R73). -/
def encodeAt (f : Fmt) (s rm : Nat) (sat : Bool) (v : FV) : Nat :=
  match v with
  | .nan _ => encode f rm sat v
  | _ => if s / 16 = 0 then 0 else encode f rm sat (overScale s v)

/-- The largest magnitude of a format that the automatic scale uses (05 R76). -/
def scaleMax : Fmt → Nat
  | .nib ty => if ty = 0 then 7 else if ty = 1 then 6 else if ty = 2 then 8 else 12
  | .e4m3 => 448
  | .e5m2 => 57344
  | _ => 127

/-- The largest magnitude among finite values. -/
def amax (vs : List FV) : FV :=
  vs.foldl (fun a v => match v with
    | .fin _ m e => if lt a (.fin false m e) then .fin false m e else a
    | _ => a) (.fin false 0 0)

/-- The largest scale code below which s × Fmax < amax still holds, found bit by bit. -/
def scaleSearch (f : Fmt) (a : FV) : Nat → Nat → Nat
  | 0, k => k
  | b + 1, k =>
    let k' := k + 2 ^ b
    let v : FV := .fin false ((scaleOf k').1 * scaleMax f) (scaleOf k').2
    scaleSearch f a b (if lt v a then k' else k)

/-- The automatic scale (05 R76), and whether it was clamped to the largest scale (step 5). -/
def autoScale (f : Fmt) (vs : List FV) : Nat × Bool :=
  if f = .fp32 ∨ f = .fp16 ∨ f = .bf16 then (0x7F0, false)
  else
    let a := amax vs
    if a.isZero then (0x7F0, false)
    else
      let k := scaleSearch f a 12 0 + 1
      if 0xFEF < k then (0xFEF, true) else if k < 0x010 then (0x010, false) else (k, false)

/-- Codes of a width packed from element 0 upward. -/
def packCodes (w : Nat) : List Nat → Nat
  | [] => 0
  | c :: cs => c % 2 ^ w + 2 ^ w * packCodes w cs

/-- Values written as one block (05 R73, R75, R76): the scale is given or automatic; a NaN into a 4-bit type or INT8
poisons the block. -/
def encodeBlock (fmt ty rm : Nat) (sat : Bool) (vs : List FV) : Nat :=
  match fmtOf fmt ty with
  | none => if fmt = 0xFF then header 0xFF 0 0xFF0 else 0
  | some f =>
    let isNarrowInt := match f with | .nib _ => true | .int _ => true | _ => false
    if isNarrowInt && vs.any (·.isNan) then header fmt ty 0xFF0
    else
      let sc := autoScale f vs
      header fmt ty sc.1 + 2 ^ 32 * packCodes f.width (vs.map fun v =>
        encodeAt f sc.1 rm (sat || (sc.2 && !v.isInf)) v)

/-- The reduction by the fixed pairwise tree (05 R80): one round. -/
def pairUp {α : Type} (op : α → α → α) : List α → List α
  | a :: b :: r => op a b :: pairUp op r
  | r => r

/-- The reduction by the fixed pairwise tree (05 R80). -/
def treeReduce {α : Type} (op : α → α → α) : Nat → List α → Option α
  | _, [] => none
  | _, [a] => some a
  | 0, a :: _ => some a
  | fuel + 1, l => treeReduce op fuel (pairUp op l)

/-! ### Block products -/

/-- A block reads as zeros: format 0, or a scale with e = 0 (05 R70), and neither poisoned nor ill-formed. -/
def zeroBlock (b w : Nat) : Bool := !(hFmt b == 0xFF || illFormed b w) && (hFmt b == 0 || hScale b / 16 == 0)

/-- Nothing but +0 (05 R79). -/
def FV.plus : FV → FV
  | .fin _ 0 e => .fin false 0 e
  | v => v

/-- One accumulator element over the element pairs of a block pair (05 R78, R79): one rounding. With a zero block among
the two every product is +0, where its partner is finite (log 25). -/
def blockStep (acc : Nat) (zero : Bool) (prods : List (FV × FV)) : Nat :=
  let a := of32 acc
  if a.isNan || prods.any (fun p => p.1.isNan || p.2.isNan) then cnan
  else
    let ps := prods.map fun p => if zero then (mul p.1 p.2).plus else mul p.1 p.2
    if ps.any (·.isNan) then cnan
    else
      let s := (a :: ps).foldl (add 0) (.fin true 0 0)
      let negz := (a :: ps).all fun v => v.isZero && v.neg
      if s.isNan then cnan else if s.isZero then (if negz then 0x80000000 else 0) else f32 0 s

end Sys2Proof.Num
end

