-- ==== Sys2Proof/Config.lean ====
section
/-! DEFINITION. What one implementation fixes and the manual leaves open: free values without a body. -/

namespace Sys2Proof.Config

/-- The byte that decrypting under the wrong key gives (10 R162): from the key its block was written under, the key it is
read under, its address and the 64 bytes of its block as they were written. Free value, log 11. -/
opaque wrongKey : Nat → Nat → Nat → List Byte → Byte

/-- Whether a Falcon-1024 signature of a digest verifies under the vendor key fused into the hub die (31 R353).
Free value, log 13. -/
opaque falconAccepts : List Byte → List Byte → Bool

/-- The Falcon-1024 signature under the device identity key (31 R354): of the n-th report made. Free value, log 13. -/
opaque falconSign : Nat → List Byte → List Byte

/-- The answer of another device to a kind-3 access (28 R331): whether the home device accepts it. The arguments are
the home device, its interface, the object, the offset, whether the access writes, and TIME. Free value, log 14. -/
opaque homeAccepts : Nat → Nat → Nat → Nat → Bool → Nat → Bool

/-- The ordering kind of a 64 KiB page of another device's object (12 R165): of the home device, its interface, the object
and the page's number. Free value, log 14. -/
opaque homeOrd : Nat → Nat → Nat → Nat → BitVec 2

/-- The bytes of an interface's configuration that an attestation report digests (31 R354), from its settings in the
order of 28 R324. Free value, log 13. -/
opaque configBytes : IfaceCfg → List Byte

/-- The free frames that firmware gives an interface when it is brought up (31 R353): of HBM, or of the CXL tier (true),
each with its size. Free value, log 18. -/
opaque framePool : Nat → Bool → List (Nat × Nat)

/-- The format in which a row of a block with a reserved precision code stands, among those a layer may name (19 R255,
R256): of the code, and of a value (true) or a key. Free value, log 31. -/
opaque reservedFormat : Nat → Bool → Fin 7

end Sys2Proof.Config
end

