-- ==== Sys2Proof/Machine/State.lean ====
section
/-! DEFINITION. The state of the machine, plain data, and the state after reset. -/

namespace Sys2Proof.Machine

/-- Why the machine stops. -/
inductive Fault where
  /-- A step of a module whose dies firmware has powered down (31 R355). Raised by `step`. Safe: nothing runs. -/
  | poweredDown
  deriving DecidableEq, Repr

/-- Why an instruction has no meaning here. -/
inductive Refusal where
  /-- The instruction's arm has no meaning yet; raised by `exec` only. Safe. -/
  | notModelled (mnemonic : String)
  deriving DecidableEq, Repr

/-- The classes of long operations (03 R58). -/
inductive Cls where
  | L | S | C | T | G
  deriving DecidableEq, Repr

/-- A continuation record (03 R36). -/
structure Rec where
  coff  : BitVec 48
  prio  : BitVec 4
  place : BitVec 2
  need  : BitVec 4
  foff  : BitVec 48
  join  : BitVec 32
  lid   : Nat
  index : BitVec 32
  arg   : BitVec 32
  deriving DecidableEq, Repr

/-- A soft register: a descriptor and a digest (22 R278). -/
structure Soft where
  desc : BitVec 128
  dig  : XWord
  deriving DecidableEq, Repr

/-- A loop-nest context (08 R123): armed or not, its record, the captured capabilities and the indices. -/
structure Nest where
  armed : Bool
  par   : BitVec 1024
  caps  : Vector Cap 3
  idx   : Vector Nat 4
  deriving DecidableEq, Repr

/-- A tile register: 128 rows of two 64-byte block positions; a row is held with block position 0 lowest (15 R224). -/
abbrev Tile := Vector (BitVec 1024) 128

/-- An accumulator (15 R225): 128 rows of 64 FP32 elements, column 0 lowest, and its extent. -/
structure Acc where
  rows : Vector VWord 128
  m    : Nat
  n    : Nat
  deriving DecidableEq, Repr

/-- The registers of a slot that a checkpoint holds (26 R316). The record's priority is the current one (08 R139). -/
structure Ctx where
  pc    : BitVec 48
  r     : Rec
  x     : Vector XWord 56
  l     : Vector XWord 4
  c     : Vector Cap 16
  v     : Vector VWord 32
  m     : Vector MWord 8
  s     : Vector Soft 8
  n     : Vector Nest 4
  tc    : Vector (BitVec 28) 16
  idx   : Bool
  fmt   : Bool
  deriving DecidableEq, Repr

/-- A checkpoint (08 R135, 26 R316): the context, the window tiles and the accumulators held, by number. -/
structure Saved where
  ctx   : Ctx
  iface : Nat
  tiles : List Tile
  accs  : List (Nat × Acc)
  deriving DecidableEq, Repr

/-- A trap bank (26 R306, R308); `wd` marks a bank that a cause-10 trap filled (R318). -/
structure Bank where
  tpc   : BitVec 48
  cause : BitVec 12
  val   : XWord
  l     : Vector XWord 4
  c15   : Cap
  wd    : Bool
  deriving DecidableEq, Repr

/-- A write to a register (03 R56, R58). -/
inductive RegWrite where
  | x (r : BitVec 6) (v : XWord)
  | c (r : BitVec 4) (v : Cap)
  | v (r : BitVec 5) (v : VWord)
  | lane (r : BitVec 5) (i : Nat) (v : XWord)
  | m (r : BitVec 3) (v : MWord)
  | tc (i : Nat) (v : BitVec 28)
  deriving DecidableEq, Repr

/-- A fixed-latency result: the issue cycle from which it is visible, and whether it is pushed into l0 (07 R88). -/
structure Pend where
  at_  : Nat
  wr   : RegWrite
  push : Bool
  deriving DecidableEq, Repr

/-- A piece of an access within one page (12 R170): physical address, length, ordering kind, the page's D bit, the key the
data is read and written with, and its offset in its object, which a fault message names (28 R327). -/
structure Seg where
  pa  : Nat
  len : Nat
  ord : BitVec 2
  d   : Bool
  key : Nat
  off : Nat
  deriving DecidableEq, Repr

/-- A trap that waits for the slot's operations to drain (26 R308). -/
structure TrapReq where
  cause : Nat
  sub   : Nat
  val   : XWord
  tpc   : BitVec 48
  wd    : Bool
  deriving DecidableEq, Repr

/-- Why a slot is parked or stalled (03 R54). -/
inductive Block where
  /-- Until each class count of the slot's level is at or below its bound: WAIT (03 R59). -/
  | counts (l s c t g : Nat)
  /-- Until the class has room (03 R58). -/
  | room (k : Cls)
  /-- Until none of these operations of the core is outstanding: KNOT, interlocks, the range scoreboard. -/
  | ops (ids : List Nat)
  /-- Until the core's issue-cycle count passes this: the general core's vector unit (15 R207). -/
  | cycle (n : Nat)
  /-- IDLE, until this cycle of the core's clock or a pre-emption request (26 R320). -/
  | idle (n : Nat)
  /-- A page-table walk, or the home device's answer for kind 3 (10 R151, 28 R331); TVAL if it is unresolvable. -/
  | walk (iface oid off : Nat) (val : XWord)
  /-- A page that is not present (10 R151). -/
  | page (iface oid off : Nat) (val : XWord)
  /-- BWAIT, registered on the barrier object at this address (13 R193). -/
  | barrier (pa : Nat)
  /-- GSYNC, until PHASE of the group at this address has changed this many times (08 R140). -/
  | group (pa left : Nat)
  /-- TCLAIM, until the accumulator is free (15 R225). -/
  | acc (n : Nat)
  /-- The reserved tile pair is held by another slot's handler (26 R311). -/
  | pair
  /-- The interface's join table is full (03 R48). -/
  | join
  /-- The ring of a die queue is full (03 R40): the die and the priority. -/
  | ring (die prio : Nat)
  /-- A restart of firmware's whose record finds the ring of its die queue full (26 R314, 03 R40): the slot keeps the restart
  state until it is enqueued. -/
  | restart
  /-- The die's braid fabric takes no job during a hold (02 R25). -/
  | engine (die : Nat)
  /-- LAUNCH, until its record has a launch ID (03 R32): the operation's name. -/
  | launch (op : Nat)
  /-- ENDC, COMMIT and ERET, until the counts have drained (08 R134, R135, 26 R318), with the word of the first two. -/
  | endc (w : Word)
  | commit (w : Word)
  | eret
  deriving DecidableEq, Repr

/-- A group membership of a slot (03 R51): the object, whether the slot is still a pending joiner, PHASE at its join,
and whether it has arrived in the current phase. -/
structure Member where
  seg     : Seg
  pending : Bool
  phase   : BitVec 32
  arrived : Bool
  deriving DecidableEq, Repr

/-- A launch record (03 R29). -/
structure LaunchRec where
  thenOff : BitVec 48
  barOff  : BitVec 32
  joinOff : BitVec 32
  barV    : Bool
  joinV   : Bool
  thenV   : Bool
  need    : BitVec 4
  place   : BitVec 2
  prio    : BitVec 4
  stride  : BitVec 32
  next    : BitVec 32
  count   : BitVec 32
  frame   : Cap
  code    : Cap
  deriving DecidableEq, Repr

/-- A unit of a command: a chunk, a page, a row or a group (10 R155, 13 R202). `spilled` marks one that waits in a spill
queue, `late` one at or above the stop unit, whose bytes are not counted, and in a move a page under migration; `issued` marks
a chunk of a copy that has been issued, since a later one of its stream has been performed or waits in a spill queue. -/
structure Piece where
  dst     : Nat
  off     : Nat
  len     : Nat
  spilled : Bool
  late    : Bool
  issued  : Bool
  deriving DecidableEq, Repr

/-- Where a command of the copy group has stopped (10 R155, 13 R202): the destination's place, the unit, the cause, the
failing element's offset, and whether the message has been raised. -/
structure CopyStop where
  dst   : Nat
  unit  : Nat
  cause : Nat
  off   : Nat
  sent  : Bool
  deriving DecidableEq, Repr

/-- A point of COPYN that has been issued (13 R197): its number, and its offsets in the two objects. -/
structure Point where
  num : Nat
  src : Nat
  dst : Nat
  deriving DecidableEq, Repr

/-- A group of CRED (13 R200): its number, the destinations not yet tried, the mask of those that have performed it,
its values as FP32, once they are formed, and the single additions that the sparse-update units have performed ahead of
the rest (05 R81): the destination, the pieces of the group's range there, and the elements. -/
structure Group8 where
  g    : Nat
  left : List Nat
  mask : Nat
  vals : List Nat
  part : List (Nat × List Seg × List Nat)
  deriving DecidableEq, Repr

/-- An arena descriptor as a command has read it (19 R254), with the arena's object. -/
structure Arena where
  oid      : Nat
  frameLog : Nat
  cntOff   : Nat
  layOff   : Nat
  mapLog   : Nat
  mapOff   : Nat
  deriving DecidableEq, Repr

/-- The barrier object of a command, as it was translated at issue. -/
abbrev Bar := Option Seg

/-- Where an AMERGE stands (19 R273): the record to be merged next, those diverted before it, whether a record is the NaN
state or empty, and whether it has stopped. -/
structure Merge where
  next    : Nat
  late    : List Nat
  nan     : Bool
  empty   : Bool
  stopped : Bool
  deriving DecidableEq, Repr

/-- What a long operation still has to do. Every value that the instruction reads at issue stands in it. -/
inductive Task where
  /-- Class G: the result (08 R111, R119). -/
  | value (d : BitVec 6) (v : XWord)
  /-- LD, LDX, LDA (13 R187). -/
  | load (segs : List Seg) (signed : Bool) (d : BitVec 6) (acq : Bool)
  /-- CLD (13 R184). -/
  | loadCap (seg : List Seg) (keep : Bool) (d : BitVec 4)
  /-- VLD (15 R221): its capability, its offset, and its pieces; none while a page is not present (10 R153). -/
  | loadVec (cap : Cap) (off : Nat) (segs : List Seg) (v : BitVec 5)
  /-- ST, STX, STL, VST, SST (13 R187, 15 R221, 22 R280). -/
  | store (segs : List Seg) (bytes : List Byte) (rel : Bool)
  /-- CST (13 R185). -/
  | storeCap (segs : List Seg) (v : Cap)
  /-- AMO (13 R189). -/
  | amo (segs : List Seg) (op : Nat) (v : XWord) (d : BitVec 5) (acq rel : Bool)
  /-- CAS (13 R190). -/
  | cas (segs : List Seg) (exp new : XWord) (d : BitVec 5) (acq rel facq : Bool)
  /-- RED and REDV (13 R191): the contributions with their offsets, their pieces and their values; one whose page is not
  present has no pieces (10 R153). -/
  | red (cap : Cap) (op : Nat) (ordered : Bool) (vals : List (Nat × List Seg × Nat))
  /-- BINIT and BARR (13 R193). -/
  | binit (seg : Seg) (n : Nat)
  | barr (seg : Seg) (n : Nat)
  /-- VGATH (15 R222): the capability's object, the element offsets in lane order (none: out of bounds), the type. -/
  | gather (cap : Cap) (offs : List (Option Nat)) (et : BitVec 3) (v : BitVec 5)
  /-- VSCAT (15 R223): the elements in lane order with their offsets; those of an add that the sparse-update units have
  performed ahead of the rest, by how many elements follow them (05 R81). -/
  | scatter (cap : Cap) (elems : List (Option Nat × Nat)) (et : BitVec 3) (add : Bool) (part : List Nat)
  /-- LAUNCH (08 R137): the record waits for an ID, then its entry is enqueued. -/
  | launchWait (r : LaunchRec)
  | launch (lid : Nat)
  /-- COPY, COPY.m and COPYR (13 R195, R196, R201): source, destinations, what is still to do, where it has stopped. -/
  | copy (src : Cap) (dsts : List Cap) (todo : List Piece) (stops : List CopyStop) (tags : Bool) (bar : Bar)
  /-- COPYN (13 R197): the copied nest, disarmed when every point has been issued; the points issued and not yet counted,
  their chunks, and the point at which it stops with its cause and the failing element's offset. -/
  | copyn (n : Nest) (bar : Bar) (pts : List Point) (todo : List Piece) (stop : Option CopyStop)
  /-- COPYT and MIGR (13 R198, R199): the pages taken up and, last, the range still to visit; `target` is 8 for CXL, 9 for
  any HBM frame, else a stack; where it has stopped. -/
  | move (cap : Cap) (target : Nat) (migr : Bool) (todo : List Piece) (stop : Option CopyStop) (bar : Bar)
  /-- CRED (13 R200): contributions, residuals, destinations, format, count; the groups not yet complete. -/
  | cred (src res : Cap) (dsts : List Cap) (fmt n : Nat) (todo : List Group8) (stop : Option (Nat × Nat)) (bar : Bar)
  /-- TLD, TST (15 R229): the tile, its TC, and for each row, in TST each still to be written, its offset and page kind. -/
  | tld (cap : Cap) (t : Nat) (tc : BitVec 28) (rows : List (Nat × Bool))
  | tst (cap : Cap) (t : Nat) (tc : BitVec 28) (rows : List (Nat × Bool))
  /-- TLDN and TGEMM (15 R230, R232): the copied nest and the point or step reached. -/
  | tldn (t : Nat) (tc : BitVec 28) (n : Nest) (p : Nat)
  | tgemm (a : Nat) (ta tb : Nat × Nat) (tca tcb : BitVec 28) (n : Nest) (step : Nat)
  /-- TMMA (15 R231). -/
  | tmma (a ta tb : Nat) (tca tcb : BitVec 28)
  /-- TADD, TMUL, TCVT, TTRANS (15 R233), by fn. -/
  | tarith (fn d a b : Nat) (tcd tca tcb : BitVec 28) (rm : BitVec 3) (sat : Bool)
  | tzero (t : Nat) (tc : BitVec 28)
  | azero (a : Nat)
  | tclaim (a : Nat)
  | rowmax (v : BitVec 5) (a : Nat)
  | rowsum (v : BitVec 5) (a : Nat)
  | movv (v : BitVec 5) (a row : Nat)
  /-- TDRAIN (15 R236): the accumulator, the route entry, and the first row still to be written. -/
  | drain (a : Nat) (route : BitVec 512) (dest : Cap) (bar : Bar) (row : Nat)
  /-- TSAVE and TREST (15 R237): the area, the tiles with their TC registers, and the accumulators; of TSAVE the parts of
  the area, by offset and length, that are still to be written. -/
  | tsave (cap : Cap) (tiles : List (Nat × Nat)) (tcs : List (BitVec 28)) (accs : List Nat) (left : List (Nat × Nat))
  | trest (cap : Cap) (tiles : List (Nat × Nat)) (accs : List Nat)
  /-- BGLOAD, BGRUN, BGFREE, BGSTAT (17 R249-R252); `regs`: the run writes vector registers. -/
  | bgload (d : BitVec 6) (v : XWord)
  | bgrun (handle : Nat) (regs : Bool)
  | bgfree (handle : Nat)
  | bgstat (handle : Nat) (d : BitVec 6)
  /-- ATTN (19 R272): the job stands in the die's queue or an A-pipe under this operation's name. -/
  | attn (seq ply : Nat)
  /-- AMERGE (19 R273). -/
  | amerge (d a : Cap) (b : Option Cap) (n dh : Nat) (miss : Bool) (w : Merge)
  /-- SUMM, KVAPP, KVMAP, KVSHOOT (19 R274-R277), with the arena and the layer descriptor read at issue; `at_` is the map
  entry that SUMM or KVAPP writes under, once it has it, with the heads still to be written. -/
  | summ (key count : Nat) (bar : Bar) (ar : Arena) (layer : BitVec 128) (at_ : Option (Nat × List Nat))
  | kvapp (cap : Cap) (desc : BitVec 256) (ar : Arena) (layer : BitVec 128) (at_ : Option (Nat × List Nat))
  | kvmap (d : BitVec 6) (key : Nat) (ar : Arena)
  | kvshoot (seq block count : Nat)
  /-- SMIX, SEMB, SCOLL, SDIG, SLOG, SREPLAY and SPLFIND (22 R281-R290): the results were fixed at issue. -/
  | smix (d : BitVec 3) (r : Soft) (off : Nat) (bytes : List Byte)
  | soft (d : BitVec 3) (r : Soft) (off : Nat) (bytes : List Byte)
  | sdig (d : BitVec 6) (v : XWord) (a : BitVec 3) (r : Soft)
  | slog (a : BitVec 3) (r : Soft) (log : Cap) (aoff n : Nat) (bytes record : List Byte)
  /-- SPLFIND, SPLINS, SPLREF, PLYCUT (22 R290-R295). -/
  | splfind (d : BitVec 6) (off : Nat) (bytes : List Byte) (pos : Nat)
  | splins (tree : Cap) (p n seq block : Nat)
  | splref (seq block : Nat) (release : Bool) (hseq hblk : Nat) (ar : Arena)
  | plycut (seq k : Nat)
  /-- OTINV, TLBINV (26 R321, R322); `none` names every object. -/
  | otinv (oid : Option Nat)
  | tlbinv (oid : Option Nat) (pkg : Bool)
  /-- A command that has stopped by 10 R154: nothing is left but to leave its class; the tiles and accumulators (from 16 on)
  that it reads and writes stay interlocked until then (15 R226). -/
  | stopped (reads writes : List Nat)
  deriving DecidableEq, Repr

/-- A long operation of a slot (03 R58): its name, its class, the level it was issued at, its word, the interface and
the launch of its continuation, the scratchpad ranges it reads and writes (10 R161; `true` for a write), whether it has
begun writing its destination (26 R313), the PLYCUTs that reached its slot since it issued: sequence, ply, and whether the
cut cleared its register (22 R356), and whether an element of it has failed: elements in flight complete uncounted, and no
second message is raised (10 R154). -/
structure Op where
  id    : Nat
  cls   : Cls
  lvl   : Nat
  word  : Word
  iface : Nat
  lid   : Nat
  task  : Task
  sp    : List (Nat × Nat × Bool)
  begun : Bool
  cuts  : List (Nat × Nat × Bool)
  halted : Bool
  deriving DecidableEq, Repr

/-- The restart state of a continuation (08 R133): its dispatch record or its last checkpoint. -/
inductive Restart where
  | fresh (r : Rec)
  | saved (s : Saved)
  deriving DecidableEq, Repr

/-- A thread slot. -/
structure Slot where
  /-- SLOTID [15:0] (02 R20). -/
  id       : Nat
  /-- The slot holds a continuation. -/
  busy     : Bool
  /-- The slot runs in steward mode: the capability that the firmware's code is fetched through (26 R305). -/
  steward  : Option Cap
  iface    : Nat
  ctx      : Ctx
  /-- TSTAT.LVL, PRE and HT; TK0-TK3; the two trap banks (26 R306). -/
  lvl      : Nat
  pre      : Bool
  ht       : Bool
  tk       : Vector XWord 4
  bank1    : Bank
  bank2    : Bank
  pend     : List Pend
  ops      : List Op
  block    : Option Block
  /-- The last issue cycle of the gap (03 R54). -/
  gapUntil : Nat
  trapPend : Option TrapReq
  /-- The kind-3 access that its home device has answered (28 R331). -/
  grant    : Option (Nat × Nat)
  groups   : List Member
  /-- The SPAWNJ list: code offset and counter address (08 R133). -/
  spawnj   : List (Nat × Nat)
  /-- The continuation was restarted since its restart point, so the list filters SPAWNJ (08 R133). -/
  rerun    : Bool
  restart  : Restart
  /-- The physical tiles of the window, and the accumulators held by the continuation and by its handler (26 R311). -/
  window   : List Nat
  accs     : List Nat
  haccs    : List Nat
  /-- The watchdog: TIME at which it elapses, an expiry held for the return to level 0, the second interval (R313). -/
  dog      : Option Nat
  dogHeld  : Bool
  dogHand  : Option Nat
  deriving DecidableEq, Repr

/-- The modes of a slot (26 R305). -/
inductive Mode where
  | task | super | steward
  deriving DecidableEq, Repr

/-- A core of a compute die or of the hub (02 R15, R17). -/
structure Core where
  /-- die × 128 + core number. -/
  id     : Nat
  /-- Issue cycles begun, the unit of latencies and gaps (02 R25). -/
  cycle  : Nat
  /-- Cycles of the core's own clock, held ones included (02 R24, R25). -/
  clock  : Nat
  /-- 1 + the clock of the core's last dispatch, of which a cycle has one at most (03 R41). -/
  dispAt : Nat
  cur    : Nat
  /-- The instruction last issued carried Y, and the slot that it was issued from, or whose ENDC waits (03 R55). -/
  lastY  : Bool
  lastBy : Nat
  hold   : Nat
  absent : Bool
  deque  : List Rec
  tiles  : Vector Tile 16
  accs   : Vector Acc 4
  vecBusy : Nat
  deriving DecidableEq, Repr

/-- What a die queue holds (03 R39): a launch entry, a record, or a checkpoint. -/
inductive Item where
  | launch (lid : Nat)
  | one (r : Rec)
  | saved (s : Saved)
  deriving DecidableEq, Repr

/-- A die-queue entry: the SPAWNJ list of its restart state, whether it is a restart (08 R133), and its enqueue stamp
(03 R43). -/
structure Entry where
  item  : Item
  sj    : List (Nat × Nat)
  rerun : Bool
  stamp : Nat
  deriving DecidableEq, Repr

/-- A launch in the launch table (03 R32-R35). -/
structure Launch where
  iface    : Nat
  r        : LaunchRec
  home     : Nat
  live     : Nat
  complete : Bool
  /-- Completion actions still to do (03 R34), and the slot whose ENDC completed the launch. -/
  actions  : List Nat
  ender    : Nat
  deriving DecidableEq, Repr

/-- A launch that waits for an ID (03 R32): the interface, the record, and the slot and operation of a LAUNCH. -/
structure Waiting where
  iface : Nat
  r     : LaunchRec
  from_ : Option (Nat × Nat)
  deriving DecidableEq, Repr

/-- A waiting record on a join counter (03 R48): the counter's address, the record, the die of the SPAWNJ. -/
structure JoinEntry where
  iface : Nat
  pa    : Nat
  r     : Rec
  die   : Nat
  deriving DecidableEq, Repr

/-- A die's starvation guard (03 R43): the ordinary dispatches counted, whether it is armed, and 1 + the clock of the core
and cycle in which its oldest entry was last served, in which other dispatches are not counted. -/
structure Guard where
  count  : Nat
  armed  : Bool
  served : Nat
  deriving DecidableEq, Repr

/-- An entry of a last-level TLB (10 R150): `page` is the offset's 64 KiB page number, the span's first for 2 MiB. -/
structure TlbEntry where
  die   : Nat
  iface : Nat
  oid   : Nat
  page  : Nat
  leaf  : BitVec 64
  deriving DecidableEq, Repr

/-- A migration of a page (10 R160): the leaf's address, the page, old and new frame, its size, the key slots of the leaf
and of the page's data; `switched` once the
leaf names the new frame and the shoot-down is under way; the slot and the command it belongs to (none: an A-pipe's
page-in). -/
structure Migration where
  iface    : Nat
  oid      : Nat
  off      : Nat
  leafPa   : Nat
  old      : Nat
  new      : Nat
  size     : Nat
  key      : Nat
  dkey     : Nat
  switched : Bool
  owner    : Option (Nat × Nat)
  deriving DecidableEq, Repr

/-- A spill-queue entry (10 R152): the port, the slot and the operation it belongs to, the name of the element among
those of the operation, and the object and offset whose page is not present. An element that has been performed has left the
queue: one that its consumer receives in stream order is kept with what it read, and the D bit of its page, until its turn
comes (R153). -/
structure Spill where
  port : Nat
  slot : Nat
  op   : Nat
  key  : Nat
  oid  : Nat
  off  : Nat
  val  : Option (Bool × Nat)
  deriving DecidableEq, Repr

/-- A run of a braid (17 R243). -/
structure BRun where
  slot    : Nat
  op      : Nat
  seq     : Nat
  ply     : Nat
  total   : Nat
  /-- Vectors accepted so far, and those accepted whose outputs are still to be written, quantised: number, E, q. -/
  taken   : Nat
  flight  : List (Nat × Option (Int × List Int))
  src     : Option (Cap × Nat × Nat)
  route   : BitVec 512
  dest    : Cap
  bar     : Bar
  open_   : Bool
  deriving DecidableEq, Repr

/-- A loaded braid (17 R238, R239, R252). -/
structure Braid where
  die    : Nat
  handle : Nat
  nslot  : Nat
  iface  : Nat
  ofmt   : Nat
  wi     : Nat
  nout   : Nat
  nin    : Nat
  nodes  : List (BitVec 64)
  list   : List Nat
  scales : List Nat
  run    : Option BRun
  cut    : Nat
  lost   : Bool
  ev     : Bool
  edge   : Bool
  nan    : Bool
  done   : Nat
  /-- The BGFREE that waits for the run to end: slot and operation. -/
  freeing : Option (Nat × Nat)
  deriving DecidableEq, Repr

/-- A vector pushed to a braid and not yet arrived (17 R246): FP32 elements. -/
structure Push where
  die    : Nat
  handle : Nat
  iface  : Nat
  vec    : List Nat
  deriving DecidableEq, Repr

/-- A partial or running softmax state (19 R265): none is the NaN state; the fields are FP32 bits. -/
structure SState where
  m : Nat
  l : Nat
  o : List Nat
  deriving DecidableEq, Repr

/-- An ATTN job (19 R272): its slot and operation, its record, its capabilities, the arena and the layer descriptor. -/
structure Job where
  slot   : Nat
  op     : Nat
  iface  : Nat
  die    : Nat
  desc   : BitVec 1024
  qry    : Cap
  dest   : Cap
  bar    : Bar
  arena  : Arena
  layer  : BitVec 128
  deriving DecidableEq, Repr

/-- A block of a job still to be merged (19 R268): the query row, the block number, its frame's unit, its precision, the
usable rows, whether its entry has T = 1 and its frame is still to be paged in (R269), and whether it is diverted. -/
structure JobBlock where
  row      : Nat
  block    : Nat
  frame    : Nat
  prec     : Nat
  usable   : List Nat
  tier     : Bool
  diverted : Bool
  deriving DecidableEq, Repr

/-- An A-pipe (19 R18, R268): its job, whether its blocks have been looked up and selected, the query elements as FP32
bits, the blocks to merge, and the running states of the records. -/
structure Pipe where
  die     : Nat
  pipe    : Nat
  job     : Job
  planned : Bool
  query   : List Nat
  blocks  : List JobBlock
  states  : List (Option SState)
  miss   : Bool
  deriving DecidableEq, Repr

/-- What a die's KV translation buffers hold for a key (19 R260): the entry's offset in the arena and its value; log 16. -/
structure KvBuf where
  die   : Nat
  iface : Nat
  key   : Nat
  off   : Nat
  val   : Nat
  deriving DecidableEq, Repr

/-- A freed KV frame (22 R293): its unit, and the jobs that may have looked it up. -/
structure Freed where
  iface : Nat
  unit  : Nat
  jobs  : List Nat
  deriving DecidableEq, Repr

/-- The loader of an interface (31 R349, R352): the SEQ program, the step it stands at, the place of the barrier object
that a BWAIT step has registered on, the code and data objects, the staged braid images, and where it stopped: the step of a sequence fault; in a file it refused, which has no steps, 0 for
an ill-formed file and 1 + n for binding entry n. -/
structure Loader where
  steps  : List (BitVec 128)
  pos    : Nat
  wait   : Option Nat
  code   : Cap
  data   : Cap
  braids : List Cap
  fault  : Option Nat
  deriving DecidableEq, Repr

/-- What a host access reaches: the window object through BAR2, the launch register, or the MSI-X table (28 R323). -/
inductive HostTarget where
  | window | register | table
  deriving DecidableEq, Repr

/-- A host access that waits for those before it (28 R324, 03 R29): a posted write of bytes, or a read of n of the window. -/
structure HostAccess where
  target : HostTarget
  off  : Nat
  data : List Byte
  n    : Nat
  deriving DecidableEq, Repr

/-- A virtual interface (28 R323-R327). -/
structure Iface where
  cfg       : Option IfaceCfg
  tbase     : BitVec 64
  refused   : BitVec 32
  cause     : BitVec 8
  discarded : BitVec 32
  stopped   : Bool
  /-- Free frames of the two tiers with their sizes (13 R198), KV frames and buckets in 64-byte units (19 R259, R271). -/
  hbmPool   : List (Nat × Nat)
  cxlPool   : List (Nat × Nat)
  kvPool    : List Nat
  buckets   : List Nat
  /-- Pages asked for (10 R151): object and offset. -/
  requests  : List (Nat × Nat)
  /-- Host accesses not yet performed, oldest first, and the MSI-X table (28 R323, R324). -/
  posted    : List HostAccess
  msixTable : BitVec 1024
  /-- MSI-X vectors raised for this interface alone, and the answers to reads, newest first. -/
  msix      : List Nat
  reads     : List Nat
  loader    : Option Loader
  deriving DecidableEq, Repr

/-- Memory: the bytes that differ from 0, the granules whose tag is set, and the 64-byte blocks written under a key other
than 0 with that key (10 R145, R162). Addresses are the model's physical addresses, log 7. -/
structure Memory where
  bytes : List Host.Cell
  tags  : List (Nat × Unit)
  keys  : List (Nat × Nat)
  deriving DecidableEq, Repr

/-- Where module reset stands (31 R353, R355). -/
inductive Boot where
  | rom | recovery | open_ | off
  deriving DecidableEq, Repr

/-- The units of the module and its links (28 R326-R334, 31 R353-R355). -/
structure Module where
  boot      : Boot
  dom       : Bool
  dev       : Nat
  /-- Spare cores left on CD0 and CD1 (02 R21). -/
  spares    : Vector Nat 2
  /-- Lanes up of each Ndoed port; CXL ports failed; the ports frames are interleaved over (28 R333). -/
  lanes     : Vector Nat 18
  cxlDown   : List Nat
  cxlPorts  : List Nat
  cxlGiB    : Nat
  /-- Changes of the capability list not yet announced, and how often vector 0 of each interface has been raised (28
  R326). -/
  changes   : Nat
  raised0   : Nat
  /-- The coolant's inlet temperature as measured (31 R355). -/
  inlet     : Nat
  /-- Records that the ring of a die queue holds beyond the 256 on chip (03 R39, R40). -/
  ring      : Nat
  /-- The key slots (10 R162): fills made so far, the fill that all slots had, and the slots filled since, with theirs. -/
  keyFills  : Nat
  keyBase   : Nat
  keyAlt    : Map Nat
  digest    : List Byte
  /-- Attestation reports made, newest first (31 R354). -/
  reports   : List (List Byte)
  /-- Dies above 105 degrees C (31 R355), and the TIME up to which a die's A-pipes and fabric accept no job (02 R25). -/
  hot       : List Nat
  engHold   : Vector Nat 3
  deriving DecidableEq, Repr

/-- A grouping of reductions (05 R81, 12 R180): the contributions of a slot's operations, each by its place among those
of the operation. -/
inductive RedTree where
  | leaf (slot op n : Nat)
  | node (a b : RedTree)
  deriving DecidableEq, Repr

/-- What happens next in place of an issue cycle (log 1). -/
inductive Act where
  /-- The core whose cycle comes next. -/
  | turn (core : Nat)
  /-- An event of another agent. -/
  | event (i : Instr)
  /-- A cached object entry, TLB entry or KV buffer entry is dropped: by kind and position. -/
  | dropObject (n : Nat)
  | dropTlb (n : Nat)
  | dropKv (n : Nat)
  /-- Firmware or another bus master stores bytes of device or host memory under a key slot: page tables, object tables,
  host memory; or another device changes bytes of an object of its own (28 R331). -/
  | poke (key pa : Nat) (bytes : List Byte)
  /-- Another device stores a tagged capability in an object of its own (28 R331, 10 R145). -/
  | farCap (pa : Nat) (bits : BitVec 128)
  /-- Firmware puts frames into an interface's pools. -/
  | pools (iface : Nat) (hbm cxl : List (Nat × Nat)) (kv buckets : List Nat)
  /-- The sparse-update units perform one contribution, or a group of unordered ones (12 R180): an element of RED and REDV
  by its place, of VSCAT by how many elements follow it, of CRED as (group × 16 + destination) × 128 + element. -/
  | merge (t : RedTree)
  /-- The host reads n bytes of an interface's BAR0, or writes bytes of it outside the launch register (28 R323). -/
  | bar0Read (iface off n : Nat)
  | bar0Write (iface off : Nat) (bytes : List Byte)
  /-- The accesses through an interface's BAR2 that wait for a page go on (28 R324). -/
  | posted (iface : Nat)
  /-- The record of a restart that found its ring full is enqueued, and a lost core's deque goes on being handed over, once the
  rings have room (26 R314, 02 R22, 03 R40). -/
  | requeue (slot : Nat)
  | handOver (core : Nat)
  /-- Firmware enters steward mode on an idle slot of the hub, at an offset of its code, and leaves it (26 R305). -/
  | stewardEnter (slot : Nat) (code : Cap) (pc : BitVec 48)
  | stewardLeave (slot : Nat)
  /-- Steward firmware fills a key slot (10 R162) or sets the size of the queues' rings (03 R39); the device measures its
  inlet temperature (31 R355). -/
  | fillKey (slot : Nat)
  | rings (n : Nat)
  | inlet (t : Nat)
  deriving DecidableEq, Repr

/-- The whole machine. -/
structure State where
  /-- The core in focus, its current slot, and every other slot and core that is not as after reset. -/
  me       : Slot
  core     : Core
  slots    : Map Slot
  cores    : Map Core
  /-- The word being executed (07 R82). -/
  ir       : Word
  agenda   : List Act
  nextOp   : Nat
  /-- TIME (02 R26). -/
  time     : Nat
  mem      : Memory
  objects  : Map (BitVec 256)
  tlb      : List TlbEntry
  moves    : List Migration
  spills   : List Spill
  launches : Map Launch
  waiting  : List Waiting
  queues   : Map (List Entry)
  stamp    : Nat
  guards   : Vector Guard 3
  joins    : List JoinEntry
  /-- Operations whose continuation was restarted before they were performed (26 R314), with their slot. -/
  orphans  : List (Nat × Op)
  braids   : List Braid
  /-- Handles that BGFREE has freed and no load has taken since (17 R251): die, handle, interface. -/
  gone     : List (Nat × Nat × Nat)
  pushes   : List Push
  jobs     : List Job
  pipes    : List Pipe
  kvBufs   : List KvBuf
  freed    : List Freed
  ifaces   : Map Iface
  module   : Module
  deriving DecidableEq, Repr

/-- The record of a slot that holds no continuation; log 5. -/
def Rec.zero : Rec := ⟨0, 0, 0, 0, 0, 0, 0, 0, 0⟩

/-- A disarmed nest (08 R123). -/
def Nest.clear : Nest := ⟨false, 0, Vector.replicate 3 Cap.null, Vector.replicate 4 0⟩

/-- Registers all zero (03 R38). -/
def Ctx.zero : Ctx :=
  { pc := 0, r := Rec.zero, x := Vector.replicate 56 0, l := Vector.replicate 4 0, c := Vector.replicate 16 Cap.null,
    v := Vector.replicate 32 0, m := Vector.replicate 8 0, s := Vector.replicate 8 ⟨0, 0⟩,
    n := Vector.replicate 4 Nest.clear, tc := Vector.replicate 16 0, idx := false, fmt := false }

/-- A bank no trap has filled; log 5. -/
def Bank.zero : Bank := ⟨0, 0, 0, Vector.replicate 4 0, Cap.null, false⟩

/-- A slot without a continuation; log 5. -/
def Slot.idle (id : Nat) : Slot :=
  { id := id, busy := false, steward := none, iface := 0, ctx := Ctx.zero, lvl := 0, pre := false, ht := false,
    tk := Vector.replicate 4 0, bank1 := Bank.zero, bank2 := Bank.zero, pend := [], ops := [], block := none,
    gapUntil := 0, trapPend := none, grant := none, groups := [], spawnj := [], rerun := false, restart := .fresh Rec.zero, window := [],
    accs := [], haccs := [], dog := none, dogHeld := false, dogHand := none }

/-- A tile of zero blocks. -/
def Tile.zero : Tile := Vector.replicate 128 0

/-- An accumulator of +0 with extent (0, 0). -/
def Acc.zero : Acc := ⟨Vector.replicate 128 0, 0, 0⟩

/-- A core after reset; log 5. -/
def Core.idle (id : Nat) : Core :=
  { id := id, cycle := 0, clock := 0, dispAt := 0, cur := 0, lastY := false, lastBy := 0, hold := 0, absent := false, deque := [],
    tiles := Vector.replicate 16 Tile.zero, accs := Vector.replicate 4 Acc.zero, vecBusy := 0 }

/-- A virtual interface after reset; log 5. -/
def Iface.zero : Iface :=
  { cfg := none, tbase := 0, refused := 0, cause := 0, discarded := 0, stopped := false, hbmPool := [], cxlPool := [],
    kvPool := [], buckets := [], requests := [], posted := [], msixTable := 0, msix := [], reads := [], loader := none }

/-- The module's units after reset (02 R13, R21, 28 R330, R333, 31 R353); log 5. -/
def Module.zero : Module :=
  { boot := .rom, dom := false, dev := 0, spares := Vector.replicate 2 4, lanes := Vector.replicate 18 8, cxlDown := [],
    cxlPorts := List.range 16, cxlGiB := 16384, changes := 0, raised0 := 0, inlet := 0,
    ring := 1048576, keyFills := 0, keyBase := 0, keyAlt := [], digest := [], reports := [], hot := [],
    engHold := Vector.replicate 3 0 }

/-- Memory that nothing has written; log 4. -/
def Memory.zero : Memory := ⟨[], [], []⟩

/-- The machine right after module reset (31 R353): the boot ROM waits for a firmware image, no slot holds a
continuation, TIME is 0 (02 R26) and TSTAT reads 0 (26 R306). -/
def State.reset : State :=
  { me := Slot.idle 0, core := Core.idle 0, slots := [], cores := [], ir := 0, agenda := [], nextOp := 0, time := 0,
    mem := Memory.zero, objects := [], tlb := [], moves := [], spills := [], launches := [], waiting := [], queues := [],
    stamp := 0, guards := Vector.replicate 3 ⟨0, false, 0⟩, joins := [], orphans := [], braids := [], gone := [], pushes := [], jobs := [],
    pipes := [], kvBufs := [], freed := [], ifaces := [], module := Module.zero }

end Sys2Proof.Machine
end

