-- ==== Sys2Proof/Machine/Mem.lean ====
section
/-! DEFINITION. Memory by bytes: encrypted data, tags, and pieces of accesses. -/

namespace Sys2Proof.Machine

/-- Physical addresses below this are encrypted: HBM from 0, CXL from 2^52 (10 R162); log 7. -/
def cxlBase : Nat := 2 ^ 52
def encryptedEnd : Nat := 2 ^ 53
/-- Host bus addresses, scratchpads, and the objects of other devices; log 7. -/
def hostBase : Nat := 2 ^ 64
def scratchBase : Nat := 2 ^ 66
def remoteBase : Nat := 2 ^ 112

/-- A core's scratchpad (10 R147). -/
def scratchPa (core off : Nat) : Nat := scratchBase + core * 2 ^ 22 + off

/-- The byte stored at an address; 0 where nothing is listed (log 4). -/
def Memory.get (m : Memory) (pa : Nat) : Byte := (mget m.bytes pa).getD 0

/-- The key that the 64-byte block of a byte was written under (10 R162): 0 where none is listed. -/
def Memory.keyAt (m : Memory) (pa : Nat) : Nat := (mget m.keys (pa / 64)).getD 0

/-- The 64-byte block of a byte, the data unit of encryption, as it was written (10 R162). -/
def Memory.block (m : Memory) (pa : Nat) : List Byte := (List.range 64).map fun i => m.get (pa / 64 * 64 + i)

/-- The byte at an address as an access with this key reads it (10 R162): scratchpad and host memory are not
encrypted. -/
def Memory.read (m : Memory) (key pa : Nat) : Byte :=
  if m.keyAt pa = key ∨ encryptedEnd ≤ pa then m.get pa else Config.wrongKey (m.keyAt pa) key pa (m.block pa)

/-- The list of bytes with one written; a byte equal to what an unlisted address reads as is not listed. -/
def setByte (bs : List Host.Cell) (pa : Nat) (b : Byte) : List Host.Cell :=
  if b = 0 then mdel bs pa else mset bs pa b

/-- A block written under another key (10 R162): each of its bytes is what it reads as under that key; log 11. -/
def Memory.rekey (m : Memory) (key blk : Nat) : Memory :=
  { m with
    bytes := (List.range 64).foldl (fun bs i => setByte bs (64 * blk + i) (m.read key (64 * blk + i))) m.bytes
    keys := if key = 0 then mdel m.keys blk else mset m.keys blk key }

/-- The blocks of a range that another key wrote, as they read under a key and written with it (10 R160, R162). -/
def Memory.rekeyRange (m : Memory) (key pa n : Nat) : Memory :=
  (List.range (n / 64)).foldl (fun m i => if m.keyAt (pa + 64 * i) = key then m else m.rekey key (pa / 64 + i)) m

/-- A byte stored. It clears its granule's tag (10 R145). -/
def Memory.put (m : Memory) (pa : Nat) (b : Byte) : Memory :=
  { m with bytes := setByte m.bytes pa b, tags := mdel m.tags (pa / 16) }

/-- A byte written with a key, the unit of encryption being its block (10 R162). -/
def Memory.write (m : Memory) (key pa : Nat) (b : Byte) : Memory :=
  if m.keyAt pa = key ∨ encryptedEnd ≤ pa then m.put pa b else (m.rekey key (pa / 64)).put pa b

/-- Bytes read from an address upward. -/
def Memory.reads (m : Memory) (key pa n : Nat) : List Byte := (List.range n).map fun i => m.read key (pa + i)

/-- Bytes written from an address upward. -/
def Memory.writes (m : Memory) (key pa : Nat) : List Byte → Memory
  | [] => m
  | b :: bs => (m.write key pa b).writes key (pa + 1) bs

/-- The tag of the granule that holds an address (10 R145). -/
def Memory.tag (m : Memory) (pa : Nat) : Bool := (mget m.tags (pa / 16)).isSome

/-- The tag of a granule set or cleared. -/
def Memory.setTag (m : Memory) (pa : Nat) (t : Bool) : Memory :=
  { m with tags := if t then mset m.tags (pa / 16) () else mdel m.tags (pa / 16) }

/-- Memory without what lies at some addresses: it is as if nothing had written them. -/
def Memory.without (m : Memory) (gone : Nat → Bool) : Memory :=
  { bytes := m.bytes.filter fun p => !gone p.1
    tags := m.tags.filter fun p => !gone (16 * p.1)
    keys := m.keys.filter fun p => !gone (64 * p.1) }

/-- The canonical form: addresses strictly rise, and no entry equals what an unlisted address reads as. -/
abbrev Memory.wf (m : Memory) : Prop :=
  Rising m.bytes ∧ (∀ c ∈ m.bytes, c.2 ≠ 0) ∧ Rising m.tags ∧ Rising m.keys ∧ (∀ c ∈ m.keys, c.2 ≠ 0)

/-- Where an address lies now: a page under migration whose leaf has switched is reached in its new frame (10 R160). -/
def State.canon (s : State) (pa : Nat) : Nat :=
  match s.moves.find? (fun g => g.switched && decide (g.old ≤ pa) && decide (pa < g.old + g.size)) with
  | some g => g.new + (pa - g.old)
  | none => pa

/-- The bytes of the pieces of an access, in order. -/
def State.readSegs (s : State) : List Seg → List Byte
  | [] => []
  | g :: gs => s.mem.reads g.key (s.canon g.pa) g.len ++ s.readSegs gs

/-- Memory with bytes written to the pieces of an access, in order. -/
def writeSegsTo (s : State) (m : Memory) : List Seg → List Byte → Memory
  | [], _ => m
  | g :: gs, bs => writeSegsTo s (m.writes g.key (s.canon g.pa) (bs.take g.len)) gs (bs.drop g.len)

/-- The bytes written to the pieces of an access, in order. -/
def State.writeSegs (s : State) (segs : List Seg) (bs : List Byte) : State :=
  { s with mem := writeSegsTo s s.mem segs bs }

/-- The value of the bytes of an access, least significant first. -/
def State.readNat (s : State) (segs : List Seg) : Nat := natOfBytes (s.readSegs segs)

/-- The key that a key slot holds (10 R162): its number with the fill it had, so that no two fills give one key. -/
def State.keyOf (s : State) (slot : Nat) : Nat := slot + 4096 * (mget s.module.keyAlt slot).getD s.module.keyBase

/-- 8 bytes of an HBM table read with a key slot (10 R148). -/
def State.read8 (s : State) (slot pa : Nat) : Nat := natOfBytes (s.mem.reads (s.keyOf slot) pa 8)

end Sys2Proof.Machine
end

