-- ==== Sys2Proof/Machine/Xlate.lean ====
section
/-! DEFINITION. Capabilities as fields, object table entries, page-table walks and translation (10 R142-R152). -/

namespace Sys2Proof

/-- The scratchpad of a core, in bytes (02 R15). -/
def scratchSize : Nat := 0x300000

/-- The fields of a capability (10 R142). -/
def Cap.obj (c : Cap) : Nat := bits c.raw.toNat 127 96
def Cap.off (c : Cap) : Nat := bits c.raw.toNat 95 48
def Cap.lmant (c : Cap) : Nat := bits c.raw.toNat 47 30
def Cap.lexp (c : Cap) : Nat := bits c.raw.toNat 29 24
def Cap.len (c : Cap) : Nat := c.lmant * 2 ^ c.lexp
def Cap.kind (c : Cap) : Nat := bits c.raw.toNat 15 12
def Cap.x (c : Cap) : Bool := c.raw.getLsbD 23
def Cap.gs (c : Cap) : Bool := c.raw.getLsbD 22
def Cap.dv (c : Cap) : Bool := c.raw.getLsbD 21
def Cap.cs (c : Cap) : Bool := c.raw.getLsbD 20
def Cap.cl (c : Cap) : Bool := c.raw.getLsbD 19
def Cap.at_ (c : Cap) : Bool := c.raw.getLsbD 18
def Cap.wr (c : Cap) : Bool := c.raw.getLsbD 17
def Cap.rd (c : Cap) : Bool := c.raw.getLsbD 16

/-- What holds of every tagged capability (10 R143). -/
def Cap.ok (c : Cap) : Bool :=
  decide (c.lexp ≤ 30) && decide (c.kind ≤ 5) && bits c.raw.toNat 11 0 == 0 &&
    (c.kind != 1 || (c.obj == 0 && decide (c.len ≤ scratchSize)))

/-- The capability with another offset, modulo 2^48 (13 R186). -/
def Cap.setOff (c : Cap) (o : BitVec 48) : Cap :=
  { c with raw := c.raw.extractLsb' 96 32 ++ o ++ c.raw.extractLsb' 0 48 }

/-- The capability with another length field (13 R186). -/
def Cap.setLen (c : Cap) (m : BitVec 18) (k : BitVec 6) : Cap :=
  { c with raw := c.raw.extractLsb' 48 80 ++ m ++ k ++ c.raw.extractLsb' 0 24 }

namespace Machine

/-- The outcome of translating one piece of an access. -/
inductive XRes where
  | ok (g : Seg)
  /-- The TLB misses, or the home device has not answered. -/
  | miss
  /-- A resolvable fault: a page that is not present. -/
  | absent
  /-- An unresolvable fault, with the cause a fault message names (28 R327). -/
  | bad (cause : Nat)
  deriving DecidableEq, Repr

/-- An interface's state. -/
def State.iface (s : State) (i : Nat) : Iface := (mget s.ifaces i).getD Iface.zero

/-- An interface's state put back. -/
def State.setIface (s : State) (i : Nat) (f : Iface) : State := { s with ifaces := mset s.ifaces i f }

/-- The number of an object entry in the cache of the memory ports. -/
def objKey (iface oid : Nat) : Nat := iface * 2 ^ 32 + oid

/-- The object table entry an access uses: the cached one, else the one in memory; none beyond the table (10 R146). The
spec names no key for the table: its bytes are read as they were written, whatever the key (log 50). -/
def State.objEntry (s : State) (iface oid : Nat) : Option (BitVec 256) :=
  match mget s.objects (objKey iface oid) with
  | some e => some e
  | none => match (s.iface iface).cfg with
    | some c => if oid < c.objCount then
        some (.ofNat 256 (natOfBytes ((List.range 32).map fun i => s.mem.get (c.objBase + 32 * oid + i)))) else none
    | none => none

/-- Fields of an object entry (10 R146). -/
def oeHome (e : BitVec 256) : Nat := bits e.toNat 255 246
def oeRif (e : BitVec 256) : Nat := bits e.toNat 245 239
def oeKey (e : BitVec 256) : Nat := bits e.toNat 238 227
def oeTkey (e : BitVec 256) : Nat := bits e.toNat 226 215
def oeOrd (e : BitVec 256) : Nat := bits e.toNat 214 213
def oeTier (e : BitVec 256) : Nat := bits e.toNat 212 211
def oeKind (e : BitVec 256) : Nat := bits e.toNat 210 207
def oeV (e : BitVec 256) : Bool := e.getLsbD 206
def oeLen (e : BitVec 256) : Nat := bits e.toNat 191 144
def oeHbase (e : BitVec 256) : Nat := bits e.toNat 127 64
def oeRoot (e : BitVec 256) : Nat := bits e.toNat 47 12 * 4096

/-- The entry lets a capability of this kind reach [off, off + len) (10 R147). -/
def oeAdmits (e : BitVec 256) (kind off len : Nat) : Bool :=
  oeV e && oeKind e == kind && decide (off + len ≤ oeLen e) && decide (oeTier e ≤ 1) && !(kind == 2 && oeOrd e == 3)

/-- The entry's key slots are among those its interface may name (28 R324); log 51. -/
def State.keysOk (s : State) (iface : Nat) (e : BitVec 256) : Bool :=
  match (s.iface iface).cfg with
  | some c => decide (c.keyLo ≤ oeKey e) && decide (oeKey e ≤ c.keyHi) && decide (c.keyLo ≤ oeTkey e) && decide (oeTkey e ≤ c.keyHi)
  | none => true

/-- Fields of a leaf (10 R149). -/
def lfP (l : BitVec 64) : Bool := l.getLsbD 63
def lfT (l : BitVec 64) : Bool := l.getLsbD 62
def lfOrd (l : BitVec 64) : BitVec 2 := l.extractLsb' 60 2
def lfD (l : BitVec 64) : Bool := l.getLsbD 59
def lfM (l : BitVec 64) : Bool := l.getLsbD 58
def lfS (l : BitVec 64) : Bool := l.getLsbD 57

/-- The page's size in bytes. -/
def lfSize (l : BitVec 64) : Nat := if lfS l then 2 ^ 21 else 2 ^ 16

/-- The frame's address within the tier (10 R149). -/
def lfFrame (l : BitVec 64) : Nat := bits l.toNat 51 16 * 65536

/-- The outcome of a page-table walk: the leaf and its address, or why there is none. -/
inductive Walk where
  | leaf (l : BitVec 64) (pa : Nat) (page : Nat)
  | absent
  | bad
  deriving DecidableEq, Repr

/-- The walk of 10 R148-R150 at offset f: two tables, then the span's first leaf, then the leaf. A leaf with S = 1 that does
not head its span is taken as not present where its P is 0, and as malformed where its P is 1 (log 70). -/
def State.walk (s : State) (e : BitVec 256) (f : Nat) : Walk :=
  let key := oeTkey e
  let root := oeRoot e
  if 2 ^ 39 ≤ root then .bad else
  let e1 := s.read8 key (root + 8 * bits f 47 39)
  if e1 % 2 = 0 then .absent else
  let t2 := bits e1 47 12 * 4096
  if 2 ^ 39 ≤ t2 then .bad else
  let e2 := s.read8 key (t2 + 8 * bits f 38 30)
  if e2 % 2 = 0 then .absent else
  if bits e2 16 12 ≠ 0 then .bad else
  let t3 := bits e2 47 12 * 4096
  if 2 ^ 39 ≤ t3 then .bad else
  let hp := t3 + 8 * (bits f 29 21 * 32)
  let h : BitVec 64 := .ofNat 64 (s.read8 key hp)
  if lfP h && lfS h then .leaf h hp (f / 2 ^ 21 * 32) else
  let lp := t3 + 8 * bits f 29 16
  let l : BitVec 64 := .ofNat 64 (s.read8 key lp)
  if !lfP l then .absent
  else if lfS l then .bad
  else .leaf l lp (f / 2 ^ 16)

/-- The CXL port behind a frame address: 4 KiB granules over the ports that were up at bring-up (28 R333). -/
def State.cxlPort (s : State) (frame : Nat) : Nat :=
  s.module.cxlPorts.getD (frame / 4096 % s.module.cxlPorts.length) 16

/-- A frame of the second tier with a granule behind a failed port, or with no port behind it (28 R333, R334). -/
def State.frameLost (s : State) (frame size : Nat) : Bool :=
  s.module.cxlPorts.isEmpty ||
  (!s.module.cxlDown.isEmpty && (List.range (size / 4096)).any fun i => s.module.cxlDown.contains (s.cxlPort (frame + 4096 * i)))

/-- The sixteenths of the page that [o, o + n) touches may be written (10 R149). -/
def lfWritable (l : BitVec 64) (o n : Nat) : Bool :=
  let q := lfSize l / 16
  (List.range 16).all fun i => decide (o + n ≤ q * i) || decide (q * (i + 1) ≤ o) || l.getLsbD i

/-- A leaf used for [f, f + n), which lies in its page (10 R149). A frame of the second tier is taken as storage wherever
FRAME puts it, beyond the tier's capacity too (log 67). -/
def State.useLeaf (s : State) (e : BitVec 256) (l : BitVec 64) (f n : Nat) (write : Bool) : XRes :=
  let o := f % lfSize l
  if lfOrd l = 3 ∨ bits l.toNat 56 52 ≠ 0 ∨ (lfS l ∧ bits l.toNat 20 16 ≠ 0) ∨ (lfT l ∧ oeTier e = 0) then .bad 4
  else if write && !lfWritable l o n then .bad 4
  else if lfT l then
    if s.frameLost (lfFrame l) (lfSize l) then .bad 11
    else .ok ⟨cxlBase + lfFrame l + o, n, lfOrd l, lfD l, s.keyOf (oeKey e), f⟩
  else if 2 ^ 39 ≤ lfFrame l + o then .bad 4
  else .ok ⟨lfFrame l + o, n, lfOrd l, lfD l, s.keyOf (oeKey e), f⟩

/-- The die whose last-level TLB serves a slot (10 R150); the hub's slots use CD0's, log 10. -/
def tlbDie (sid : Nat) : Nat := if sid / 16384 = 1 then 1 else 0

/-- The cached leaf for an offset (10 R150). -/
def State.tlbFind (s : State) (die iface oid f : Nat) : Option (BitVec 64) :=
  (s.tlb.find? fun t => t.die == die && t.iface == iface && t.oid == oid &&
    (if lfS t.leaf then t.page / 32 == f / 2 ^ 21 else t.page == f / 2 ^ 16)).map (·.leaf)

/-- The newest k entries of a die, and those of the other dies. -/
def keepNewest (die : Nat) : Nat → List TlbEntry → List TlbEntry
  | _, [] => []
  | 0, t :: ts => if t.die = die then keepNewest die 0 ts else t :: keepNewest die 0 ts
  | k + 1, t :: ts => if t.die = die then t :: keepNewest die k ts else t :: keepNewest die (k + 1) ts

/-- The TLB with a leaf entered; a die's holds 131,072 (10 R150), of which the newest stay. -/
def State.tlbFill (s : State) (t : TlbEntry) : State := { s with tlb := keepNewest t.die 131072 (t :: s.tlb) }

/-- The leaf of the page at f, of the TLB or else of a walk. -/
def State.leafAt (s : State) (die iface oid : Nat) (e : BitVec 256) (f : Nat) : Option (BitVec 64) :=
  match s.tlbFind die iface oid f with
  | some l => some l
  | none => match s.walk e f with
    | .leaf l _ _ => some l
    | _ => none

/-- The translation of [f, f + n), within one 64 KiB span, of a paged object as a stream: without a stall (10 R152). -/
def State.pagedStream (s : State) (die iface oid : Nat) (e : BitVec 256) (f n : Nat) (write : Bool) : XRes :=
  match s.tlbFind die iface oid f with
  | some l => s.useLeaf e l f n write
  | none => match s.walk e f with
    | .leaf l _ _ => s.useLeaf e l f n write
    | .absent => .absent
    | .bad => .bad 4

/-- Some Ndoed port is up: one with fewer than 2 lanes is down, and its traffic goes by the others (28 R330). -/
def State.linked (s : State) : Bool := s.module.lanes.toList.any fun k => decide (2 ≤ k)

/-- An object of another device, or of this one under another interface (10 R147, 28 R331); log 14. The home entry is taken
to have kind 0, 4 or 5 (log 52). -/
def State.remote (s : State) (e : BitVec 256) (oid f n : Nat) (write : Bool) : XRes :=
  if s.module.dom && oeHome e == s.module.dev then
    match s.objEntry (oeRif e) oid with
    | some h =>
      if oeAdmits h (oeKind h) f n && s.keysOk (oeRif e) h && (oeKind h == 0 || oeKind h == 4 || oeKind h == 5) then
        s.pagedStream 0 (oeRif e) oid h f n write
      else .bad 4
    | none => .bad 4
  else if !s.linked then .bad 10
  else if Config.homeAccepts (oeHome e) (oeRif e) oid f write s.time then
    .ok ⟨remoteBase + ((oeHome e * 128 + oeRif e) * 2 ^ 32 + oid) * 2 ^ 48 + f, n,
      (if Config.homeOrd (oeHome e) (oeRif e) oid (f / 65536) = 3 then 2 else Config.homeOrd (oeHome e) (oeRif e) oid (f / 65536)), false, 0, f⟩
  else .bad 4

/-- The interface whose page tables hold an object's pages (10 R147): of a kind-3 object of this device, its home's. -/
def State.tableOf (s : State) (iface oid : Nat) : Nat :=
  match s.objEntry iface oid with
  | some e => if oeKind e = 3 && s.module.dom && oeHome e == s.module.dev then oeRif e else iface
  | none => iface

/-- The storage at an address of the second tier, in a frame of this size, is lost (28 R334). -/
def State.storageLost (s : State) (pa size : Nat) : Bool := decide (cxlBase ≤ pa) && decide (pa < hostBase) && s.frameLost (pa - cxlBase) size

/-- A piece of an access lies in a frame that is lost: what was translated before the port failed fails too (28 R334). A
64 KiB block has granules behind every port. -/
def State.segLost (s : State) (g : Seg) : Bool := s.storageLost (s.canon g.pa / 65536 * 65536) 65536

/-- The offset of the first piece of an access that lies in a lost frame. -/
def State.lost (s : State) (segs : List Seg) : Option Nat := (segs.find? s.segLost).map (·.off)

/-- The offset of a command's barrier object, if its frame is lost. -/
def State.barLost (s : State) (b : Bar) : Option Nat := s.lost b.toList

/-- Bytes of the core's own scratchpad; there are none past its size (02 R15, R16). -/
def ownPad (sid f n : Nat) : XRes :=
  if f + n ≤ scratchSize then .ok ⟨scratchPa (sid / 128) f, n, 1, false, 0, f⟩ else .bad 4

/-- The translation of [f, f + n), within one 64 KiB span, as a stream element (10 R147, R152). -/
def State.xStream (s : State) (sid iface kind oid f n : Nat) (write : Bool) : XRes :=
  if kind = 1 then ownPad sid f n else
  match s.objEntry iface oid with
  | none => .bad 4
  | some e =>
    if !oeAdmits e kind f n then .bad 4
    else if kind = 2 then .ok ⟨hostBase + (oeHbase e + f) % 2 ^ 64, n, .ofNat 2 (oeOrd e), false, 0, f⟩
    else if kind = 3 then s.remote e oid f n write
    else if !s.keysOk iface e then .bad 4
    else s.pagedStream (tlbDie sid) iface oid e f n write

/-- The translation of [f, f + n), within one 64 KiB span, as an access of a thread (10 R151). -/
def State.xThread (s : State) (sid iface kind oid f n : Nat) (write : Bool) (grant : Option (Nat × Nat)) : XRes :=
  if kind = 1 then ownPad sid f n else
  match s.objEntry iface oid with
  | none => .bad 4
  | some e =>
    if !oeAdmits e kind f n then .bad 4
    else if kind = 2 then .ok ⟨hostBase + (oeHbase e + f) % 2 ^ 64, n, .ofNat 2 (oeOrd e), false, 0, f⟩
    else if kind = 3 then if grant.any (fun g => g.1 == oid && decide (g.2 ≤ f)) then s.remote e oid f n write else .miss
    else if !s.keysOk iface e then .bad 4
    else match s.tlbFind (tlbDie sid) iface oid f with
      | some l => s.useLeaf e l f n write
      | none => .miss

/-- The bytes [f, f + n) lie on a UN page (12 R165), as far as the page is known: for a thread by the TLB, for a stream by a
walk too. A page restriction ranks above a translation that fails for another reason (13 R182). -/
def State.onUn (s : State) (sid iface kind oid f n : Nat) (walks : Bool) : Bool :=
  if kind = 1 then false else
  match s.objEntry iface oid with
  | none => false
  | some e =>
    if !oeAdmits e kind f n then false
    else if kind = 2 then oeOrd e == 2
    else if kind = 3 then
      (s.module.dom && oeHome e == s.module.dev) &&
      (match s.objEntry (oeRif e) oid with
        | some h => oeAdmits h (oeKind h) f n && s.keysOk (oeRif e) h && (s.leafAt 0 (oeRif e) oid h f).any (fun l => lfOrd l == 2)
        | none => false)
    else s.keysOk iface e &&
      (if walks then s.leafAt (tlbDie sid) iface oid e f else s.tlbFind (tlbDie sid) iface oid f).any (fun l => lfOrd l == 2)

/-- [f, f + n) cut at the 64 KiB boundaries, with fuel for the number of pieces. -/
def cutPages : Nat → Nat → Nat → List (Nat × Nat)
  | 0, _, _ => []
  | fuel + 1, f, n =>
    if n = 0 then []
    else if n ≤ 65536 - f % 65536 then [(f, n)]
    else (f, 65536 - f % 65536) :: cutPages fuel (f + (65536 - f % 65536)) (n - (65536 - f % 65536))

/-- The pieces of [f, f + n). -/
def pages (f n : Nat) : List (Nat × Nat) := cutPages (n / 65536 + 2) f n

/-- The pieces of a stream access, or the first piece that fails with its offset. -/
def State.streamSegs (s : State) (sid iface : Nat) (c : Cap) (write : Bool) :
    List (Nat × Nat) → Except (Nat × XRes) (List Seg)
  | [] => .ok []
  | (f, n) :: ps => match s.xStream sid iface c.kind c.obj f n write with
    | .ok g => match s.streamSegs sid iface c write ps with
      | .ok gs => .ok (g :: gs)
      | .error e => .error e
    | r => .error (f, r)

/-- The pieces of [f, f + n) of a stream access. -/
def State.stream (s : State) (sid iface : Nat) (c : Cap) (f n : Nat) (write : Bool) : Except (Nat × XRes) (List Seg) :=
  s.streamSegs sid iface c write (pages f n)

end Machine
end Sys2Proof
end

