-- ==== Sys2Proof/Machine/Ops.lean ====
section
/-! DEFINITION. Named operations over slots, registers, barrier objects, groups and queues; taking a trap and
returning from one; restart. -/

namespace Sys2Proof.Machine

/-! ### Slots and cores -/

/-- A slot by SLOTID [15:0]. -/
def State.slot (s : State) (sid : Nat) : Slot :=
  if sid = s.me.id then s.me else (mget s.slots sid).getD (Slot.idle sid)

/-- A slot put back. -/
def State.setSlot (s : State) (sl : Slot) : State :=
  if sl.id = s.me.id then { s with me := sl } else { s with slots := mset s.slots sl.id sl }

/-- One slot changed. -/
def State.onSlot (s : State) (sid : Nat) (f : Slot → Slot) : State := s.setSlot (f (s.slot sid))

/-- A core by die × 128 + number. -/
def State.coreAt (s : State) (cid : Nat) : Core :=
  if cid = s.core.id then s.core else (mget s.cores cid).getD (Core.idle cid)

/-- A core put back. -/
def State.setCore (s : State) (c : Core) : State :=
  if c.id = s.core.id then { s with core := c } else { s with cores := mset s.cores c.id c }

/-- The cycles of a core's own clock in t cycles of TIME: 1.4 GHz for TIME and the compute cores, 3.0 GHz for the general
cores (02 R24, R26). -/
def ticks (cid t : Nat) : Nat := if cid / 128 = 2 then (15 * t + 6) / 7 else t

/-- The count of a core's own clock, which goes on while other cores have their turns and while the core is held; log 49. -/
def State.clockOf (s : State) (cid : Nat) : Nat := max (s.coreAt cid).clock (ticks cid s.time)

/-- A cycle of the core in focus passes on its own clock, and with it TIME, in its own cycles (02 R24, R26); log 49. -/
def State.tick (s : State) : State :=
  let k := s.clockOf s.core.id + 1
  { s with time := if s.core.id / 128 = 2 then max s.time (7 * k / 15) else s.time + 1, core := { s.core with clock := k } }

/-- The number of slots of a core (02 R19). -/
def slotsOf (cid : Nat) : Nat := if cid / 128 = 2 then 4 else 8

/-- The slots of a core, in order. -/
def coreSids (cid : Nat) : List Nat := (List.range (slotsOf cid)).map (cid * 128 + ·)

/-- The cores of a die (02 R13). -/
def dieCores (die : Nat) : List Nat := (List.range (if die = 2 then 32 else 96)).map (die * 128 + ·)

/-- Every slot that is not as after reset, the current one first. -/
def State.allSlots (s : State) : List Slot := s.me :: s.slots.map (·.2)

/-- Every slot changed. -/
def State.mapSlots (s : State) (f : Slot → Slot) : State :=
  { s with me := f s.me, slots := s.slots.map fun p => (p.1, f p.2) }

/-- The focus moved to a slot: it becomes the current one and its core the core in focus. -/
def State.turnTo (s : State) (sid : Nat) : State :=
  let s1 := if sid / 128 = s.core.id then s else
    { s with core := s.coreAt (sid / 128), cores := mdel (mset s.cores s.core.id s.core) (sid / 128) }
  if sid = s1.me.id then s1 else
    { s1 with me := s1.slot sid, slots := mdel (mset s1.slots s1.me.id s1.me) sid }

/-- The current slot belongs to a general core (02 R17). -/
def State.general (s : State) : Bool := s.me.id / 16384 == 2

/-- The mode of a slot (26 R305): a handler's level is super mode. -/
def Slot.mode (sl : Slot) : Mode := if sl.lvl ≠ 0 then .super else if sl.steward.isSome then .steward else .task

/-- The current slot is in task mode. -/
def State.task (s : State) : Bool := s.me.mode == .task

/-- A launch of the table. -/
def State.launch? (s : State) (lid : Nat) : Option Launch := mget s.launches lid

/-- The configuration of the interface of a slot. -/
def State.cfg (s : State) (i : Nat) : Option IfaceCfg := (s.iface i).cfg

/-- The interface's watchdog interval in microseconds, 2 ms by default (26 R312, 28 R324). -/
def State.dogUs (s : State) (i : Nat) : Nat := match s.cfg i with | some c => c.watchdogUs | none => 2000

/-- The entries of the interface's join table, 65,536 by default (03 R48, 28 R324). -/
def State.joinCap (s : State) (i : Nat) : Nat := match s.cfg i with | some c => c.joinCap | none => 65536

/-- The interface's priority ceiling (03 R31); the highest priority where none is configured (log 64). -/
def State.ceiling (s : State) (i : Nat) : Nat := match s.cfg i with | some c => c.ceiling | none => 15

/-- The code capability the current slot fetches through (08 R120, 26 R308). -/
def State.codeCap (s : State) : Cap :=
  if s.me.lvl = 0 then (match s.me.steward with
    | some c => c
    | none => match s.launch? s.me.ctx.r.lid with | some l => l.r.code | none => Cap.null)
  else match s.cfg s.me.iface with | some c => c.superCode | none => Cap.null

/-! ### Registers -/

/-- A source register (07 R86). -/
def Ctx.readX (c : Ctx) (r : BitVec 6) : XWord :=
  if r.toNat < 56 then vget c.x r.toNat 0
  else if r.toNat < 60 then vget c.l (r.toNat - 56) 0
  else if r.toNat = 61 then c.r.index.zeroExtend 64
  else if r.toNat = 62 then c.r.foff.zeroExtend 64
  else 0

/-- A register written; xz, and every specifier that is no destination, discards (07 R86). -/
def Ctx.writeX (c : Ctx) (r : BitVec 6) (v : XWord) : Ctx :=
  if r.toNat < 56 then { c with x := vset c.x r.toNat v } else c

/-- A result pushed into l0 (03 R56). -/
def Ctx.push (c : Ctx) (v : XWord) : Ctx :=
  { c with l := vset (vset (vset (vset c.l 3 (vget c.l 2 0)) 2 (vget c.l 1 0)) 1 (vget c.l 0 0)) 0 v }

/-- A register write applied. -/
def Ctx.write (c : Ctx) : RegWrite → Ctx
  | .x r a => c.writeX r a
  | .c r a => { c with c := vset c.c r.toNat a }
  | .v r a => { c with v := vset c.v r.toNat a }
  | .lane r i a =>
    let old := (vget c.v r.toNat 0).toNat
    { c with v := vset c.v r.toNat (.ofNat 2048 (old - bits old (64 * i + 63) (64 * i) * 2 ^ (64 * i) + a.toNat * 2 ^ (64 * i))) }
  | .m r a => { c with m := vset c.m r.toNat a }
  | .tc i a => { c with tc := vset c.tc i a }

/-- The value that a register write pushes. -/
def RegWrite.pushed : RegWrite → XWord
  | .x _ a => a
  | _ => 0

/-- A fixed-latency result made visible, and pushed where it is one that pushes (03 R56). -/
def Ctx.apply (c : Ctx) (p : Pend) : Ctx := if p.push then (c.write p.wr).push p.wr.pushed else c.write p.wr

/-- Results in the order they become visible: by cycle, then in issue order (03 R56). -/
def sortPend : List Pend → List Pend
  | [] => []
  | p :: ps => ins p (sortPend ps)
where
  ins (p : Pend) : List Pend → List Pend
    | [] => [p]
    | q :: qs => if q.at_ < p.at_ then q :: ins p qs else p :: q :: qs

/-- The results visible at an issue cycle applied (03 R56). -/
def Slot.deliver (sl : Slot) (now : Nat) : Slot :=
  { sl with
    ctx := (sortPend (sl.pend.filter fun p => decide (p.at_ ≤ now))).foldl Ctx.apply sl.ctx
    pend := sl.pend.filter fun p => !decide (p.at_ ≤ now) }

/-- Every result issued made visible and pushed (03 R57). -/
def Slot.deliverAll (sl : Slot) : Slot := { sl with ctx := (sortPend sl.pend).foldl Ctx.apply sl.ctx, pend := [] }

/-- A scalar source of the current slot. -/
def State.rx (s : State) (r : BitVec 6) : XWord := s.me.ctx.readX r
/-- A 5-bit scalar source: 31 names xz (07 R87). -/
def State.rx5 (s : State) (r : BitVec 5) : XWord := if r.toNat = 31 then 0 else vget s.me.ctx.x r.toNat 0
/-- A capability register of the current slot. -/
def State.rc (s : State) (r : BitVec 4) : Cap := vget s.me.ctx.c r.toNat Cap.null
/-- A vector, mask, soft and nest register, and a TC register. -/
def State.rv (s : State) (r : BitVec 5) : VWord := vget s.me.ctx.v r.toNat 0
def State.rm (s : State) (r : BitVec 3) : MWord := vget s.me.ctx.m r.toNat 0
def State.rs (s : State) (r : BitVec 3) : Soft := vget s.me.ctx.s r.toNat ⟨0, 0⟩
def State.rn (s : State) (r : BitVec 2) : Nest := vget s.me.ctx.n r.toNat Nest.clear
def State.rtc (s : State) (i : Nat) : BitVec 28 := vget s.me.ctx.tc i 0

/-! ### Outcomes of a meaning -/

/-- Why an instruction does not issue now. -/
inductive Stop where
  /-- A precise trap (26 R306). -/
  | trap (cause sub : Nat) (val : XWord)
  /-- A stall (03 R54): the word is tried again once the reason is gone. -/
  | park (b : Block)
  deriving DecidableEq, Repr

/-- A meaning: the next state, or why the word does not issue. -/
abbrev Res := Except Stop State

/-- The word traps as illegal instruction (07 R107). -/
def State.illegal (s : State) : Stop := .trap 1 0 (s.ir.zeroExtend 64)
/-- The word lacks its privilege (26 R306). -/
def State.privilege (s : State) : Stop := .trap 2 0 (s.ir.zeroExtend 64)
/-- A tile format fault (26 R306). -/
def State.tileFault (s : State) : Stop := .trap 5 0 (s.ir.zeroExtend 64)

/-- Sub-causes of a capability trap (26 R306). -/
def subTag : Nat := 1
def subRights : Nat := 2
def subBounds : Nat := 3
def subAlign : Nat := 4

/-- An offset, computed exactly, as a TVAL. -/
def tval (e : Int) : XWord := BitVec.ofInt 64 e

/-- A capability trap (26 R306). -/
def capTrap (sub : Nat) (e : Int) : Stop := .trap 3 sub (tval e)

/-- Goes on only where a condition holds. -/
def require (p : Bool) (e : Stop) : Except Stop Unit := if p then .ok () else .error e

/-! ### Issue -/

/-- The word issues (07 R83): G opens a gap, Y is remembered with its slot, the pc passes to another word. -/
def State.issuedTo (s : State) (pc : BitVec 48) : State :=
  { s with
    me := { s.me with ctx := { s.me.ctx with pc := pc }, gapUntil := s.core.cycle + bits s.ir.toNat 31 30, grant := none }
    core := { s.core with lastY := s.ir.getLsbD 29, lastBy := s.me.id } }

/-- The word issues and the pc passes to the next word (08 R120). -/
def State.issued (s : State) : State := s.issuedTo (s.me.ctx.pc + 4)

/-- The word issues with a fixed-latency result (03 R56). -/
def State.produce (s : State) (latency : Nat) (w : RegWrite) (push : Bool) : State :=
  let t := s.issued
  { t with me := { t.me with pend := t.me.pend ++ [⟨s.core.cycle + latency, w, push⟩] } }

/-- An integer or scalar float result that pushes (07 R88). -/
def State.produceX (s : State) (latency : Nat) (d : BitVec 6) (v : XWord) : State := s.produce latency (.x d v) true

/-- The class count of a slot at a level (26 R309). -/
def Slot.count (sl : Slot) (k : Cls) (lvl : Nat) : Nat :=
  (sl.ops.filter fun o => decide (o.cls = k) && o.lvl == lvl).length

/-- Each class count of the slot's level is at or below its bound (03 R59). -/
def Slot.within (sl : Slot) (l s c t g : Nat) : Bool :=
  decide (sl.count .L sl.lvl ≤ l) && decide (sl.count .S sl.lvl ≤ s) && decide (sl.count .C sl.lvl ≤ c) &&
    decide (sl.count .T sl.lvl ≤ t) && decide (sl.count .G sl.lvl ≤ g)

/-- Class maxima (03 R58). -/
def Cls.max : Cls → Nat
  | .L | .S => 31
  | .C | .T | .G => 15

/-- A slot whose class is at its maximum stalls (03 R58). -/
def State.room (s : State) (k : Cls) : Except Stop Unit :=
  require (decide (s.me.count k s.me.lvl < k.max)) (.park (.room k))

/-- The word issues as a long operation (03 R58). -/
def State.issueOp (s : State) (k : Cls) (t : Task) (sp : List (Nat × Nat × Bool)) : State :=
  let u := s.issued
  { u with
    nextOp := s.nextOp + 1
    me := { u.me with ops := u.me.ops ++ [⟨s.nextOp, k, s.me.lvl, s.ir, s.me.iface, s.me.ctx.r.lid, t, sp, false, [], false⟩] } }

/-- The word issues and parks its slot (03 R54). -/
def State.issuedPark (s : State) (b : Block) : State :=
  let t := s.issued
  { t with me := { t.me with block := some b } }

/-- The slot stalls. -/
def State.parkMe (s : State) (b : Block) : State := { s with me := { s.me with block := some b } }

/-! ### Operations outstanding -/

/-- An operation of a slot by its name. -/
def Slot.op? (sl : Slot) (id : Nat) : Option Op := sl.ops.find? (·.id == id)

/-- An operation is still outstanding anywhere. -/
def State.outstanding (s : State) (id : Nat) : Bool :=
  s.allSlots.any (fun sl => sl.ops.any (·.id == id)) || s.orphans.any (·.2.id == id)

/-- Every operation of the slots of a core, with those of continuations that have left. -/
def State.coreOps (s : State) (cid : Nat) : List Op :=
  ((coreSids cid).flatMap fun k => (s.slot k).ops) ++ (s.orphans.filter fun p => p.1 / 128 == cid).map (·.2)

/-- An operation of a slot, restarted or not, changed. -/
def State.onOp (s : State) (sid id : Nat) (f : Op → Op) : State :=
  if ((s.slot sid).op? id).isSome then s.onSlot sid fun sl => { sl with ops := replaceFirst (·.id == id) f sl.ops }
  else { s with orphans := s.orphans.map fun p => if p.1 == sid && p.2.id == id then (p.1, f p.2) else p }

/-- An operation leaves its class. -/
def State.dropOp (s : State) (sid id : Nat) : State :=
  let t := s.onSlot sid fun sl => { sl with ops := sl.ops.filter (·.id != id) }
  { t with
    orphans := t.orphans.filter fun p => !(p.1 == sid && p.2.id == id)
    spills := t.spills.filter fun p => !(p.slot == sid && p.op == id) }

/-- The operation a slot has outstanding under a name, and whether its continuation still runs in the slot. -/
def State.findOp (s : State) (sid id : Nat) : Option (Op × Bool) :=
  match (s.slot sid).op? id with
  | some o => some (o, true)
  | none => (s.orphans.find? fun p => p.1 == sid && p.2.id == id).map fun p => (p.2, false)

/-- The operation writes a register that a handler shares (26 R308). -/
def Task.writesReg : Task → Bool
  | .kvmap _ _ _ | .bgload _ _ | .bgstat _ _ | .sdig _ _ _ _ | .splfind _ _ _ _ | .rowmax _ _ | .rowsum _ _ | .movv _ _ _
  | .trest _ _ _ | .soft _ _ _ _ | .smix _ _ _ _ | .slog _ _ _ _ _ _ _ => true
  | .drain _ route _ _ _ => bits route.toNat 257 256 == 3
  | .bgrun _ regs => regs
  | _ => false

/-- A trap may be taken: L and G are drained, and no C or T operation is still to write a register (26 R308). For the
watchdog's trap every count is zero (26 R313). -/
def Slot.drained (sl : Slot) (wd : Bool) : Bool :=
  if wd then sl.ops.isEmpty
  else sl.ops.all fun o => match o.cls with
    | .L | .G => false
    | .C | .T => !o.task.writesReg
    | .S => true

/-! ### Barrier objects -/

/-- An object's value with n units arrived, and whether the phase flips (10 R158). A remainder past EXPECTED is held
modulo 2^40, ARRIVED's width (log 85). -/
def arrive (v n : Nat) : Nat × Bool :=
  let exp := bits v 39 0
  let a := bits v 79 40 + n
  let ph := bits v 80 80
  let er := bits v 81 81
  let mk (arr ph er : Nat) := exp + arr % 2 ^ 40 * 2 ^ 40 + ph * 2 ^ 80 + er * 2 ^ 81
  if a < exp then (mk a ph er, false)
  else if a = exp then (mk 0 (1 - ph) er, true)
  else (mk (a - exp) (1 - ph) 1, true)

/-- The loader's step that has registered on the object is done (31 R352). -/
def Iface.wake (f : Iface) (hit : Nat → Bool) : Iface :=
  match f.loader with
  | some l => if l.wait.any hit then { f with loader := some { l with pos := l.pos + 1, wait := none } } else f
  | none => f

/-- Every slot parked on the object wakes, and every loader that has registered on it (10 R158). -/
def State.wakeBarrier (s : State) (pa : Nat) : State :=
  let t := s.mapSlots fun sl => match sl.block with
    | some (.barrier p) => if s.canon p = s.canon pa then { sl with block := none } else sl
    | _ => sl
  { t with ifaces := t.ifaces.map fun p => (p.1, p.2.wake fun q => s.canon q == s.canon pa) }

/-- n units arrive at a barrier object (10 R158). -/
def State.arriveAt (s : State) (g : Seg) (n : Nat) : State :=
  let r := arrive (s.readNat [g]) n
  let t := s.writeSegs [g] (bytesOf 16 r.1)
  if r.2 then t.wakeBarrier g.pa else t

/-- Units counted into a command's barrier object, if it has one whose frame is not lost (28 R334). -/
def State.countInto (s : State) (b : Bar) (n : Nat) : State :=
  match b with
  | some g => if n = 0 ∨ s.segLost g then s else s.arriveAt g n
  | none => s

/-- The object's ERR bit set (10 R156, R158); reserved bits are written as zero (00 R8). -/
def State.setBarErr (s : State) (b : Bar) : State :=
  match b with
  | some g => if s.segLost g then s else s.writeSegs [g] (bytesOf 16 (bits (s.readNat [g]) 80 0 + 2 ^ 81))
  | none => s

/-! ### Groups -/

/-- A group object (03 R50). -/
structure Group where
  phase    : Nat
  members  : Nat
  arrived  : Nat
  joins    : Nat
  leaves   : Nat
  err      : Nat
  deriving DecidableEq, Repr

/-- The group object at an address. -/
def State.group (s : State) (g : Seg) : Group :=
  let v := s.readNat [g]
  ⟨bits v 31 0, bits v 63 32, bits v 95 64, bits v 127 96, bits v 159 128, bits v 160 160⟩

/-- The group object written; reserved bits are zero (00 R8). -/
def State.setGroup (s : State) (g : Seg) (o : Group) : State :=
  s.writeSegs [g] (bytesOf 64 (o.phase % 2 ^ 32 + o.members % 2 ^ 32 * 2 ^ 32 + o.arrived % 2 ^ 32 * 2 ^ 64 +
    o.joins % 2 ^ 32 * 2 ^ 96 + o.leaves % 2 ^ 32 * 2 ^ 128 + o.err % 2 * 2 ^ 160))

/-- The update leaves the phase to be closed (03 R51). -/
def Group.closes (o : Group) : Bool :=
  (o.arrived == o.members && decide (0 < o.members)) || (o.members == 0 && decide (0 < o.joins))

/-- The slot waits in GSYNC on the group at an address, for this many changes. -/
def Slot.syncLeft (sl : Slot) (pa : Nat) : Nat :=
  match sl.block with
  | some (.group p n) => if p = pa then n else 0
  | _ => 0

/-- A slot sees PHASE change: pending joiners become members, arrivals are over, parked callers wake or arrive. -/
def Slot.phaseChange (sl : Slot) (pa : Nat) : Slot :=
  { sl with
    groups := sl.groups.map fun m =>
      if m.seg.pa = pa then { m with pending := false, arrived := decide (1 < sl.syncLeft pa) } else m
    block := match sl.block with
      | some (.group p n) => if p = pa then (if n ≤ 1 then none else some (.group p (n - 1))) else sl.block
      | b => b }

/-- An update of a group: it is written, and phases close while they can (03 R51). A pending joiner parked in GSYNC
arrives in the phase that opens at once (08 R140). -/
def State.updateGroup (s : State) (g : Seg) : Nat → Group → State
  | 0, o => s.setGroup g o
  | fuel + 1, o =>
    if o.closes then
      let late := (s.allSlots.filter fun sl => decide (1 < sl.syncLeft g.pa)).length
      (s.mapSlots (·.phaseChange g.pa)).updateGroup g fuel
        { o with members := o.members + o.joins - o.leaves, joins := 0, leaves := 0, arrived := late, phase := (o.phase + 1) % 2 ^ 32 }
    else s.setGroup g o

/-- A slot joins a group from its next phase on; one join too many sets ERR and joins nothing (03 R51, 08 R140). -/
def State.joinGroup (s : State) (g : Seg) : State :=
  let o := s.group g
  if o.members + o.joins + 1 ≥ 2 ^ 32 then s.setGroup g { o with err := 1 } else s.updateGroup g 2 { o with joins := o.joins + 1 }

/-- A member arrives (03 R51). -/
def State.arriveGroup (s : State) (g : Seg) : State :=
  let o := s.group g
  s.updateGroup g 2 { o with arrived := o.arrived + 1 }

/-- A member leaves, which is its arrival too if it has not arrived (03 R51). -/
def State.quitGroup (s : State) (g : Seg) (arrived : Bool) : State :=
  let o := s.group g
  if arrived then s.updateGroup g 2 { o with leaves := o.leaves + 1 }
  else s.updateGroup g 2 { o with arrived := o.arrived + 1, leaves := o.leaves + 1 }

/-- A pending joiner withdraws (08 R134). -/
def State.withdrawGroup (s : State) (g : Seg) : State :=
  let o := s.group g
  s.updateGroup g 2 { o with joins := (o.joins + 2 ^ 32 - 1) % 2 ^ 32 }

/-- LEAVE of a membership (03 R51); a pending joiner of the same phase withdraws (08 R134). An object whose frame is lost
stays as it is (28 R334; log 65). -/
def State.leaveGroup (s : State) (m : Member) : State :=
  if s.segLost m.seg then s
  else if m.pending && (s.group m.seg).phase == m.phase.toNat then s.withdrawGroup m.seg
  else s.quitGroup m.seg m.arrived

/-- Step 3 of 08 R134 for every group of a slot. -/
def State.leaveGroups (s : State) (sid : Nat) : State :=
  let gs := (s.slot sid).groups
  gs.foldl State.leaveGroup (s.onSlot sid fun sl => { sl with groups := [] })

/-! ### Queues -/

/-- A die queue. -/
def State.queue (s : State) (die prio : Nat) : List Entry := (mget s.queues (die * 16 + prio)).getD []

/-- The ring that a die queue spills into beyond its 256 records on chip is full (03 R39, R40). -/
def State.ringFull (s : State) (die prio : Nat) : Bool := decide (256 + s.module.ring ≤ (s.queue die prio).length)

/-- An enqueue stalls its slot while the ring is full (03 R40). -/
def State.queueRoom (s : State) (die prio : Nat) : Except Stop Unit := require (!s.ringFull die prio) (.park (.ring die prio))

/-- An item put at the tail of a die queue (03 R39). -/
def State.enqueue (s : State) (die prio : Nat) (i : Item) (sj : List (Nat × Nat)) (rerun : Bool) : State :=
  { s with
    queues := mset s.queues (die * 16 + prio) (s.queue die prio ++ [⟨i, sj, rerun, s.stamp⟩])
    stamp := s.stamp + 1 }

/-- The priority of a restart state. -/
def Restart.prio : Restart → Nat
  | .fresh r => r.prio.toNat
  | .saved s => s.ctx.r.prio.toNat

/-- A restart state as a queue item. -/
def Restart.item : Restart → Item
  | .fresh r => .one r
  | .saved s => .saved s

/-! ### Fault messages -/

/-- MSI-X vector v of an interface raised (28 R323). -/
def State.raiseMsix (s : State) (i v : Nat) : State :=
  s.setIface i { s.iface i with msix := v :: (s.iface i).msix }

/-- A fault message of 28 R327. -/
structure FaultMsg where
  masks  : Nat := 0
  resume : Nat := 0
  offset : Nat := 0
  cmd    : Nat := 0
  lid    : Nat := 0
  slot   : Nat := 0
  unit   : Nat
  cause  : Nat
  tpc    : Nat := 0
  deriving DecidableEq, Repr

/-- The 64-byte record of a message. -/
def FaultMsg.record (m : FaultMsg) : Nat :=
  m.masks % 2 ^ 128 * 2 ^ 384 + m.resume % 2 ^ 64 * 2 ^ 320 + m.offset % 2 ^ 64 * 2 ^ 256 + m.cmd % 2 ^ 32 * 2 ^ 224 +
    m.lid % 2 ^ 20 * 2 ^ 204 + m.slot % 2 ^ 16 * 2 ^ 176 + m.unit % 2 ^ 8 * 2 ^ 168 + m.cause % 2 ^ 8 * 2 ^ 160 +
    m.tpc % 2 ^ 48 * 2 ^ 112

/-- The capability list has changed, where b holds: the change is still to be announced (28 R326). -/
def State.note (s : State) (b : Bool) : State :=
  if b then { s with module := { s.module with changes := s.module.changes + 1 } } else s

/-- A message that cannot be written: it is counted, in the capability list, and vector 1 is raised (28 R326, R327). -/
def State.discardFault (s : State) (i : Nat) : State :=
  ((s.setIface i { s.iface i with discarded := (s.iface i).discarded + 1 }).note true).raiseMsix i 1

/-- An object of an interface as a capability, without bounds or rights, for the device's own accesses. -/
def State.objCap (s : State) (i oid : Nat) : Cap :=
  match s.objEntry i oid with
  | some e => ⟨.ofNat 128 (oid * 2 ^ 96 + oeKind e * 2 ^ 12), oeV e⟩
  | none => Cap.null

/-- A fault message published to the interface's fault ring, which lies in device memory: an object of kind 0 or 4 (28 R327);
a message for a ring of another kind is discarded. -/
def State.postFault (s : State) (i : Nat) (m : FaultMsg) : State :=
  match s.cfg i with
  | none => s.discardFault i
  | some c => match c.faultRing with
    | none => s.discardFault i
    | some (oid, off) =>
      let cap := s.objCap i oid
      if !(cap.tag && (cap.kind == 0 || cap.kind == 4)) then s.discardFault i else
      match s.stream 0 i cap off 64 true with
      | .error _ => s.discardFault i
      | .ok cb =>
        let v := s.readNat cb
        let slots := bits v 159 128
        let pub := bits v 63 0
        if slots ≤ pub - bits v 127 64 then
          s.writeSegs cb (bytesOf 64 (v - bits v 191 160 * 2 ^ 160 + (bits v 191 160 + 1) % 2 ^ 32 * 2 ^ 160))
        else match s.stream 0 i cap (off + 64 + 64 * (pub % slots)) 64 true with
          | .error _ => s.discardFault i
          | .ok rs =>
            let t := s.writeSegs rs (bytesOf 64 m.record)
            (t.writeSegs cb (bytesOf 64 (v - pub + (pub + 1) % 2 ^ 64))).raiseMsix i 1

/-! ### Restart -/

/-- The memory accesses an operation still owes when its continuation is restarted (26 R314): register results and
tile work go with the slot. -/
def Task.survives : Task → Bool
  | .store _ _ _ | .storeCap _ _ | .amo _ _ _ _ _ _ | .cas _ _ _ _ _ _ _ | .red _ _ _ _ | .binit _ _ | .barr _ _
  | .scatter _ _ _ _ _ | .launchWait _ | .launch _ | .copy _ _ _ _ _ _ | .copyn _ _ _ _ _ | .move _ _ _ _ _ _
  | .cred _ _ _ _ _ _ _ _ | .bgrun _ _ | .bgfree _ | .attn _ _ | .amerge _ _ _ _ _ _ _ | .summ _ _ _ _ _ _ | .kvapp _ _ _ _ _ | .kvshoot _ _ _
  | .splins _ _ _ _ _ | .splref _ _ _ _ _ _ | .plycut _ _ | .otinv _ | .tlbinv _ _ => true
  | _ => false

/-- The slot without a continuation. The trap banks and TK0-TK3 are the slot's own (26 R306) and keep their contents. -/
def Slot.blank (sl : Slot) : Slot := { Slot.idle sl.id with tk := sl.tk, bank1 := sl.bank1, bank2 := sl.bank2 }

/-- The slot freed; outstanding accesses go on (26 R314). -/
def State.freeSlot (s : State) (sid : Nat) : State :=
  let sl := s.slot sid
  let t := s.setSlot sl.blank
  { t with orphans := t.orphans ++ (sl.ops.filter (·.task.survives)).map (sid, ·) }

/-- The restart state of a slot enqueued on its die's queue (26 R314). -/
def State.enqueueRestart (s : State) (sid : Nat) (sl : Slot) : State :=
  s.enqueue (sid / 16384) sl.restart.prio sl.restart.item sl.spawnj true

/-- The queue that the restart state of a slot goes to has no room (03 R40). -/
def State.restartFull (s : State) (sid : Nat) (sl : Slot) : Bool := s.ringFull (sid / 16384) sl.restart.prio

/-- A slot whose continuation is gone, and which keeps the restart state until its queue has room (26 R314, 03 R40). -/
def Slot.keepRestart (sl : Slot) : Slot :=
  { sl.blank with
    busy := true, iface := sl.iface, ctx := { Ctx.zero with r := sl.ctx.r }
    spawnj := sl.spawnj, restart := sl.restart, block := some .restart }

/-- A restart (26 R314): the groups are left, the slot is freed, the restart state is enqueued; where the ring is full, the slot
stalls with it (03 R40; log 26). Steward mode has none. -/
def State.restart (s : State) (sid : Nat) : State :=
  let sl := s.slot sid
  let t := (s.leaveGroups sid).freeSlot sid
  if sl.steward.isSome then t
  else if t.restartFull sid sl then t.setSlot sl.keepRestart
  else t.enqueueRestart sid sl

/-- The restart state that a slot keeps is enqueued once its ring has room, and the slot is freed (26 R314, 03 R40). -/
def State.requeue (s : State) (sid : Nat) : State :=
  let sl := s.slot sid
  if sl.block = some .restart ∧ s.restartFull sid sl = false then (s.setSlot sl.blank).enqueueRestart sid sl else s

/-- Steward firmware restarts a continuation and posts a message naming the cause and the level-1 TPC (26 R310). -/
def State.stewardRestart (s : State) (sid cause : Nat) : State :=
  let sl := s.slot sid
  (s.restart sid).postFault sl.iface
    { unit := 7, cause := cause, lid := sl.ctx.r.lid, slot := sid, tpc := sl.bank1.tpc.toNat }

/-! ### Taking a trap and returning from one -/

/-- The trap's entry (26 R308), once the slot has drained: results become visible and are pushed, the bank of the next
level takes TPC, cause, TVAL, l0-l3 and c15, c15 becomes the supervisor data capability, and the pc the handler's. -/
def State.enterTrap (s : State) (sid : Nat) (t : TrapReq) : State :=
  let sl := (s.slot sid).deliverAll
  let b : Bank := ⟨t.tpc, .ofNat 12 (t.sub * 256 + t.cause), t.val, sl.ctx.l, vget sl.ctx.c 15 Cap.null, t.wd⟩
  let f := s.iface sl.iface
  let data := match f.cfg with | some c => c.superData | none => Cap.null
  s.setSlot { sl with
    ctx := { sl.ctx with c := vset sl.ctx.c 15 data, pc := f.tbase.truncate 48 + .ofNat 48 (64 * t.cause) }
    bank1 := if sl.lvl = 0 then b else sl.bank1
    bank2 := if sl.lvl = 0 then sl.bank2 else b
    lvl := sl.lvl + 1
    block := none
    grant := none
    trapPend := none
    dogHand := if t.wd && sl.dogHand.isNone then some (s.time + s.dogUs sl.iface * 1400) else sl.dogHand }

/-- A trap is taken (26 R308): at level 2 it is a double trap (R310); otherwise issue stops, and the entry follows at
once where nothing has to drain. -/
def State.takeTrap (s : State) (sid : Nat) (t : TrapReq) : State :=
  let sl := s.slot sid
  if 2 ≤ sl.lvl then s.stewardRestart sid 16
  else if sl.drained t.wd then s.enterTrap sid t
  else s.setSlot { sl with trapPend := some t }

/-- The bank of the current level (26 R306). -/
def Slot.bank (sl : Slot) : Bank := if 2 ≤ sl.lvl then sl.bank2 else sl.bank1

/-- The launch whose ID a LAUNCH has, and whose entry it has not enqueued (08 R137). -/
def Task.launchId : Task → Option Nat
  | .launch lid => some lid
  | _ => none

/-- The operation is dropped when the watchdog expires (26 R313): a command of class C or T that has not begun writing a
destination, but for a run of a braid, which only stops accepting. -/
def Op.dropped (o : Op) : Bool :=
  (decide (o.cls = .C) || decide (o.cls = .T)) && !o.begun && (match o.task with | .bgrun _ _ => false | _ => true)

/-- The braid that a BGLOAD has loaded (17 R249): its handle. -/
def Task.loads : Task → Option Nat
  | .bgload _ v => some (bits v.toNat 5 0)
  | _ => none

/-- A stalled word that waits for a walk or a page waits no longer: its outcome is not asked for any more. -/
def Slot.unwalk (sl : Slot) : Slot :=
  { sl with block := match sl.block with
    | some (.walk _ _ _ _) | some (.page _ _ _ _) => none
    | b => b }

/-- The watchdog's expiry at level 0 (26 R313): issue stops, with what a stalled word waits for; commands that have not begun
writing are dropped, a LAUNCH with its ID and a BGLOAD with its braid; armed braid runs stop accepting and their braids stay
loaded, and the cause-10 trap waits for the counts. -/
def State.expire (s : State) (sid : Nat) : State :=
  let sl := s.slot sid
  let gone := sl.ops.filter Op.dropped
  let dead := gone.map (·.id)
  let lids := gone.filterMap (·.task.launchId)
  let loads := gone.filterMap (·.task.loads)
  let t := { s.onSlot sid Slot.unwalk with
    jobs := s.jobs.filter fun j => !(j.slot == sid && dead.contains j.op)
    pipes := s.pipes.filter fun p => !(p.job.slot == sid && dead.contains p.job.op)
    waiting := s.waiting.filter fun w => match w.from_ with | some (k, o) => !(k == sid && dead.contains o) | none => true
    launches := s.launches.filter fun p => !lids.contains p.1
    braids := (s.braids.filter fun (b : Braid) => !(b.die == sid / 16384 && loads.contains b.handle)).map fun (b : Braid) =>
      let c := if b.freeing.any (fun (f : Nat × Nat) => f.1 == sid && dead.contains f.2) then { b with freeing := none } else b
      match c.run with
      | some r => if r.slot == sid then { c with run := some { r with open_ := false } } else c
      | none => c }
  let u := dead.foldl (fun a o => a.dropOp sid o) t
  u.takeTrap sid ⟨10, 0, 0, sl.ctx.pc, true⟩

/-- The return from a trap level (26 R318): after a cause-10 trap it is a restart; otherwise the bank is restored, and
at level 0 reserved tiles and handler accumulators are released and a held expiry is applied. At level 0 of steward mode
it ends the firmware's run (log 63). -/
def State.eret (s : State) (sid : Nat) : State :=
  let sl := s.slot sid
  let b := sl.bank
  if b.wd then s.restart sid
  else if sl.lvl = 0 then (s.leaveGroups sid).freeSlot sid
  else
  let sl' := { sl with
    ctx := { sl.ctx with pc := b.tpc, l := b.l, c := vset sl.ctx.c 15 b.c15 }
    lvl := sl.lvl - 1
    block := none
    grant := none
    ht := if sl.lvl = 1 then false else sl.ht
    haccs := if sl.lvl = 1 then [] else sl.haccs
    dogHand := if sl.lvl = 1 && !sl.dogHeld then none else sl.dogHand
    dogHeld := if sl.lvl = 1 then false else sl.dogHeld }
  let t := s.setSlot sl'
  if sl.lvl = 1 ∧ sl.dogHeld then t.expire sid else t

/-- A page asked for (10 R151, R152). -/
def State.requestPage (s : State) (i oid off : Nat) : State :=
  let f := s.iface i
  if f.requests.contains (oid, off) then s else s.setIface i { f with requests := f.requests ++ [(oid, off)] }

/-- The outcome of a meaning: a precise trap is taken at its word, a stall keeps the word for another try. A word that is found
to stall only as it comes to issue has used its core's issue cycle: no other slot issues in it (03 R54, R55; log 8). -/
def finish (s : State) : Res → Host.Outcome State Fault Refusal
  | .ok t => .next t
  | .error (.trap c sub v) => .next (s.takeTrap s.me.id ⟨c, sub, v, s.me.ctx.pc, false⟩)
  | .error (.park (.page i oid off v)) => .next ((s.parkMe (.page i oid off v)).requestPage i oid off)
  | .error (.park b) => .next (s.parkMe b)

/-! ### Window and accumulators of a core -/

/-- The physical tiles 0-13 of a core that no window holds, lowest first (03 R44). -/
def State.freeTiles (s : State) (cid : Nat) : List Nat :=
  let held := (coreSids cid).flatMap fun k => (s.slot k).window
  (List.range 14).filter fun t => !held.contains t

/-- The accumulator is held by a continuation of the core other than at a handler's level. -/
def State.accHeld (s : State) (cid a : Nat) : Bool := (coreSids cid).any fun k => (s.slot k).accs.contains a

/-- The accumulator is held by a handler of the core. -/
def State.accHandler (s : State) (cid a : Nat) : Bool := (coreSids cid).any fun k => (s.slot k).haccs.contains a

/-- Another slot's handler holds the reserved tile pair (26 R311). -/
def State.pairTaken (s : State) : Bool :=
  (coreSids (s.me.id / 128)).any fun k => k != s.me.id && (s.slot k).ht

end Sys2Proof.Machine
end

