-- ==== Sys2Proof/Machine/Flags.lean ====
section
/-! DEFINITION. The status register TSTAT (26 R306), and the sticky flags that instructions set. The DX7100 has no
arithmetic flags (05 R61). -/

namespace Sys2Proof.Machine

/-- A bit as a number. -/
def bitNat (b : Bool) : Nat := if b then 1 else 0

/-- TSTAT as it reads (26 R306): LVL, PRE, HT, IDX, FMT; reserved bits read 0. -/
def Slot.tstat (sl : Slot) : XWord :=
  .ofNat 64 (sl.lvl % 4 * 256 + bitNat sl.pre * 128 + bitNat sl.ht * 64 + bitNat sl.ctx.idx * 2 + bitNat sl.ctx.fmt)

/-- A write to TSTAT: IDX and FMT are cleared where a 1 is written, and take the bit written in steward mode; every other
field is read-only (26 R306, R307). -/
def Slot.writeTstat (sl : Slot) (v : XWord) : Slot :=
  { sl with ctx := if sl.mode = .steward then { sl.ctx with idx := v.getLsbD 1, fmt := v.getLsbD 0 }
    else { sl.ctx with idx := sl.ctx.idx && !v.getLsbD 1, fmt := sl.ctx.fmt && !v.getLsbD 0 } }

/-- TSTAT.IDX set (15 R222, R223). -/
def Slot.setIdx (sl : Slot) (b : Bool) : Slot := { sl with ctx := { sl.ctx with idx := sl.ctx.idx || b } }

/-- TSTAT.FMT set (05 R69). -/
def Slot.setFmt (sl : Slot) (b : Bool) : Slot := { sl with ctx := { sl.ctx with fmt := sl.ctx.fmt || b } }

end Sys2Proof.Machine
end

