-- ==== Sys2Proof/Machine/Operands.lean ====
section
/-! DEFINITION. Operand forms of memory instructions: effective offsets, the checks of 10 R144 and 13 R182,
translation of a thread's access, barrier operands, and the range scoreboard. -/

namespace Sys2Proof.Machine

/-- The MB form's effective offset: the immediate is signed and scaled by the size (07 R85, 13 R182). -/
def mbOff (c : Cap) (size : Nat) (imm : BitVec 10) : Int := c.off + imm.toInt * size

/-- The MX form's effective offset: the index is signed and scaled by the size (13 R182). -/
def mxOff (c : Cap) (size : Nat) (x : XWord) : Int := c.off + x.toInt * size

/-- An unsigned immediate with its scale (13 R182). -/
def immOff (c : Cap) (scale imm : Nat) : Int := c.off + scale * imm

/-- The access size of a size field (07 R85). -/
def sizeOf (z : BitVec 2) : Nat := 2 ^ z.toNat

/-- What a capability must permit. -/
structure Rights where
  rd : Bool := false
  wr : Bool := false
  at_ : Bool := false
  cl : Bool := false
  deriving DecidableEq, Repr

/-- The capability carries the rights. -/
def Cap.has (c : Cap) (r : Rights) : Bool :=
  (!r.rd || c.rd) && (!r.wr || c.wr) && (!r.at_ || c.at_) && (!r.cl || c.cl)

/-- The kind check of 10 R144: kind 1 on a general core and kind 5 for a store fail. -/
def State.kindOk (s : State) (c : Cap) (store : Bool) : Bool :=
  !(c.kind == 1 && s.general) && !(c.kind == 5 && store) && decide (c.kind ≤ 5)

/-- Tag, kind and rights of 10 R144; TVAL is v. -/
def State.checkTag (s : State) (c : Cap) (r : Rights) (v : Int) : Except Stop Unit := do
  require c.tag (capTrap subTag v)
  require (s.kindOk c r.wr) (capTrap subRights v)
  require (Cap.has c r) (capTrap subRights v)

/-- [e, e + n) lies within the capability's length. -/
def inBounds (c : Cap) (e : Int) (n : Nat) : Bool := decide (0 ≤ e) && decide (e + n ≤ c.len)

/-- The checks of 10 R144 in their order; TVAL is the effective offset. -/
def State.checkCap (s : State) (c : Cap) (r : Rights) (e : Int) (n : Nat) : Except Stop Unit := do
  s.checkTag c r e
  require (inBounds c e n) (capTrap subBounds e)

/-- The first offset of [e, e + n) outside the bounds (13 R194). -/
def firstOutside (c : Cap) (e : Int) : Int := if e < 0 then e else if e ≤ c.len then c.len else e

/-- The checks of 10 R144 over a command's range; TVAL is the first offset outside the bounds (13 R194), and the
capability's own offset for a tag or rights failure. -/
def State.checkRange (s : State) (c : Cap) (r : Rights) (e : Int) (n : Nat) : Except Stop Unit := do
  s.checkTag c r e
  require (inBounds c e n) (capTrap subBounds (if n = 0 then e else firstOutside c e))

/-- Two half-open ranges meet. -/
def meets (a n b m : Nat) : Bool := decide (a < b + m) && decide (b < a + n) && decide (0 < n) && decide (0 < m)

/-- The commands of a core that hold entries of its range scoreboard (10 R161). -/
def State.boarded (s : State) (cid : Nat) : List Op := (s.coreOps cid).filter fun o => !o.sp.isEmpty

/-- The operations of a core whose scratchpad ranges an access of [off, off + n) must wait for (10 R161). -/
def State.boardHits (s : State) (cid off n : Nat) (write : Bool) : List Nat :=
  ((s.boarded cid).filter fun o => o.sp.any fun r => meets off n r.1 r.2.1 && (write || r.2.2)).map (·.id)

/-- A scratchpad access of the core's own slots stalls on the range scoreboard (10 R161). -/
def State.board (s : State) (c : Cap) (e n : Nat) (write : Bool) : Except Stop Unit :=
  if c.kind = 1 then
    let h := s.boardHits (s.me.id / 128) e n write
    require h.isEmpty (.park (.ops h))
  else .ok ()

/-- The pieces of a thread's access: split at page boundaries where the object is paged, here or at its home device
(12 R170, 28 R331). -/
def accessPieces (c : Cap) (e n : Nat) : List (Nat × Nat) :=
  if c.kind = 1 ∨ c.kind = 2 then [(e, n)] else pages e n

/-- The pieces of an access translated as a thread's are (10 R151); v is TVAL. -/
def State.threadSegs (s : State) (c : Cap) (write : Bool) (v : Int) : List (Nat × Nat) → Except Stop (List Seg)
  | [] => .ok []
  | (f, n) :: ps => match s.xThread s.me.id s.me.iface c.kind c.obj f n write s.me.grant with
    | .ok g => match s.threadSegs c write v ps with
      | .ok gs => .ok (g :: gs)
      | .error e => .error e
    | .bad _ => .error (.trap 4 0 (tval v))
    | _ => .error (.park (.walk s.me.iface c.obj f (tval v)))

/-- The translation of [e, e + n), whose effective offset is v (10 R151). -/
def State.translate (s : State) (c : Cap) (e n : Nat) (write : Bool) (v : Int) : Except Stop (List Seg) :=
  s.threadSegs c write v (accessPieces c e n)

/-- Some piece of [e, e + n) is known to lie on a UN page (12 R165). -/
def State.touchesUn (s : State) (c : Cap) (e n : Nat) : Bool :=
  (accessPieces c e n).any fun p => s.onUn s.me.id s.me.iface c.kind c.obj p.1 p.2 false

/-- An access of a thread: the checks of 10 R144, alignment, the forbidden kinds and UN pages, and translation, in the order
of 13 R182; then the range scoreboard. The kind of a page that is not known yet is known once it is translated. -/
def State.access (s : State) (c : Cap) (r : Rights) (e : Int) (n align : Nat) (badKinds : List Nat) (noUn : Bool) :
    Except Stop (List Seg) := do
  s.checkCap c r e n
  require (e % align == 0) (capTrap subAlign e)
  require (!badKinds.contains c.kind) (capTrap subRights e)
  require (!(noUn && s.touchesUn c e.toNat n)) (capTrap subRights e)
  let segs ← s.translate c e.toNat n r.wr e
  require (!(noUn && segs.any (·.ord == 2))) (capTrap subRights e)
  s.board c e.toNat n r.wr
  .ok segs

/-- A piece of a vector load or of a contribution (10 R151, R153): translated as a thread's is, but that it waits for no page:
where the page is not present, it has none yet. -/
def State.portSeg (s : State) (c : Cap) (f n : Nat) (write : Bool) (v : Int) : Except Stop (Option Seg) :=
  match s.xThread s.me.id s.me.iface c.kind c.obj f n write s.me.grant with
  | .ok g => .ok (some g)
  | .bad _ => .error (.trap 4 0 (tval v))
  | _ => match s.xStream s.me.id s.me.iface c.kind c.obj f n write with
    | .absent => .ok none
    | _ => .error (.park (.walk s.me.iface c.obj f (tval v)))

/-- The pieces of a vector load or of contributions, with their offsets; none for one whose page is not present. -/
def State.portSegs (s : State) (c : Cap) (write : Bool) (v : Int) : List (Nat × Nat) → Except Stop (List (Nat × Option Seg))
  | [] => .ok []
  | (f, n) :: ps => do
    let g ← s.portSeg c f n write v
    let gs ← s.portSegs c write v ps
    .ok ((f, g) :: gs)

/-- The access of VLD, RED and REDV: checked as a thread's access (13 R182), translated as streams that may be diverted
(10 R153; log 29). -/
def State.portAccess (s : State) (c : Cap) (r : Rights) (e : Int) (n align : Nat) (badKinds : List Nat) :
    Except Stop (List (Nat × Option Seg)) := do
  s.checkCap c r e n
  require (e % align == 0) (capTrap subAlign e)
  require (!badKinds.contains c.kind) (capTrap subRights e)
  let gs ← s.portSegs c r.wr e (accessPieces c e.toNat n)
  s.board c e.toNat n r.wr
  .ok gs

/-- The pieces of the n bytes at f of such an access; none where a page that it lies on is not present. -/
def portPart : List (Nat × Option Seg) → Nat → Nat → List Seg
  | [], _, _ => []
  | (_, none) :: gs, f, n => portPart gs f n
  | (a, some g) :: gs, f, n =>
    if f + n ≤ a ∨ a + g.len ≤ f then portPart gs f n
    else
      let lo := max a f
      let hi := min (a + g.len) (f + n)
      { g with pa := g.pa + (lo - a), len := hi - lo, off := lo } :: portPart gs f n

/-- A barrier object at e, checked as BARR's object is (13 R193, 10 R157). -/
def State.barObject (s : State) (c : Cap) (r : Rights) (e : Int) : Except Stop Seg := do
  let segs ← s.access c r e 16 16 [] true
  match segs with
  | [g] => .ok g
  | _ => .error (capTrap subAlign e)

/-- The barrier operand of the copy group (13 R194): bcap 0 means none. -/
def State.barOperand (s : State) (b : BitVec 4) (imm : Nat) : Except Stop Bar :=
  if b = 0 then .ok none
  else do
    let g ← s.barObject (s.rc b) ⟨true, true, true, false⟩ (immOff (s.rc b) 16 imm)
    .ok (some g)

/-- A command needs one free scoreboard entry for each scratchpad range (10 R161). -/
def State.boardRoom (s : State) (k : Nat) : Except Stop Unit :=
  let busy := (s.boarded (s.me.id / 128)).flatMap fun o => o.sp.map fun _ => o.id
  if k = 0 ∨ busy.length + k ≤ 32 then .ok () else .error (.park (.ops (busy.take 1)))

/-- The scratchpad range that a capability's range is, if it is one. -/
def spRange (c : Cap) (off n : Nat) (write : Bool) : List (Nat × Nat × Bool) :=
  if c.kind = 1 then [(off, n, write)] else []

/-- The accumulated tag of a granule as CLD reads it (13 R184): only through CL, and never from host memory. -/
def State.capTag (s : State) (c : Cap) (segs : List Seg) : Bool :=
  match segs with
  | [g] => s.mem.tag (s.canon g.pa) && c.cl && c.kind != 2
  | _ => false

/-- 16 bytes read as a capability. -/
def State.readCap (s : State) (c : Cap) (segs : List Seg) : Cap := ⟨.ofNat 128 (s.readNat segs), s.capTag c segs⟩

/-- Compute-only instructions raise illegal instruction on a general core (07 R108). -/
def State.computeOnly (s : State) : Except Stop Unit := require (!s.general) s.illegal

/-- Majors 0x40-0x44 raise illegal instruction in super mode (26 R305). -/
def State.taskOnly (s : State) : Except Stop Unit := require (s.me.mode != .super) s.illegal

end Sys2Proof.Machine
end

