-- ==== Sys2Proof/Machine/Alu.lean ====
section
/-! DEFINITION. Integer instructions (08 R109-R114) and scalar float instructions (08 R115-R119). -/

namespace Sys2Proof.Machine

/-- The outcome of an instruction. -/
abbrev Out := Host.Outcome State Fault Refusal

/-- A truth value as a register value (08 R109). -/
def boolX (b : Bool) : XWord := if b then 1 else 0

/-- The number of leading zero bits; 64 for 0 (08 R112). -/
def clz64 (a : XWord) : Nat := if a = 0 then 64 else 63 - Nat.log2 a.toNat

/-- Trailing zero bits from bit i upward, with fuel. -/
def ctzFrom (a : XWord) : Nat → Nat → Nat
  | 0, i => i
  | f + 1, i => if a.getLsbD i then i else ctzFrom a f (i + 1)

/-- The number of trailing zero bits; 64 for 0 (08 R112). -/
def ctz64 (a : XWord) : Nat := ctzFrom a 64 0

/-- The number of one bits (08 R112). -/
def popc64 (a : XWord) : Nat := ((List.range 64).filter fun i => a.getLsbD i).length

/-- Bits [p:0], the rest zero (08 R112). -/
def zextAt (a : XWord) (p : Nat) : XWord := .ofNat 64 (a.toNat % 2 ^ (p + 1))

/-- Bits [p:0] with bit p copied upward (08 R112). -/
def sextAt (a : XWord) (p : Nat) : XWord := BitVec.ofInt 64 (if a.getLsbD p then (a.toNat % 2 ^ (p + 1) : Int) - 2 ^ (p + 1) else a.toNat % 2 ^ (p + 1))

/-- The field position and width that BEXT and BINS read from xb (08 R112). -/
def fieldPos (b : XWord) : Nat := bits b.toNat 5 0
def fieldWidth (b : XWord) : Nat := bits b.toNat 13 8 + 1

/-- BEXT (08 R112). -/
def bextVal (a b : XWord) : XWord := .ofNat 64 (a.toNat / 2 ^ fieldPos b % 2 ^ fieldWidth b)

/-- BINS (08 R112): bits above 63 are discarded. -/
def binsVal (d a b : XWord) : XWord :=
  let p := fieldPos b
  let w := fieldWidth b
  .ofNat 64 (d.toNat % 2 ^ p + a.toNat % 2 ^ w * 2 ^ p + d.toNat / 2 ^ (p + w) * 2 ^ (p + w))

/-- The high half of a signed product (08 R111). -/
def mulhVal (a b : XWord) : XWord := BitVec.ofInt 64 (a.toInt * b.toInt / 2 ^ 64)

/-- The high half of an unsigned product (08 R111). -/
def mulhzVal (a b : XWord) : XWord := .ofNat 64 (a.toNat * b.toNat / 2 ^ 64)

/-- Division and remainder (08 R111): all ones, and the dividend, for a zero divisor; signed quotients round toward zero. -/
def divVal (a b : XWord) : XWord := if b = 0 then BitVec.allOnes 64 else BitVec.ofInt 64 (a.toInt.tdiv b.toInt)
def remVal (a b : XWord) : XWord := if b = 0 then a else BitVec.ofInt 64 (a.toInt.tmod b.toInt)
def divzVal (a b : XWord) : XWord := if b = 0 then BitVec.allOnes 64 else .ofNat 64 (a.toNat / b.toNat)
def remzVal (a b : XWord) : XWord := if b = 0 then a else .ofNat 64 (a.toNat % b.toNat)

/-- MOVK: bits [q + 15:q] replaced (08 R114). -/
def movkVal (d : XWord) (i : BitVec 16) (q : Nat) : XWord := .ofNat 64 (d.toNat - bits d.toNat (q + 15) q * 2 ^ q + i.toNat * 2 ^ q)

/-- A class G long operation (03 R58): the value is fixed at issue and written when it leaves the class. -/
def execG (s : State) (d : BitVec 6) (v : XWord) : Res := do
  s.room .G
  .ok (s.issueOp .G (.value d v) [])

/-- ADD (08 R110). -/
def execAdd (d a b : BitVec 6) (s : State) : Out := .next (s.produceX 2 d (s.rx a + s.rx b))
/-- SUB (08 R110). -/
def execSub (d a b : BitVec 6) (s : State) : Out := .next (s.produceX 2 d (s.rx a - s.rx b))
/-- AND (08 R110). -/
def execAnd (d a b : BitVec 6) (s : State) : Out := .next (s.produceX 2 d (s.rx a &&& s.rx b))
/-- OR (08 R110). -/
def execOr (d a b : BitVec 6) (s : State) : Out := .next (s.produceX 2 d (s.rx a ||| s.rx b))
/-- XOR (08 R110). -/
def execXor (d a b : BitVec 6) (s : State) : Out := .next (s.produceX 2 d (s.rx a ^^^ s.rx b))
/-- ANDN (08 R110). -/
def execAndn (d a b : BitVec 6) (s : State) : Out := .next (s.produceX 2 d (s.rx a &&& ~~~(s.rx b)))
/-- SHL (08 R110). -/
def execShl (d a b : BitVec 6) (s : State) : Out := .next (s.produceX 2 d (s.rx a <<< bits (s.rx b).toNat 5 0))
/-- SHR (08 R110). -/
def execShr (d a b : BitVec 6) (s : State) : Out := .next (s.produceX 2 d (s.rx a >>> bits (s.rx b).toNat 5 0))
/-- SAR (08 R110). -/
def execSar (d a b : BitVec 6) (s : State) : Out := .next (s.produceX 2 d ((s.rx a).sshiftRight (bits (s.rx b).toNat 5 0)))
/-- MIN (08 R110). -/
def execMin (d a b : BitVec 6) (s : State) : Out := .next (s.produceX 2 d (if (s.rx a).toInt < (s.rx b).toInt then s.rx a else s.rx b))
/-- MAX (08 R110). -/
def execMax (d a b : BitVec 6) (s : State) : Out := .next (s.produceX 2 d (if (s.rx a).toInt < (s.rx b).toInt then s.rx b else s.rx a))
/-- MINZ (08 R110). -/
def execMinz (d a b : BitVec 6) (s : State) : Out := .next (s.produceX 2 d (if (s.rx a).toNat < (s.rx b).toNat then s.rx a else s.rx b))
/-- MAXZ (08 R110). -/
def execMaxz (d a b : BitVec 6) (s : State) : Out := .next (s.produceX 2 d (if (s.rx a).toNat < (s.rx b).toNat then s.rx b else s.rx a))
/-- SLT (08 R110). -/
def execSlt (d a b : BitVec 6) (s : State) : Out := .next (s.produceX 2 d (boolX (decide ((s.rx a).toInt < (s.rx b).toInt))))
/-- SLTZ (08 R110). -/
def execSltz (d a b : BitVec 6) (s : State) : Out := .next (s.produceX 2 d (boolX (decide ((s.rx a).toNat < (s.rx b).toNat))))
/-- SEQ (08 R110). -/
def execSeq (d a b : BitVec 6) (s : State) : Out := .next (s.produceX 2 d (boolX (s.rx a == s.rx b)))
/-- MUL (08 R111). -/
def execMul (d a b : BitVec 6) (s : State) : Out := .next (s.produceX 4 d (s.rx a * s.rx b))
/-- MULH (08 R111). -/
def execMulh (d a b : BitVec 6) (s : State) : Out := .next (s.produceX 4 d (mulhVal (s.rx a) (s.rx b)))
/-- MULHZ (08 R111). -/
def execMulhz (d a b : BitVec 6) (s : State) : Out := .next (s.produceX 4 d (mulhzVal (s.rx a) (s.rx b)))
/-- DIV (08 R111). -/
def execDiv (d a b : BitVec 6) (s : State) : Out := finish s (execG s d (divVal (s.rx a) (s.rx b)))
/-- DIVZ (08 R111). -/
def execDivz (d a b : BitVec 6) (s : State) : Out := finish s (execG s d (divzVal (s.rx a) (s.rx b)))
/-- REM (08 R111). -/
def execRem (d a b : BitVec 6) (s : State) : Out := finish s (execG s d (remVal (s.rx a) (s.rx b)))
/-- REMZ (08 R111). -/
def execRemz (d a b : BitVec 6) (s : State) : Out := finish s (execG s d (remzVal (s.rx a) (s.rx b)))
/-- CLZ (08 R112). -/
def execClz (d a : BitVec 6) (s : State) : Out := .next (s.produceX 2 d (.ofNat 64 (clz64 (s.rx a))))
/-- CTZ (08 R112). -/
def execCtz (d a : BitVec 6) (s : State) : Out := .next (s.produceX 2 d (.ofNat 64 (ctz64 (s.rx a))))
/-- POPC (08 R112). -/
def execPopc (d a : BitVec 6) (s : State) : Out := .next (s.produceX 2 d (.ofNat 64 (popc64 (s.rx a))))
/-- SEXT (08 R112). -/
def execSext (d a : BitVec 6) (p : BitVec 6) (s : State) : Out := .next (s.produceX 2 d (sextAt (s.rx a) p.toNat))
/-- ZEXT (08 R112). -/
def execZext (d a : BitVec 6) (p : BitVec 6) (s : State) : Out := .next (s.produceX 2 d (zextAt (s.rx a) p.toNat))
/-- SEL (08 R112: reads its own d). -/
def execSel (d a b : BitVec 6) (s : State) : Out := .next (s.produceX 2 d (if s.rx d = 0 then s.rx b else s.rx a))
/-- BEXT (08 R112). -/
def execBext (d a b : BitVec 6) (s : State) : Out := .next (s.produceX 2 d (bextVal (s.rx a) (s.rx b)))
/-- BINS (08 R112: reads its own d). -/
def execBins (d a b : BitVec 6) (s : State) : Out := .next (s.produceX 2 d (binsVal (s.rx d) (s.rx a) (s.rx b)))
/-- ADDI (08 R113). -/
def execAddi (d a : BitVec 6) (i : BitVec 10) (s : State) : Out := .next (s.produceX 2 d (s.rx a + i.signExtend 64))
/-- ANDI (08 R113). -/
def execAndi (d a : BitVec 6) (i : BitVec 10) (s : State) : Out := .next (s.produceX 2 d (s.rx a &&& i.zeroExtend 64))
/-- ORI (08 R113). -/
def execOri (d a : BitVec 6) (i : BitVec 10) (s : State) : Out := .next (s.produceX 2 d (s.rx a ||| i.zeroExtend 64))
/-- XORI (08 R113). -/
def execXori (d a : BitVec 6) (i : BitVec 10) (s : State) : Out := .next (s.produceX 2 d (s.rx a ^^^ i.zeroExtend 64))
/-- SLTI (08 R113). -/
def execSlti (d a : BitVec 6) (i : BitVec 10) (s : State) : Out := .next (s.produceX 2 d (boolX (decide ((s.rx a).toInt < i.toInt))))
/-- SLTZI (08 R113). -/
def execSltzi (d a : BitVec 6) (i : BitVec 10) (s : State) : Out := .next (s.produceX 2 d (boolX (decide ((s.rx a).toNat < i.toNat))))
/-- SHLI (08 R113). -/
def execShli (d a : BitVec 6) (i : BitVec 6) (s : State) : Out := .next (s.produceX 2 d (s.rx a <<< i.toNat))
/-- SHRI (08 R113). -/
def execShri (d a : BitVec 6) (i : BitVec 6) (s : State) : Out := .next (s.produceX 2 d (s.rx a >>> i.toNat))
/-- SARI (08 R113). -/
def execSari (d a : BitVec 6) (i : BitVec 6) (s : State) : Out := .next (s.produceX 2 d ((s.rx a).sshiftRight i.toNat))
/-- MOVI (08 R114). -/
def execMovi (d : BitVec 6) (i : BitVec 16) (s : State) : Out := .next (s.produceX 2 d (i.signExtend 64))
/-- MOVK at bit 0 (08 R114): reads its own d. -/
def execMovk0 (d : BitVec 6) (i : BitVec 16) (s : State) : Out := .next (s.produceX 2 d (movkVal (s.rx d) i 0))
/-- MOVK at bit 16 (08 R114): reads its own d. -/
def execMovk16 (d : BitVec 6) (i : BitVec 16) (s : State) : Out := .next (s.produceX 2 d (movkVal (s.rx d) i 16))
/-- MOVK at bit 32 (08 R114): reads its own d. -/
def execMovk32 (d : BitVec 6) (i : BitVec 16) (s : State) : Out := .next (s.produceX 2 d (movkVal (s.rx d) i 32))
/-- MOVK at bit 48 (08 R114): reads its own d. -/
def execMovk48 (d : BitVec 6) (i : BitVec 16) (s : State) : Out := .next (s.produceX 2 d (movkVal (s.rx d) i 48))

/-! ### Scalar float -/

/-- The FP32 value in bits [31:0] of a register (07 R89). -/
def fOf (v : XWord) : Num.FV := Num.of32 (bits v.toNat 31 0)

/-- A value rounded to FP32, with zeros above (07 R89). -/
def fRes (r : BitVec 3) (v : Num.FV) : XWord := .ofNat 64 (Num.f32 r.toNat v)

/-- The product that FMUL and FFMA form and its sum (08 R116), rounded once. -/
def ffmaVal (r : BitVec 3) (a b d : XWord) : XWord := fRes r (Num.add r.toNat (Num.mul (fOf a) (fOf b)) (fOf d))

/-- The two operands compare unordered (08 R117). -/
def unordered (a b : Num.FV) : Bool := a.isNan || b.isNan

/-- The bit FCLASS sets (08 R117). -/
def fclassVal (a : XWord) : Nat :=
  let w := bits a.toNat 31 0
  let neg := bits w 31 31 == 1
  let e := bits w 30 23
  let m := bits w 22 0
  if e = 255 then (if m = 0 then (if neg then 0 else 7) else if bits w 22 22 = 0 then 8 else 9)
  else if e = 0 then (if m = 0 then (if neg then 3 else 4) else if neg then 2 else 5)
  else if neg then 1 else 6

/-- The formats of FCVT (08 R118). -/
def cvtFmt (c : Nat) : Num.Fmt := if c = 0 then .fp32 else if c = 1 then .fp16 else if c = 2 then .bf16 else if c = 3 then .e4m3 else if c = 4 then .e5m2 else if c = 5 then .int 32 else .int 64

/-- FCVT (08 R118): a float copied to its own format keeps its bits; integer targets saturate, and INT32 is sign-extended. -/
def fcvtVal (from_ dst rm : Nat) (sat : Bool) (a : XWord) : XWord :=
  let f := cvtFmt from_
  let t := cvtFmt dst
  let src := a.toNat % 2 ^ f.width
  if from_ = dst ∧ from_ < 5 then .ofNat 64 src
  else if dst = 5 then (BitVec.ofNat 32 (Num.encode t rm sat (Num.decode f src))).signExtend 64
  else .ofNat 64 (Num.encode t rm sat (Num.decode f src))

/-- FADD (08 R116). -/
def execFadd (d a b : BitVec 6) (r : BitVec 3) (s : State) : Out := .next (s.produceX 4 d (fRes r (Num.add r.toNat (fOf (s.rx a)) (fOf (s.rx b)))))
/-- FSUB (08 R116). -/
def execFsub (d a b : BitVec 6) (r : BitVec 3) (s : State) : Out := .next (s.produceX 4 d (fRes r (Num.add r.toNat (fOf (s.rx a)) (fOf (s.rx b)).negate)))
/-- FMUL (08 R116). -/
def execFmul (d a b : BitVec 6) (r : BitVec 3) (s : State) : Out := .next (s.produceX 4 d (fRes r (Num.mul (fOf (s.rx a)) (fOf (s.rx b)))))
/-- FFMA (08 R116). -/
def execFfma (d a b : BitVec 6) (r : BitVec 3) (s : State) : Out := .next (s.produceX 4 d (ffmaVal r (s.rx a) (s.rx b) (s.rx d)))
/-- FMIN (08 R117). -/
def execFmin (d a b : BitVec 6) (s : State) : Out := .next (s.produceX 4 d (fRes 0 (Num.minV (fOf (s.rx a)) (fOf (s.rx b)))))
/-- FMAX (08 R117). -/
def execFmax (d a b : BitVec 6) (s : State) : Out := .next (s.produceX 4 d (fRes 0 (Num.maxV (fOf (s.rx a)) (fOf (s.rx b)))))
/-- FCMP_EQ (08 R117). -/
def execFcmpEq (d a b : BitVec 6) (s : State) : Out := .next (s.produceX 4 d (boolX (Num.eq (fOf (s.rx a)) (fOf (s.rx b)))))
/-- FCMP_LT (08 R117). -/
def execFcmpLt (d a b : BitVec 6) (s : State) : Out := .next (s.produceX 4 d (boolX (Num.lt (fOf (s.rx a)) (fOf (s.rx b)))))
/-- FCMP_LE (08 R117). -/
def execFcmpLe (d a b : BitVec 6) (s : State) : Out := .next (s.produceX 4 d (boolX (Num.lt (fOf (s.rx a)) (fOf (s.rx b)) || Num.eq (fOf (s.rx a)) (fOf (s.rx b)))))
/-- FCMP_UN (08 R117). -/
def execFcmpUn (d a b : BitVec 6) (s : State) : Out := .next (s.produceX 4 d (boolX (unordered (fOf (s.rx a)) (fOf (s.rx b)))))
/-- FCLASS (08 R117). -/
def execFclass (d a : BitVec 6) (s : State) : Out := .next (s.produceX 4 d (.ofNat 64 (2 ^ fclassVal (s.rx a))))
/-- FCVT (08 R118). -/
def execFcvt (d a : BitVec 6) (f t r : BitVec 3) (x : BitVec 1) (s : State) : Out :=
  .next (s.produceX 4 d (fcvtVal f.toNat t.toNat r.toNat (x == 1) (s.rx a)))
/-- FDIV (08 R116, R119). -/
def execFdiv (d a b : BitVec 6) (r : BitVec 3) (s : State) : Out := finish s (execG s d (fRes r (Num.div (fOf (s.rx a)) (fOf (s.rx b)))))
/-- FSQRT (08 R119). -/
def execFsqrt (d a : BitVec 6) (r : BitVec 3) (s : State) : Out := finish s (execG s d (fRes r (Num.sqrt (fOf (s.rx a)))))
/-- FEXP2 (08 R119). -/
def execFexp2 (d a : BitVec 6) (r : BitVec 3) (s : State) : Out := finish s (execG s d (fRes r (Num.exp2 (fOf (s.rx a)))))
/-- FLOG2 (08 R119). -/
def execFlog2 (d a : BitVec 6) (r : BitVec 3) (s : State) : Out := finish s (execG s d (fRes r (Num.log2 (fOf (s.rx a)))))
/-- FRCP (08 R119). -/
def execFrcp (d a : BitVec 6) (r : BitVec 3) (s : State) : Out := finish s (execG s d (fRes r (Num.rcp (fOf (s.rx a)))))
/-- FRSQ (08 R119). -/
def execFrsq (d a : BitVec 6) (r : BitVec 3) (s : State) : Out := finish s (execG s d (fRes r (Num.rsqrt (fOf (s.rx a)))))

end Sys2Proof.Machine
end

