-- ==== Sys2Proof/Machine/Order.lean ====
section
/-! DEFINITION. Which of a slot's accesses must be performed before which (12 R163-R180), and the classes KNOT names. -/

namespace Sys2Proof.Machine

/-- The pieces a thread access holds; none for a command and for an indexed stream. -/
def Task.segs : Task → List Seg
  | .load g _ _ _ | .loadCap g _ _ | .loadVec _ _ g _ | .store g _ _ | .storeCap g _ | .amo g _ _ _ _ _
  | .cas g _ _ _ _ _ _ => g
  | .red _ _ _ vs => vs.flatMap (·.2.1)
  | .binit g _ | .barr g _ => [g]
  | _ => []

/-- The access is an acquire (12 R171); a CAS whose outcome is open holds later accesses back (R175). -/
def Task.acquires : Task → Bool
  | .load _ _ _ a => a
  | .amo _ _ _ _ a _ => a
  | .cas _ _ _ _ a _ f => a || f
  | _ => false

/-- The access is a release (12 R171). -/
def Task.releases : Task → Bool
  | .store _ _ r => r
  | .amo _ _ _ _ _ r => r
  | .cas _ _ _ _ _ r _ => r
  | .barr _ _ => true
  | _ => false

/-- An unordered reduction (12 R180, 15 R223). -/
def Task.loose : Task → Bool
  | .red _ _ o _ => !o
  | .scatter c _ _ add _ => add && c.kind != 1
  | _ => false

/-- Bytes of an element of VGATH and VSCAT (15 R203). -/
def etBytes (et : BitVec 3) : Nat := if et.toNat ≤ 1 then 4 else if et.toNat ≤ 4 then 2 else 1

/-- The pieces that an operation reaches, and whether some of them are not known yet. -/
structure Reach where
  segs  : List Seg
  open_ : Bool
  deriving DecidableEq, Repr

/-- Bytes of a contribution of an op: fadd touches 4 (13 R191). -/
def redBytes (op : Nat) : Nat := if op = 9 then 4 else 8

/-- The pieces of the elements of an indexed stream, as its pages lie now; an element whose page is not present has none
yet. -/
def State.reachOf (s : State) (sid iface : Nat) (c : Cap) (n : Nat) (write : Bool) : List Nat → Reach
  | [] => ⟨[], false⟩
  | f :: fs =>
    let r := s.reachOf sid iface c n write fs
    match s.stream sid iface c f n write with
    | .ok g => ⟨g ++ r.segs, r.open_⟩
    | .error (_, .absent) => ⟨r.segs, true⟩
    | .error _ => r

/-- The pieces that an operation reaches: an element that had none when it issued lies where its page lies now, and the pair
that SMIX appends in the core's scratchpad (22 R281). -/
def State.reach (s : State) (sid : Nat) (o : Op) : Reach :=
  match o.task with
  | .loadVec c off [] _ => s.reachOf sid o.iface c 256 false [off]
  | .red c op _ vs =>
    let r := s.reachOf sid o.iface c (redBytes op) true ((vs.filter (·.2.1.isEmpty)).map (·.1))
    ⟨o.task.segs ++ r.segs, r.open_⟩
  | .smix _ _ off bs => ⟨[⟨scratchPa (sid / 128) off, bs.length, 1, false, 0, off⟩], false⟩
  | .gather c offs et _ => s.reachOf sid o.iface c (etBytes et) false (offs.filterMap id)
  | .scatter c es et _ _ => s.reachOf sid o.iface c (etBytes et) true (es.filterMap (·.1))
  | t => ⟨t.segs, false⟩

/-- Two pieces share a byte, wherever a migration has put it (10 R160, 12 R167). -/
def State.segsMeet (s : State) (a b : Seg) : Bool := meets (s.canon a.pa) a.len (s.canon b.pa) b.len

/-- Something of a reach lies on, or may lie on, a page of a kind that the test accepts. -/
def Reach.on (r : Reach) (p : BitVec 2 → Bool) : Bool := r.open_ || r.segs.any fun g => p g.ord

/-- The earlier operation x of a slot must be performed before an access that reaches y (12 R169). -/
def State.mustPrecede (s : State) (sid : Nat) (x : Op) (y : Reach) (rel cmd : Bool) : Bool :=
  let r := s.reach sid x
  (r.on (· == 0) && y.on (· == 0)) ||
  (x.task.acquires && (cmd || y.on (· != 2))) ||
  (rel && r.on (· != 2)) ||
  (r.segs.any fun a => y.segs.any fun b => a.ord != 2 && b.ord != 2 && s.segsMeet a b) ||
  (r.open_ && y.on fun k => k != 2) || (y.open_ && r.on fun k => k != 2)

/-- An operation is a command for 12 R169: engine, tile, A-pipe or braid. -/
def Op.isCommand (o : Op) : Bool := match o.cls with
  | .C | .T => true
  | _ => false

/-- The earlier operation x must be performed before the operation y of the same slot. Of two unordered reductions only those
on SO pages are kept in order, and on pages that are not known yet (12 R166, R169, R180). -/
def State.opPrecedes (s : State) (sid : Nat) (x y : Op) : Bool :=
  if x.task.loose && y.task.loose then (s.reach sid x).on (· == 0) && (s.reach sid y).on (· == 0)
  else s.mustPrecede sid x (s.reach sid y) y.task.releases y.isCommand

/-- The operations of a slot that stand before one. -/
def opsBefore (id : Nat) : List Op → List Op
  | [] => []
  | o :: os => if o.id = id then [] else o :: opsBefore id os

/-- The operations of a slot, of the continuation that runs there or of those that have left it, in issue order. -/
def State.opsOf (s : State) (sid : Nat) (live : Bool) : List Op :=
  if live then (s.slot sid).ops else (s.orphans.filter (·.1 == sid)).map (·.2)

/-- A product of the matrix engine (15 R227). -/
def Task.matrix : Task → Bool
  | .tmma _ _ _ _ _ => true
  | _ => false

/-- A step of the matrix engine. -/
def Task.engine : Task → Bool
  | .tmma _ _ _ _ _ | .tgemm _ _ _ _ _ _ _ => true
  | _ => false

/-- Contributions to a core's scratchpad (13 R191). -/
def Task.padRed : Task → Bool
  | .red _ _ _ vs => vs.any fun v => v.2.1.any fun g => decide (scratchBase ≤ g.pa) && decide (g.pa < remoteBase)
  | _ => false

/-- Across the slots of a core, the matrix engine performs in issue order (15 R227: a step of TGEMM issues when it is
loaded), and the scratchpad applies contributions in issue order (13 R191). -/
def State.inTurn (s : State) (sid : Nat) (o : Op) : Bool :=
  (s.coreOps (sid / 128)).all fun x => !(decide (x.id < o.id) &&
    ((x.task.matrix && o.task.engine) ||
      (x.task.padRed && o.task.padRed && x.task.segs.any fun a => o.task.segs.any fun b => s.segsMeet a b)))

/-- The earlier operations that an operation must follow have been performed (12 R169, R178). -/
def State.mayGo (s : State) (sid : Nat) (o : Op) (live : Bool) : Bool :=
  ((opsBefore o.id (s.opsOf sid live)).all fun x => !s.opPrecedes sid x o) && s.inTurn sid o

/-- An access that the slot makes at once waits for the earlier ones that must precede it. -/
def State.syncAccess (s : State) (segs : List Seg) (rel : Bool) : Except Stop Unit :=
  let ids := (s.me.ops.filter fun x => s.mustPrecede s.me.id x ⟨segs, false⟩ rel false).map (·.id)
  require ids.isEmpty (.park (.ops ids))

/-- What a command reads while it issues is, like all its accesses, ordered after the slot's earlier acquires, and by KNOT
and WAIT, alone (12 R169, R178). -/
def State.syncCommand (s : State) : Except Stop Unit :=
  let ids := (s.me.ops.filter (·.task.acquires)).map (·.id)
  require ids.isEmpty (.park (.ops ids))

/-- What a tile operation reads and writes (15 R226): physical tiles, and accumulators from 16 on. TSAVE and TREST name every
tile and every accumulator, those too that the continuation does not hold (15 R237; log 84). -/
def Task.tileUse : Task → List Nat × List Nat
  | .tld _ t _ _ => ([], [t])
  | .tst _ t _ _ => ([t], [])
  | .tldn t _ _ _ => ([], [t])
  | .tgemm a ta tb _ _ _ _ => ([], [16 + a, ta.1, ta.2, tb.1, tb.2])
  | .tmma a ta tb _ _ => ([ta, tb], [16 + a])
  | .tarith _ d a b _ _ _ _ _ => ([a, b], [d])
  | .tzero t _ => ([], [t])
  | .azero a => ([], [16 + a])
  | .tclaim a => ([], [16 + a])
  | .rowmax _ a => ([16 + a], [])
  | .rowsum _ a => ([16 + a], [])
  | .movv _ a _ => ([16 + a], [])
  | .drain a _ _ _ _ => ([16 + a], [])
  | .tsave _ _ _ _ _ => (List.range 20, [])
  | .trest _ _ _ => ([], List.range 20)
  | .stopped rd wr => (rd, wr)
  | _ => ([], [])

/-- A command that has stopped has nothing left to do but to leave its class; what it reads and writes stays interlocked
(10 R154, 15 R226). -/
def Task.ended (t : Task) : Task := .stopped t.tileUse.1 t.tileUse.2

/-- KNOT's classes of an operation: loads, stores, copy and engine, tile, A-pipe and braid (12 R176). LAUNCH, OTINV, TLBINV
and the class C instructions of major 0x7C, which the spec puts in none of them, count under bit c (log 53). -/
def Op.knot (o : Op) (mask : BitVec 5) : Bool :=
  match o.cls with
  | .L => (mask.getLsbD 4) || (match o.task with | .amo _ _ _ _ _ _ => mask.getLsbD 3 | .cas _ _ _ _ _ _ _ => mask.getLsbD 3 | _ => false)
  | .S => mask.getLsbD 3
  | .T => mask.getLsbD 1
  | .G => false
  | .C => match o.task with
    | .attn _ _ | .amerge _ _ _ _ _ _ _ | .bgload _ _ | .bgrun _ _ | .bgfree _ | .bgstat _ _ => mask.getLsbD 0
    | _ => mask.getLsbD 2

end Sys2Proof.Machine
end

