-- ==== Sys2Proof/Machine/Control.lean ====
section
/-! DEFINITION. Branches (08 R120-R122), loop nests (08 R123-R129) and capability registers (13 R186). -/

namespace Sys2Proof.Machine

/-! ### Branches -/

/-- A branch target is accepted: a multiple of 4 with its word inside the code object (08 R120). The length is that of the
code capability, and a target below 0 is refused, with its 64-bit two's complement in TVAL (log 54). -/
def State.targetOk (s : State) (t : Int) : Bool := decide (0 ≤ t) && t % 4 == 0 && decide (t + 4 ≤ s.codeCap.len)

/-- A branch to t where it is taken; the target is checked either way (08 R120). -/
def State.branch (s : State) (taken : Bool) (t : Int) : Res := do
  require (s.targetOk t) (capTrap subBounds t)
  .ok (if taken then s.issuedTo (BitVec.ofInt 48 t) else s.issued)

/-- A taken branch with a link, a 2-cycle result that does not push (08 R121). -/
def State.branchLink (s : State) (d : BitVec 6) (t : Int) : Res := do
  let u ← s.branch true t
  .ok { u with me := { u.me with pend := u.me.pend ++ [⟨s.core.cycle + 2, .x d ((s.me.ctx.pc + 4).zeroExtend 64), false⟩] } }

/-- A target in words from the branch's own word (07 R85). -/
def State.relTarget (s : State) (off : Int) : Int := s.me.ctx.pc.toNat + 4 * off

/-- B (08 R121). -/
def execB (o : BitVec 22) (s : State) : Out := finish s (s.branch true (s.relTarget o.toInt))
/-- BL: the link goes to x47 (08 R121). -/
def execBl (o : BitVec 22) (s : State) : Out := finish s (s.branchLink 47 (s.relTarget o.toInt))
/-- BX (08 R121). -/
def execBx (a : BitVec 6) (s : State) : Out := finish s (s.branch true (s.rx a).toNat)
/-- BLX: x(a) is read before d is written (08 R121). -/
def execBlx (d a : BitVec 6) (s : State) : Out := finish s (s.branchLink d (s.rx a).toNat)
/-- BEQZ (08 R122). -/
def execBeqz (a : BitVec 6) (o : BitVec 16) (s : State) : Out := finish s (s.branch (s.rx a == 0) (s.relTarget o.toInt))
/-- BNEZ (08 R122). -/
def execBnez (a : BitVec 6) (o : BitVec 16) (s : State) : Out := finish s (s.branch (s.rx a != 0) (s.relTarget o.toInt))
/-- BLTZ (08 R122). -/
def execBltz (a : BitVec 6) (o : BitVec 16) (s : State) : Out :=
  finish s (s.branch (decide ((s.rx a).toInt < 0)) (s.relTarget o.toInt))
/-- BGEZ (08 R122). -/
def execBgez (a : BitVec 6) (o : BitVec 16) (s : State) : Out :=
  finish s (s.branch (decide (0 ≤ (s.rx a).toInt)) (s.relTarget o.toInt))
/-- BEQ (08 R122). -/
def execBeq (a b : BitVec 6) (o : BitVec 10) (s : State) : Out := finish s (s.branch (s.rx a == s.rx b) (s.relTarget o.toInt))
/-- BNE (08 R122). -/
def execBne (a b : BitVec 6) (o : BitVec 10) (s : State) : Out := finish s (s.branch (s.rx a != s.rx b) (s.relTarget o.toInt))
/-- BLT (08 R122). -/
def execBlt (a b : BitVec 6) (o : BitVec 10) (s : State) : Out :=
  finish s (s.branch (decide ((s.rx a).toInt < (s.rx b).toInt)) (s.relTarget o.toInt))
/-- BGE (08 R122). -/
def execBge (a b : BitVec 6) (o : BitVec 10) (s : State) : Out :=
  finish s (s.branch (decide ((s.rx b).toInt ≤ (s.rx a).toInt)) (s.relTarget o.toInt))
/-- BLTN (08 R122). -/
def execBltn (a b : BitVec 6) (o : BitVec 10) (s : State) : Out :=
  finish s (s.branch (decide ((s.rx a).toNat < (s.rx b).toNat)) (s.relTarget o.toInt))
/-- BGEN (08 R122). -/
def execBgen (a b : BitVec 6) (o : BitVec 10) (s : State) : Out :=
  finish s (s.branch (decide ((s.rx b).toNat ≤ (s.rx a).toNat)) (s.relTarget o.toInt))

/-! ### Loop nests -/

/-- The fields of a nest parameter record (08 R124). -/
def nestDims (p : Nat) : Nat := bits p 1 0
def nestStreams (p : Nat) : Nat := bits p 3 2
def nestCap (p k : Nat) : Nat := bits p (7 + 4 * k) (4 + 4 * k)
def nestDir (p k : Nat) : Nat := bits p (17 + 2 * k) (16 + 2 * k)
def nestCount (p j : Nat) : Nat := bits p (95 + 32 * j) (64 + 32 * j)
def nestBlock (p k : Nat) : Nat := bits p (447 + 256 * k) (192 + 256 * k)
def nestBase (p k : Nat) : Nat := bits (nestBlock p k) 47 0
def nestStride (p k j : Nat) : Int := (BitVec.ofNat 32 (bits (nestBlock p k) (95 + 32 * j) (64 + 32 * j))).toInt
def nestWrap (p k : Nat) : Nat := bits (nestBlock p k) 223 192
def nestExt (p k : Nat) : Nat := bits (nestBlock p k) 255 224

/-- The record is well formed (08 R124). -/
def nestOk (p : Nat) : Bool :=
  ((List.range 4).all fun j => if j ≤ nestDims p then decide (1 ≤ nestCount p j)
    else nestCount p j == 0 && (List.range 3).all fun k => nestStride p k j == 0) &&
  ((List.range 3).all fun k =>
    if k < nestStreams p then nestDir p k != 0 && decide (1 ≤ nestExt p k) && bits (nestBlock p k) 63 48 == 0
    else nestBlock p k == 0 && nestDir p k == 0 && nestCap p k == 0) &&
  bits p 63 22 == 0 && bits p 1023 960 == 0

/-- The lowest and highest reach of a stream's sum (08 R125). -/
def nestReach (p k : Nat) : Int × Int :=
  if nestWrap p k ≠ 0 then (0, nestWrap p k - 1)
  else (List.range (nestDims p + 1)).foldl (fun r j =>
    let v : Int := (nestCount p j - 1 : Int) * nestStride p k j
    (r.1 + min 0 v, r.2 + max 0 v)) (0, 0)

/-- A stream's value in TVAL: k in [63:62], an offset in [47:0] (08 R125). An offset below 0 is there as its two's complement of
48 bits (log 55). -/
def nestTval (k : Nat) (o : Int) : XWord := .ofNat 64 (k * 2 ^ 62 + (BitVec.ofInt 48 o).toNat)

/-- The check of a stream's capability (08 R125). -/
def nestCheck (c : Cap) (p k : Nat) : Except Stop Unit := do
  let t := nestTval k c.off
  require c.tag (.trap 3 subTag t)
  require (c.kind != 5 && (nestDir p k % 2 == 0 || c.rd) && (nestDir p k / 2 == 0 || c.wr)) (.trap 3 subRights t)
  let r := nestReach p k
  let lo : Int := nestBase p k + r.1
  let hi : Int := nestBase p k + r.2 + nestExt p k
  require (decide (0 ≤ c.off + lo) && decide (c.off + hi ≤ c.len))
    (.trap 3 subBounds (nestTval k (if c.off + lo < 0 then lo else if lo ≤ c.len - c.off then c.len - c.off else lo)))

/-- LNSET (08 R125). -/
def lnset (n : BitVec 2) (c : BitVec 4) (x : BitVec 6) (s : State) : Res := do
  s.computeOnly
  let cap := s.rc c
  let e : Int := cap.off + (s.rx x).toInt
  let segs ← s.access cap { rd := true } e 128 8 [] false
  s.syncAccess segs false
  let p := s.readNat segs
  require (nestOk p) s.illegal
  let caps := (List.range 3).map fun k => s.rc (.ofNat 4 (nestCap p k))
  foldE (fun _ k => nestCheck (caps.getD k Cap.null) p k) () (List.range (nestStreams p))
  let captured := (List.range 3).map fun k => if k < nestStreams p then caps.getD k Cap.null else Cap.null
  let armed : Nest := ⟨true, .ofNat 1024 p, Vector.ofFn fun i => captured.getD i Cap.null, Vector.replicate 4 0⟩
  let t := s.issued
  .ok { t with me := { t.me with ctx := { t.me.ctx with n := vset t.me.ctx.n n.toNat armed } } }

/-- LNSET (08 R125). -/
def execLnset (n : BitVec 2) (c : BitVec 4) (x : BitVec 6) (s : State) : Out := finish s (lnset n c x s)

/-- An index of a nest. -/
def Nest.i (n : Nest) (j : Nat) : Nat := vget n.idx j 0

/-- A stream's offset within its captured capability at the current indices (08 R126). -/
def Nest.offset (n : Nest) (k : Nat) : Int :=
  let p := n.par.toNat
  let o := (List.range (nestDims p + 1)).foldl (fun (a : Int) j => a + n.i j * nestStride p k j) 0
  nestBase p k + (if nestWrap p k ≠ 0 then o % nestWrap p k else o)

/-- The nest advanced by one point, from dimension j on, with fuel; none past the last point (08 R127). -/
def Nest.advanceFrom (n : Nest) : Nat → Nat → Option Nest
  | 0, _ => none
  | f + 1, j =>
    if nestDims n.par.toNat < j then none
    else if n.i j + 1 < nestCount n.par.toNat j then some { n with idx := vset n.idx j (n.i j + 1) }
    else ({ n with idx := vset n.idx j 0 } : Nest).advanceFrom f (j + 1)

/-- The nest advanced by one point; none past the last point. -/
def Nest.advance (n : Nest) : Option Nest := n.advanceFrom 5 0

/-- LNSTEP (08 R127). -/
def lnstep (n : BitVec 2) (o : BitVec 20) (s : State) : Res := do
  s.computeOnly
  let c := s.rn n
  require c.armed s.illegal
  let t := s.relTarget o.toInt
  require (s.targetOk t) (capTrap subBounds t)
  let put (u : State) (m : Nest) : State := { u with me := { u.me with ctx := { u.me.ctx with n := vset u.me.ctx.n n.toNat m } } }
  match c.advance with
  | some m => .ok (put (s.issuedTo (BitVec.ofInt 48 t)) m)
  | none => .ok (put s.issued { c with armed := false, idx := Vector.replicate 4 0 })

/-- LNSTEP (08 R127). -/
def execLnstep (n : BitVec 2) (o : BitVec 20) (s : State) : Out := finish s (lnstep n o s)

/-- LNIDX (08 R128): an index, 0 above DIMS. -/
def execLnidx (n : BitVec 2) (d : BitVec 6) (j : BitVec 2) (s : State) : Out := finish s (do
  s.computeOnly
  require (s.rn n).armed s.illegal
  .ok (s.produceX 2 d (.ofNat 64 (if j.toNat ≤ nestDims (s.rn n).par.toNat then (s.rn n).i j.toNat else 0))))

/-- LNADR (08 R128): a stream's offset; a negative one as its 64-bit two's complement (log 55). -/
def execLnadr (n : BitVec 2) (d : BitVec 6) (k : BitVec 2) (s : State) : Out := finish s (do
  s.computeOnly
  require ((s.rn n).armed && decide (k.toNat < nestStreams (s.rn n).par.toNat)) s.illegal
  .ok (s.produceX 2 d (BitVec.ofInt 64 ((s.rn n).offset k.toNat))))

/-! ### Capability registers -/

/-- The greatest m × 2^k ≤ n with m < 2^18 and k ≤ 30, the least k among equals: from exponent k on, with fuel. -/
def lenFields (n : Nat) : Nat → Nat → Nat × Nat
  | 0, k => (min (n / 2 ^ k) (2 ^ 18 - 1), k)
  | f + 1, k => if n / 2 ^ k < 2 ^ 18 then (n / 2 ^ k, k) else lenFields n f (k + 1)

/-- The fields of CDERIVE (13 R186): the least exponent that fits gives the greatest length. -/
def deriveLen (n : Nat) : Nat × Nat := lenFields n 30 0

/-- CDERIVE (13 R186). -/
def execCderive (d a : BitVec 4) (b : BitVec 6) (s : State) : Out := finish s (do
  let c := s.rc a
  require c.tag (capTrap subTag c.off)
  require c.dv (capTrap subRights c.off)
  let n := (s.rx b).toNat
  require (decide (n ≤ c.len)) (capTrap subBounds n)
  .ok (s.produce 2 (.c d (c.setLen (.ofNat 18 (deriveLen n).1) (.ofNat 6 (deriveLen n).2))) false))

/-- CSETO (13 R186). -/
def execCseto (d a : BitVec 4) (b : BitVec 6) (s : State) : Out :=
  .next (s.produce 2 (.c d ((s.rc a).setOff ((s.rx b).truncate 48))) false)
/-- CADDO (13 R186). -/
def execCaddo (d a : BitVec 4) (b : BitVec 6) (s : State) : Out :=
  .next (s.produce 2 (.c d ((s.rc a).setOff (.ofNat 48 (s.rc a).off + (s.rx b).truncate 48))) false)
/-- CGETO (13 R186). -/
def execCgeto (d : BitVec 6) (a : BitVec 4) (s : State) : Out := .next (s.produceX 2 d (.ofNat 64 (s.rc a).off))
/-- CGETL (13 R186): the low 64 bits of a length that an untagged capability's fields put beyond them (log 82). -/
def execCgetl (d : BitVec 6) (a : BitVec 4) (s : State) : Out := .next (s.produceX 2 d (.ofNat 64 (s.rc a).len))
/-- CDROP (13 R186): rights bits [23:16] cleared where x(b)[7:0] is 1. -/
def execCdrop (d a : BitVec 4) (b : BitVec 6) (s : State) : Out :=
  .next (s.produce 2 (.c d { s.rc a with raw := (s.rc a).raw &&& ~~~(((s.rx b).truncate 8).zeroExtend 128 <<< 16) }) false)
/-- CTAG (13 R186). -/
def execCtag (d : BitVec 6) (a : BitVec 4) (s : State) : Out := .next (s.produceX 2 d (boolX (s.rc a).tag))

end Sys2Proof.Machine
end

