-- ==== Sys2Proof/Machine/Cont.lean ====
section
/-! DEFINITION. Launches, records, queues, dispatch, joining, groups, commit points (03 R29-R52, 08 R130-R140). -/

namespace Sys2Proof.Machine

/-! ### Launch records -/

/-- The launch record of 64 bytes, with the tags of CODE and FRAME (03 R29). -/
def launchRec (v : Nat) (codeTag frameTag : Bool) : LaunchRec :=
  { thenOff := .ofNat 48 (bits v 495 448), barOff := .ofNat 32 (bits v 447 416), joinOff := .ofNat 32 (bits v 415 384)
    barV := bits v 364 364 == 1, joinV := bits v 363 363 == 1, thenV := bits v 362 362 == 1
    need := .ofNat 4 (bits v 361 358), place := .ofNat 2 (bits v 357 356), prio := .ofNat 4 (bits v 355 352)
    stride := .ofNat 32 (bits v 351 320), next := .ofNat 32 (bits v 319 288), count := .ofNat 32 (bits v 287 256)
    frame := ⟨.ofNat 128 (bits v 255 128), frameTag⟩, code := ⟨.ofNat 128 (bits v 127 0), codeTag⟩ }

/-- The first condition of 03 R30 that fails: a sub-cause for a capability condition, 0 for any other. -/
def launchRefuses (v : Nat) (r : LaunchRec) : Option Nat :=
  if !r.code.tag then some subTag
  else if r.code.kind != 5 || !r.code.x then some subRights
  else if !r.frame.tag then some subTag
  else if (r.frame.kind != 0 && r.frame.kind != 3) || !r.frame.rd then some subRights
  else if r.place == 3 || r.need == 15 || (r.place == 1 && r.need != 0) then some 0
  else if r.count.toNat < r.next.toNat then some 0
  else if bits v 511 496 != 0 || bits v 383 365 != 0 then some 0
  else none

/-- The lowest number not among rising keys (03 R32). -/
def lowestFree : List Nat → Nat → Nat
  | [], n => n
  | k :: ks, n => if k = n then lowestFree ks (n + 1) else if k < n then lowestFree ks n else n

/-- The lowest free launch ID, if there is one (03 R32). -/
def State.freeLid (s : State) : Option Nat :=
  let n := lowestFree (s.launches.map (·.1)) 0
  if n < 1048576 then some n else none

/-- A priority under the ceiling (03 R31). -/
def State.clampPrio (s : State) (i : Nat) (p : BitVec 4) : BitVec 4 :=
  if s.ceiling i < p.toNat then .ofNat 4 (s.ceiling i) else p

/-- An accepted launch entered in the launch table (03 R32, R33, R39); `die` is that of the core that made it. -/
def State.tableLaunch (s : State) (lid i : Nat) (r : LaunchRec) (die : Option Nat) : State :=
  let home := if r.place = 1 then 2 else match die with
    | some d => if d = 2 then lid % 2 else d
    | none => lid % 2
  let l : Launch :=
    { iface := i, r := { r with prio := s.clampPrio i r.prio }, home := home, live := r.count.toNat - r.next.toNat,
      complete := false, actions := [], ender := 0 }
  { s with launches := mset s.launches lid l }

/-- The queue that a launch register's record will go to has room (03 R39, R40). -/
def State.launchRoom (s : State) (lid i : Nat) (r : LaunchRec) : Bool :=
  r.next == r.count || !s.ringFull (if r.place = 1 then 2 else lid % 2) (s.clampPrio i r.prio).toNat

/-- A launch ID freed (03 R32). -/
def State.freeLaunch (s : State) (lid : Nat) : State := { s with launches := mdel s.launches lid }

/-! ### Join counters -/

/-- The counter's checks against FRAME (03 R46): bounds, alignment, the page kind as far as it is known, and its translation
as a thread access (13 R182). -/
def State.joinSegs (s : State) (frame : Cap) (a : Nat) : Except Stop (List Seg) := do
  require (inBounds frame a 8) (capTrap subBounds a)
  require (a % 8 == 0) (capTrap subAlign a)
  require (!s.touchesUn frame a 8) (capTrap subRights a)
  let segs ← s.translate frame a 8 true a
  require (!segs.any (·.ord == 2)) (capTrap subRights a)
  .ok segs

/-- The address that names a counter. -/
def segsPa (s : State) (segs : List Seg) : Nat := match segs with | g :: _ => s.canon g.pa | [] => 0

/-- The waiting record of a counter is enqueued and its entry freed (03 R47, R48). -/
def State.releaseJoin (s : State) (pa : Nat) : State :=
  match s.joins.find? (·.pa == pa) with
  | some j => ({ s with joins := s.joins.filter (·.pa != pa) }).enqueue j.die j.r.prio.toNat (.one j.r) [] false
  | none => s

/-- The die queue that a decrement would enqueue its counter's waiting record on while the ring is full: it waits
(03 R40, R47). -/
def State.releaseFull (s : State) (segs : List Seg) : Option (Nat × Nat) :=
  match s.joins.find? (·.pa == segsPa s segs) with
  | some j => if s.readNat segs = 1 ∧ s.ringFull j.die j.r.prio.toNat then some (j.die, j.r.prio.toNat) else none
  | none => none

/-- A counter decremented; the decrement to zero enqueues its waiting record (03 R46, R47). -/
def State.decJoin (s : State) (segs : List Seg) : State :=
  let v := (s.readNat segs + 2 ^ 64 - 1) % 2 ^ 64
  let t := s.writeSegs segs (bytesOf 8 v)
  if v = 0 then t.releaseJoin (segsPa s segs) else t

/-! ### Completion -/

/-- The cause a fault message names for a failed check (28 R327). -/
def msgCause (sub : Nat) : Nat := if sub = subTag then 3 else if sub = subRights then 1 else if sub = subBounds then 2 else 12

/-- A skipped completion action's message (03 R34). -/
def State.actionFault (s : State) (lid : Nat) (l : Launch) (cause off : Nat) : State :=
  s.postFault l.iface { unit := 8, cause := cause, offset := off, lid := lid, slot := l.ender }

/-- The barrier object or the counter of a completion action: its pieces, a check that failed, or a page to wait for. -/
def State.actionSegs (s : State) (l : Launch) (bar : Bool) (off : Nat) : Except (Option Nat) (List Seg) :=
  let f := l.r.frame
  let n := if bar then 16 else 8
  if bar && !(f.rd && f.wr && f.at_) then .error (some 1)
  else if !inBounds f off n then .error (some 2)
  else if off % n ≠ 0 then .error (some 12)
  else match s.stream (l.home * 16384) l.iface f off n true with
    | .ok g => if g.any (·.ord == 2) then .error (some 1) else .ok g
    | .error (_, .absent) => .error none
    | .error (_, .bad k) => .error (some k)
    | .error _ => .error (some 4)

/-- The completion actions in order (03 R34), with fuel; the one that waits for a page or for room in a ring (03 R40), and
those after it, stay. -/
def State.runActions (s : State) (lid : Nat) : Nat → State
  | 0 => s
  | fuel + 1 =>
    match s.launch? lid with
    | none => s
    | some l => match l.actions with
      | [] => if l.live = 0 then s.freeLaunch lid else s
      | a :: rest =>
        let s' := { s with launches := mset s.launches lid { l with actions := rest } }
        if a = 1 then
          let off := l.r.frame.off + l.r.barOff.toNat
          match s.actionSegs l true off with
          | .ok (g :: _) => (s'.arriveAt g 1).runActions lid fuel
          | .ok [] => s'.runActions lid fuel
          | .error none => s.requestPage (s.tableOf l.iface l.r.frame.obj) l.r.frame.obj off
          | .error (some c) => (s'.actionFault lid l c off).runActions lid fuel
        else if a = 2 then
          let r : Rec := ⟨l.r.thenOff, l.r.prio, l.r.place, l.r.need, .ofNat 48 l.r.frame.off,
            (if l.r.joinV then l.r.joinOff else BitVec.allOnes 32), lid, 0, 0⟩
          if s.ringFull l.home l.r.prio.toNat then s else
          (({ s with launches := mset s.launches lid { l with actions := rest, live := 1 } }).enqueue l.home l.r.prio.toNat (.one r) [] false).runActions lid fuel
        else
          let off := l.r.frame.off + l.r.joinOff.toNat
          match s.actionSegs l false off with
          | .ok g => if (s.releaseFull g).isSome then s else (s'.decJoin g).runActions lid fuel
          | .error none => s.requestPage (s.tableOf l.iface l.r.frame.obj) l.r.frame.obj off
          | .error (some c) => (s'.actionFault lid l c off).runActions lid fuel

/-- The launch completes, once (03 R33, R34). -/
def State.completeLaunch (s : State) (lid ender : Nat) : State :=
  match s.launch? lid with
  | none => s
  | some l =>
    let acts := (if l.r.barV then [1] else []) ++ (if l.r.thenV then [2] else []) ++ (if !l.r.thenV && l.r.joinV then [3] else [])
    ({ s with launches := mset s.launches lid { l with complete := true, actions := acts, ender := ender } }).runActions lid 4

/-- The live count falls by 1; at zero the launch completes, or a completed one is finished (03 R33). -/
def State.liveDown (s : State) (lid sid : Nat) : State :=
  match s.launch? lid with
  | none => s
  | some l =>
    let t := { s with launches := mset s.launches lid { l with live := l.live - 1 } }
    if l.live ≠ 1 then t
    else if l.complete then (if l.actions.isEmpty then t.freeLaunch lid else t)
    else t.completeLaunch lid sid

/-- The live count rises (03 R33). -/
def State.liveUp (s : State) (lid n : Nat) : State :=
  match s.launch? lid with
  | some l => { s with launches := mset s.launches lid { l with live := l.live + n } }
  | none => s

/-- The entry of a launch that has its ID can be enqueued (03 R40). -/
def State.startReady (s : State) (lid : Nat) : Bool :=
  match s.launch? lid with
  | some l => l.r.next == l.r.count || !s.ringFull l.home l.r.prio.toNat
  | none => true

/-- A launch that has its ID: its entry is enqueued at its home die, or it is complete at once (03 R33, R39). No ENDC completes
such a launch, and the message of an action of it names as its slot the one that launched it, or 0 for the launch register
(log 48). -/
def State.startLaunch (s : State) (lid sid : Nat) : State :=
  match s.launch? lid with
  | none => s
  | some l => if l.r.next = l.r.count then s.completeLaunch lid sid
    else s.enqueue l.home l.r.prio.toNat (.launch lid) [] false

/-! ### LAUNCH, LGROW, PRIO -/

/-- LAUNCH (08 R137). -/
def launch (a : BitVec 4) (s : State) : Res := do
  s.taskOnly
  s.room .C
  let c := s.rc a
  let segs ← s.access c { rd := true } c.off 64 64 [] false
  s.syncAccess segs false
  let v := s.readNat segs
  let pa := segsPa s segs
  let tags := c.cl && c.kind != 2
  let r := launchRec v (tags && s.mem.tag pa) (tags && s.mem.tag (pa + 16))
  match launchRefuses v r with
  | some 0 => .error s.illegal
  | some sub => .error (.trap 3 sub (s.ir.zeroExtend 64))
  | none =>
    match s.freeLid with
    | some lid => .ok ((s.issueOp .C (.launch lid) []).tableLaunch lid s.me.iface r (some (s.me.id / 16384)))
    | none =>
      let t := s.issueOp .C (.launchWait r) []
      .ok (({ t with waiting := t.waiting ++ [(⟨s.me.iface, r, some (s.me.id, s.nextOp)⟩ : Waiting)] } : State).parkMe (.launch s.nextOp))

/-- LAUNCH (08 R137). -/
def execLaunch (a : BitVec 4) (s : State) : Out := finish s (launch a s)

/-- LGROW (03 R35, 08 R138). -/
def execLgrow (a : BitVec 6) (s : State) : Out := finish s (do
  s.taskOnly
  let n := bits (s.rx a).toNat 31 0
  let lid := s.me.ctx.r.lid
  match s.launch? lid with
  | none => .error s.illegal
  | some l =>
    require (!l.complete && decide (l.r.count.toNat + n < 2 ^ 32)) s.illegal
    let queued := l.r.next != l.r.count
    require (n == 0 || queued || !s.ringFull l.home l.r.prio.toNat) (.park (.ring l.home l.r.prio.toNat))
    let t := s.issued
    let u := { t with launches := mset t.launches lid { l with r := { l.r with count := l.r.count + .ofNat 32 n }, live := l.live + n } }
    .ok (if n = 0 ∨ queued then u else u.enqueue l.home l.r.prio.toNat (.launch lid) [] false))

/-- PRIO (08 R139). -/
def execPrio (a : BitVec 6) (s : State) : Out := finish s (do
  s.taskOnly
  let p := s.rx a
  require (decide (p.toNat ≤ 15)) s.illegal
  let t := s.issued
  .ok { t with me := { t.me with ctx := { t.me.ctx with r := { t.me.ctx.r with prio := s.clampPrio s.me.iface (p.truncate 4) } } } })

/-! ### SPAWN and SPAWNJ -/

/-- A record pushed onto the tail of a core's deque; onto a full one the head first moves to its die queue (03 R40). -/
def State.pushDeque (s : State) (r : Rec) : State :=
  let c := s.core
  match c.deque with
  | h :: t => if c.deque.length = 64 then
      ({ s with core := { c with deque := t ++ [r] } }).enqueue (c.id / 128) h.prio.toNat (.one h) [] false
    else { s with core := { c with deque := c.deque ++ [r] } }
  | [] => { s with core := { c with deque := [r] } }

/-- A push onto a full deque waits while the ring that its head moves to is full (03 R40). -/
def State.dequeRoom (s : State) : Except Stop Unit :=
  match s.core.deque with
  | h :: _ => if s.core.deque.length = 64 then s.queueRoom (s.core.id / 128) h.prio.toNat else .ok ()
  | [] => .ok ()

/-- The code offset of a new record is accepted (08 R131). One that is refused, below 0 and misaligned ones
too, is a capability trap of sub-cause bounds, as a branch target's is (log 54). -/
def State.checkCoff (s : State) (coff : Int) : Except Stop Unit :=
  require (s.targetOk coff) (capTrap subBounds coff)

/-- SPAWN (08 R131). -/
def spawn (coff : Int) (join arg : BitVec 32) (s : State) : Res := do
  s.taskOnly
  s.checkCoff coff
  s.dequeRoom
  let r : Rec := { s.me.ctx.r with coff := BitVec.ofInt 48 coff, join := join, arg := arg }
  .ok ((s.issued.pushDeque r).liveUp s.me.ctx.r.lid 1)

/-- SPAWN code, joff, xa (08 R131). -/
def execSpawn (x j : BitVec 6) (o : BitVec 10) (s : State) : Out :=
  finish s (spawn (s.relTarget o.toInt) (if j = 63 then BitVec.allOnes 32 else .ofNat 32 (8 * j.toNat)) ((s.rx x).truncate 32) s)

/-- SPAWN xc, xj, xa (08 R131). -/
def execSpawnReg (x c j : BitVec 6) (s : State) : Out :=
  finish s (spawn (s.rx c).toNat ((s.rx j).truncate 32) ((s.rx x).truncate 32) s)

/-- The restart state with JOIN given up (08 R133). -/
def Restart.dropJoin : Restart → Restart
  | .fresh r => .fresh { r with join := BitVec.allOnes 32 }
  | .saved s => .saved { s with ctx := { s.ctx with r := { s.ctx.r with join := BitVec.allOnes 32 } } }

/-- SPAWNJ (08 R132, R133): one that its list holds after a restart completes at once; a seventeenth is illegal, which
ranks above the faults of the operands (07 R107). -/
def spawnj (coff : Int) (joff : BitVec 32) (s : State) : Res := do
  s.taskOnly
  let a := s.me.ctx.r.foff.toNat + joff.toNat
  if s.me.rerun && s.me.spawnj.contains (s.me.ctx.pc.toNat, a) then .ok s.issued
  else
    require (decide (s.me.spawnj.length < 16)) s.illegal
    s.checkCoff coff
    match s.launch? s.me.ctx.r.lid with
    | none => .error s.illegal
    | some l =>
      let segs ← s.joinSegs l.r.frame a
      s.syncAccess segs false
      let pa := segsPa s segs
      require (!s.joins.any (·.pa == pa)) s.illegal
      let w : Rec := { s.me.ctx.r with coff := BitVec.ofInt 48 coff, arg := 0 }
      let zero := s.readNat segs == 0
      require (zero || decide ((s.joins.filter (·.iface == s.me.iface)).length < s.joinCap s.me.iface)) (.park .join)
      require (!zero || !s.ringFull (s.me.id / 16384) w.prio.toNat) (.park (.ring (s.me.id / 16384) w.prio.toNat))
      let t := s.issued
      let u := { t with me := { t.me with
        ctx := { t.me.ctx with r := { t.me.ctx.r with join := BitVec.allOnes 32 } }
        spawnj := t.me.spawnj ++ [(s.me.ctx.pc.toNat, a)]
        restart := t.me.restart.dropJoin } }
      let v := if zero then u.enqueue (s.me.id / 16384) w.prio.toNat (.one w) [] false
        else { u with joins := u.joins ++ [⟨s.me.iface, pa, w, s.me.id / 16384⟩] }
      .ok (v.liveUp s.me.ctx.r.lid 1)

/-- SPAWNJ code, joff (08 R132). -/
def execSpawnj (j : BitVec 6) (o : BitVec 16) (s : State) : Out :=
  finish s (spawnj (s.relTarget o.toInt) (.ofNat 32 (8 * j.toNat)) s)

/-- SPAWNJ xc, xj (08 R132). -/
def execSpawnjReg (c j : BitVec 6) (s : State) : Out := finish s (spawnj (s.rx c).toNat ((s.rx j).truncate 32) s)

/-! ### Groups -/

/-- The group object a register names, checked (08 R140). -/
def State.groupSeg (s : State) (a : BitVec 4) : Except Stop Seg := do
  let c := s.rc a
  let segs ← s.access c ⟨true, true, true, false⟩ c.off 64 64 [] true
  match segs with
  | [g] => .ok { g with pa := s.canon g.pa }
  | _ => .error (capTrap subAlign c.off)

/-- The slot's membership of the group at a place. -/
def Slot.member? (sl : Slot) (pa : Nat) : Option Member := sl.groups.find? (·.seg.pa == pa)

/-- Where the group object lies that a register names, if that is known whatever the register permits. -/
def State.groupPlace (s : State) (a : BitVec 4) : Option Nat :=
  match s.stream s.me.id s.me.iface (s.rc a) (s.rc a).off 64 false with
  | .ok [g] => some (s.canon g.pa)
  | _ => none

/-- The register names a group that the slot is known not to belong to: an illegal LEAVE or GSYNC, which ranks above the
faults of its operand (07 R107, 08 R140). -/
def State.outsider (s : State) (a : BitVec 4) : Bool :=
  s.me.groups.isEmpty || (s.groupPlace a).any fun pa => (s.me.member? pa).isNone

/-- The register names a group that the slot is known to belong to: an illegal JOIN, which ranks above the faults of its
operand (07 R107; log 56). -/
def State.insider (s : State) (a : BitVec 4) : Bool := (s.groupPlace a).any fun pa => (s.me.member? pa).isSome

/-- The group object a register names; where it fails its checks and the instruction is known to be an illegal one, that ranks
above the failure (07 R107). -/
def State.groupOr (s : State) (a : BitVec 4) (wrong : Bool) : Except Stop Seg :=
  match s.groupSeg a with
  | .ok g => .ok g
  | .error e => .error (if wrong then s.illegal else e)

/-- JOIN (03 R51, 08 R140): a fifth group is illegal, which ranks above the faults of the operand (07 R107), and so is a
group that the slot belongs to or is still a pending joiner of (log 56). -/
def execJoin (a : BitVec 4) (s : State) : Out := finish s (do
  s.taskOnly
  require (decide (s.me.groups.length < 4)) s.illegal
  let g ← s.groupOr a (s.insider a)
  s.syncAccess [g] false
  require (s.me.member? g.pa).isNone s.illegal
  let o := s.group g
  let t := s.issued
  if o.members + o.joins + 1 ≥ 2 ^ 32 then .ok (t.joinGroup g)
  else .ok (({ t with me := { t.me with groups := t.me.groups ++ [(⟨g, true, .ofNat 32 o.phase, false⟩ : Member)] } } : State).joinGroup g))

/-- LEAVE (03 R51, 08 R140); by a member it is an arrival, a release (R52). -/
def execLeave (a : BitVec 4) (s : State) : Out := finish s (do
  s.taskOnly
  let g ← s.groupOr a (s.outsider a)
  match s.me.member? g.pa with
  | none => .error s.illegal
  | some m =>
    s.syncAccess [g] true
    let t := s.issued
    .ok (({ t with me := { t.me with groups := t.me.groups.filter (·.seg.pa != g.pa) } } : State).leaveGroup m))

/-- GSYNC (03 R51, R52, 08 R140): an arrival, a release; the slot parks. -/
def execGsync (a : BitVec 4) (s : State) : Out := finish s (do
  s.taskOnly
  let g ← s.groupOr a (s.outsider a)
  match s.me.member? g.pa with
  | none => .error s.illegal
  | some m =>
    s.syncAccess [g] true
    if m.pending then .ok (s.issuedPark (.group g.pa 2))
    else
      let t := s.issuedPark (.group g.pa 1)
      let u := { t with me := { t.me with groups := t.me.groups.map fun (k : Member) => if k.seg.pa = g.pa then { k with arrived := true } else k } }
      .ok (u.arriveGroup g))

/-! ### ENDC and COMMIT -/

/-- Every class count of the slot's level is zero. -/
def Slot.quiet (sl : Slot) : Bool := sl.ops.all fun o => o.lvl != sl.lvl

/-- A decrement that enqueues a waiting record waits while its ring is full (03 R40, R47). -/
def State.releaseRoom (s : State) (segs : List Seg) : Except Stop Unit :=
  match s.releaseFull segs with
  | some p => .error (.park (.ring p.1 p.2))
  | none => .ok ()

/-- A continuation has left its slot by ENDC or COMMIT: the marks of its last word have no effect (07 R83), unless another
instruction of the core has issued since. -/
def State.unmark (s : State) (sid : Nat) : State :=
  { s with core := { s.core with lastY := s.core.lastY && s.core.lastBy != sid } }

/-- The current slot's word is the one that the core has come to last (03 R55). -/
def State.latest (s : State) : State := { s with core := { s.core with lastBy := s.me.id } }

/-- No group that the slot leaves lies in a lost frame: the update of one that does fails unresolvably (10 R151, 28 R334). -/
def State.groupsThere (s : State) (sl : Slot) : Except Stop Unit :=
  match s.lost (sl.groups.map (·.seg)) with
  | some off => .error (.trap 4 0 (tval off))
  | none => .ok ()

/-- Steps 2 to 5 of 08 R134, once the counts have drained: the counter's checks, the decrement, the live count, the
groups, and the slot is freed. A group whose frame is lost makes its leaving fail, before any release (28 R334; log 65). -/
def endcRelease (s : State) : Res := do
  let sl := s.me
  match s.launch? sl.ctx.r.lid with
  | none => .ok ((s.freeSlot sl.id).unmark sl.id)
  | some l =>
    s.groupsThere sl
    let t ← if sl.ctx.r.join = BitVec.allOnes 32 then .ok s else do
      let segs ← s.joinSegs l.r.frame (sl.ctx.r.foff.toNat + sl.ctx.r.join.toNat)
      s.releaseRoom segs
      .ok (s.decJoin segs)
    .ok ((((t.leaveGroups sl.id).freeSlot sl.id).liveDown sl.ctx.r.lid sl.id).unmark sl.id)

/-- ENDC (08 R134): it stalls until its counts drain, and issues then. -/
def execEndc (s : State) : Out := finish s (do
  s.taskOnly
  if s.me.quiet then endcRelease s.latest else .ok (s.latest.parkMe (.endc s.ir)))

/-- ENDC_RELEASE (03 R46): the slot whose ENDC has drained. -/
def execEndcRelease (slot : Nat) (s : State) : Out :=
  let sl := s.slot slot
  match sl.block with
  | some (.endc w) =>
    if sl.quiet ∧ sl.trapPend = none then
      let t : State := { s.turnTo slot with ir := w }
      finish t (endcRelease t)
    else .next s
  | _ => .next s

/-- COMMIT's ply step (22 R297). -/
def Ctx.settle (c : Ctx) : Ctx :=
  { c with s := c.s.map fun r => { r with desc := r.desc &&& ~~~(1#128 <<< 20) } }

/-- The checkpoint of a slot (26 R316). -/
def State.checkpoint (s : State) (sl : Slot) (ctx : Ctx) : Saved :=
  let c := s.coreAt (sl.id / 128)
  { ctx := ctx, iface := sl.iface, tiles := sl.window.map fun p => vget c.tiles p Tile.zero
    accs := sl.accs.map fun a => (a, vget c.accs a Acc.zero) }

/-- COMMIT retires (08 R135): the ply step, the empty SPAWNJ list, the checkpoint at the word after it; with a
pre-emption request pending the continuation leaves its slot (03 R45). -/
def commitRetire (s : State) : State :=
  let sl := s.me
  let ctx := { sl.ctx.settle with pc := sl.ctx.pc + 4 }
  let cp := s.checkpoint sl ctx
  if sl.pre then (((s.leaveGroups sl.id).freeSlot sl.id).enqueue (sl.id / 16384) ctx.r.prio.toNat (.saved cp) [] false).unmark sl.id
  else { s with me := { sl with ctx := ctx, block := none, spawnj := [], rerun := false, restart := .saved cp } }

/-- COMMIT may retire: counts and results have drained, and the queue that a pre-empted continuation goes to has room
(08 R135, 03 R40). -/
def State.commitReady (s : State) (sl : Slot) : Bool :=
  sl.quiet && sl.pend.isEmpty && !(sl.pre && s.ringFull (sl.id / 16384) sl.ctx.r.prio.toNat)

/-- COMMIT (08 R135): it issues, with its G and Y (07 R83), and its slot stalls until its counts and results have drained and
it retires. -/
def execCommit (s : State) : Out := finish s (do
  s.taskOnly
  let t := s.issuedTo s.me.ctx.pc
  .ok (if t.commitReady t.me then commitRetire t else t.parkMe (.commit t.ir)))

/-- COMMIT_RETIRE (08 R135): the slot whose COMMIT has drained and whose results are visible. -/
def execCommitRetire (slot : Nat) (s : State) : Out :=
  let sl := (s.slot slot).deliver (s.coreAt (slot / 128)).cycle
  match sl.block with
  | some (.commit w) =>
    if s.commitReady sl ∧ sl.trapPend = none then
      .next (commitRetire { (s.setSlot sl).turnTo slot with ir := w })
    else .next s
  | _ => .next s

/-! ### Dispatch -/

/-- Placement, tile need, accumulators and priority of a queue item. -/
def State.itemNeeds (s : State) : Item → Nat × Nat × List Nat × Nat
  | .launch lid => match s.launch? lid with
    | some l => (l.r.place.toNat, l.r.need.toNat, [], l.r.prio.toNat)
    | none => (3, 15, [], 0)
  | .one r => (r.place.toNat, r.need.toNat, [], r.prio.toNat)
  | .saved v => (v.ctx.r.place.toNat, v.ctx.r.need.toNat, v.accs.map (·.1), v.ctx.r.prio.toNat)

/-- The item fits a core (03 R41); a general core has no tiles and no accumulators (02 R17). -/
def State.fits (s : State) (cid : Nat) (i : Item) : Bool :=
  let n := s.itemNeeds i
  let general := cid / 128 == 2
  (n.1 == 2 || (n.1 == 1) == general) && n.1 != 3 &&
  decide (n.2.1 ≤ (if general then 0 else (s.freeTiles cid).length)) &&
  n.2.2.1.all fun a => !general && !(s.accHeld cid a || s.accHandler cid a)

/-- The first fitting entry among the first k, with its position. -/
def State.firstFit (s : State) (cid : Nat) (any : Bool) (es : List Entry) (k : Nat) : Option Nat :=
  (List.range (min k es.length)).find? fun i => match es[i]? with
    | some e => s.fits cid e.item && (!any || (s.itemNeeds e.item).1 == 2)
    | none => false

/-- The highest level of a die with an entry. -/
def State.topLevel (s : State) (die : Nat) : Option Nat := ((List.range 16).reverse).find? fun p => !(s.queue die p).isEmpty

/-- Where a dispatch takes its record from. -/
inductive Source where
  | own
  | die (die prio pos : Nat)
  | steal (core : Nat)
  deriving DecidableEq, Repr

/-- The first level of a die, from the highest, whose first k entries hold one that fits. -/
def State.pickDie (s : State) (cid die k : Nat) (any : Bool) : Option Source :=
  (((List.range 16).reverse).findSome? fun p => (s.firstFit cid any (s.queue die p) k).map fun i => .die die p i)

/-- The dispatch order of 03 R41. -/
def State.source (s : State) (cid : Nat) : Option Source :=
  let c := s.coreAt cid
  let die := cid / 128
  let n := if die = 2 then 32 else 96
  let own := match c.deque.getLast? with
    | some r => s.fits cid (.one r) && (match s.topLevel die with | some p => decide (p ≤ r.prio.toNat) | none => true)
    | none => false
  if own then some .own else
  match s.pickDie cid die 8 false with
  | some x => some x
  | none =>
    let others := (List.range (n - 1)).map fun i => die * 128 + (cid % 128 + 1 + i) % n
    match others.find? (fun k => !(s.coreAt k).absent && (match (s.coreAt k).deque.head? with | some r => s.fits cid (.one r) | none => false)) with
    | some k => some (.steal k)
    | none => ((if die = 2 then [0, 1] else [2, 1 - die]).findSome? fun d => s.pickDie cid d 1 true)

/-- Dispatch of a record to a slot (03 R38, R44): registers set, tiles mapped and zeroed. -/
def State.place (s : State) (sid : Nat) (r : Rec) (sj : List (Nat × Nat)) (rerun : Bool) : State :=
  match s.launch? r.lid with
  | none => s
  | some l =>
    let cid := sid / 128
    let win := (s.freeTiles cid).take r.need.toNat
    let z := Ctx.zero
    let ctx := { z with
      pc := r.coff, r := r
      x := vset z.x 1 (r.arg.zeroExtend 64)
      c := vset (vset z.c 0 (l.r.code.setOff r.coff)) 1 (l.r.frame.setOff r.foff) }
    let core := s.coreAt cid
    (s.setCore { core with tiles := win.foldl (fun t p => vset t p Tile.zero) core.tiles }).setSlot
      { (s.slot sid).blank with busy := true, iface := l.iface, ctx := ctx, spawnj := sj, rerun := rerun, restart := .fresh r, window := win }

/-- Dispatch of a checkpoint (08 R135, 26 R316): the window is mapped anew, the same accumulators are claimed; TC14 and
TC15, which a checkpoint does not hold, are zero as at any dispatch (07 R89). -/
def State.placeSaved (s : State) (sid : Nat) (v : Saved) (sj : List (Nat × Nat)) (rerun : Bool) : State :=
  let cid := sid / 128
  let win := (s.freeTiles cid).take v.ctx.r.need.toNat
  let core := s.coreAt cid
  let tiles := (win.zip v.tiles).foldl (fun t p => vset t p.1 p.2) core.tiles
  let accs := v.accs.foldl (fun t p => vset t p.1 p.2) core.accs
  (s.setCore { core with tiles := tiles, accs := accs }).setSlot
    { (s.slot sid).blank with busy := true, iface := v.iface, ctx := { v.ctx with tc := vset (vset v.ctx.tc 14 0) 15 0 }, spawnj := sj, rerun := rerun, restart := .saved v, window := win, accs := v.accs.map (·.1) }

/-- An entry taken from a die queue onto a slot; a launch entry gives its next index and stays until its last
(03 R39). -/
def State.takeEntry (s : State) (sid die prio pos : Nat) : State :=
  match (s.queue die prio)[pos]? with
  | none => s
  | some e =>
    let gone := { s with queues := mset s.queues (die * 16 + prio) ((s.queue die prio).eraseIdx pos) }
    match e.item with
    | .one r => gone.place sid r e.sj e.rerun
    | .saved v => gone.placeSaved sid v e.sj e.rerun
    | .launch lid => match s.launch? lid with
      | none => gone
      | some l =>
        let i := l.r.next
        let r : Rec := ⟨.ofNat 48 l.r.code.off, l.r.prio, l.r.place, l.r.need,
          .ofNat 48 (l.r.frame.off + i.toNat * l.r.stride.toNat), BitVec.allOnes 32, lid, i, 0⟩
        let t := if i + 1 = l.r.count then gone else s
        ({ t with launches := mset t.launches lid { l with r := { l.r with next := i + 1 } } }).place sid r [] false

/-- The lowest-numbered idle slot of a core. -/
def State.idleSlot (s : State) (cid : Nat) : Option Nat := (coreSids cid).find? fun k => !(s.slot k).busy && (s.slot k).trapPend.isNone

/-- The oldest entry of a die: its level and position (03 R43). -/
def State.oldest (s : State) (die : Nat) : Option (Nat × Nat × Entry) :=
  let all := (List.range 16).flatMap fun p => (List.range (s.queue die p).length).filterMap fun i =>
    (s.queue die p)[i]?.map fun e => (p, i, e)
  all.foldl (fun b x => match b with | some y => if x.2.2.stamp < y.2.2.stamp then some x else b | none => some x) none

/-- The core can dispatch in this cycle: it is there, has an idle slot and has not dispatched yet (03 R41). A core that a
power hold keeps from issuing (02 R25) does not dispatch either (log 71). -/
def State.mayDispatch (s : State) (cid : Nat) : Bool :=
  let c := s.coreAt cid
  !c.absent && c.hold == 0 && (s.idleSlot cid).isSome && c.dispAt != s.clockOf cid + 1

/-- Two takes reach for one deque's head or into one die queue (03 R42). -/
def Source.rivals : Source → Source → Bool
  | .steal k, .steal j => k == j
  | .die d p _, .die e q _ => d == e && p == q
  | _, _ => false

/-- The cores of the three dies in the order of their numbers, and of their dies for one number (log 72). -/
def allCores : List Nat := (List.range 96).flatMap fun k => (List.range 3).filterMap fun d => if k < (if d = 2 then 32 else 96) then some (d * 128 + k) else none

/-- A core comes before another in logical core order (03 R42; log 72). -/
def coreBefore (a b : Nat) : Bool := decide (a % 128 < b % 128) || (a % 128 == b % 128 && decide (a < b))

/-- A core reaches for a source of 03 R41: it can dispatch in this cycle, and it is not one of those that an armed guard's
oldest entry goes to, which take that entry (03 R43). -/
def State.reaches (s : State) (gs : List Nat) (k : Nat) : Bool := s.mayDispatch k && !gs.contains k

/-- Another core comes first in this cycle (03 R42): the owner of a deque's last record, and for a deque's head or a die
queue the core that is before in logical core order. The cores gs take the entries of armed guards. -/
def State.outranked (s : State) (gs : List Nat) (cid : Nat) (x : Source) : Bool :=
  match x with
  | .own => false
  | .steal j => (s.reaches gs j && (s.coreAt j).deque.length == 1 && s.source j == some .own) ||
      (dieCores (cid / 128)).any fun k => decide (k < cid) && s.reaches gs k && (s.source k).any x.rivals
  | .die _ _ _ => allCores.any fun k => coreBefore k cid && s.reaches gs k && (s.source k).any x.rivals

/-- The cores that reach for the record that a core takes from a deque, and receive EMPTY (03 R42): thieves of the last
record that its owner takes, and of the head that another thief takes. The cores gs take the entries of armed guards. -/
def State.losers (s : State) (gs : List Nat) (cid : Nat) (x : Source) : List Nat :=
  let thieves (j : Nat) : List Nat := (dieCores (cid / 128)).filter fun k => k != cid && s.reaches gs k && s.source k == some (.steal j)
  match x with
  | .own => if (s.coreAt cid).deque.length = 1 then thieves cid else []
  | .steal j => thieves j
  | .die _ _ _ => []

/-- The core that the armed guard's oldest entry goes to: the lowest with an idle slot that it fits (03 R43). -/
def State.guardCore (s : State) (die : Nat) (e : Entry) : Option Nat :=
  (dieCores die).find? fun k => s.mayDispatch k && s.fits k e.item

/-- A die's guard. -/
def State.guard (s : State) (die : Nat) : Guard := vget s.guards die ⟨0, false, 0⟩

/-- A die's guard set. -/
def State.setGuard (s : State) (die : Nat) (g : Guard) : State := { s with guards := vset s.guards die g }

/-- The oldest entries that armed guards keep for the cores they go to: die, level and entry (03 R43). -/
def State.withheld (s : State) : List (Nat × Nat × Entry) :=
  (List.range 3).filterMap fun d => if (s.guard d).armed then
    (match s.oldest d with
      | some (p, _, e) => if (s.guardCore d e).isSome then some (d, p, e) else none
      | none => none) else none

/-- The cores that such entries go to. -/
def State.guarded (s : State) (l : List (Nat × Nat × Entry)) : List Nat := l.filterMap fun x => s.guardCore x.1 x.2.2

/-- The entries taken out of the heads of their queues. -/
def State.withhold (s : State) (l : List (Nat × Nat × Entry)) : State :=
  l.foldl (fun t x => { t with queues := mset t.queues (x.1 * 16 + x.2.1) (t.queue x.1 x.2.1).tail }) s

/-- The entries put back at the heads of their queues. -/
def State.giveBack (s : State) (l : List (Nat × Nat × Entry)) : State :=
  l.foldl (fun t x => { t with queues := mset t.queues (x.1 * 16 + x.2.1) (x.2.2 :: t.queue x.1 x.2.1) }) s

/-- A record taken from its source onto a slot of a core. -/
def State.take (s : State) (cid sid : Nat) : Source → State
  | .own => match (s.coreAt cid).deque.getLast? with
    | some r => (s.setCore { s.coreAt cid with deque := (s.coreAt cid).deque.dropLast }).place sid r [] false
    | none => s
  | .die d p i => s.takeEntry sid d p i
  | .steal k => match (s.coreAt k).deque with
    | r :: rest => (s.setCore { s.coreAt k with deque := rest }).place sid r [] false
    | [] => s

/-- The core's dispatch in this cycle is over: it has dispatched, or received EMPTY (03 R41, R42). -/
def State.dispatched (s : State) (cid : Nat) : State := s.setCore { s.coreAt cid with dispAt := s.clockOf cid + 1 }

/-- A die's guard disarms and its count restarts: its oldest entry has been served by a core, in that core's cycle
(03 R43). -/
def State.served (s : State) (die cid : Nat) : State := s.setGuard die ⟨0, false, s.clockOf cid + 1⟩

/-- A core of another die takes an armed guard's oldest entry, which no core of its own die can take: it has been served
(03 R43), in the cycle of the first of them. `t` is the state after the take. -/
def State.servedBy (s t : State) (l : List (Nat × Nat × Entry)) (x : Source) : State :=
  match x with
  | .die d p i =>
    if (s.guard d).armed && !(l.any (·.1 == d)) && ((s.oldest d).any fun o => o.1 == p && o.2.1 == i) then t.served d (d * 128) else t
  | _ => t

/-- An ordinary dispatch counts toward the next 63 of its die, but not in the cycle of the guard's own (03 R43). -/
def State.countDispatch (s : State) (cid : Nat) : State :=
  let g := s.guard (cid / 128)
  if g.armed ∨ g.served = s.clockOf cid + 1 then s else s.setGuard (cid / 128) { g with count := g.count + 1 }

/-- One dispatch of a core by 03 R41 and R42, with the oldest entries of armed guards kept for the cores they go to (R43): for
the other cores such an entry is not in its queue in that cycle, neither for step 1 nor among the first 8 (log 48). A
core that reaches for a deque's record in vain receives EMPTY, and tries again from step 1 in the next cycle. -/
def State.dispatch (s : State) (cid sid : Nat) : State :=
  let l := s.withheld
  let gs := s.guarded l
  let t := s.withhold l
  match t.source cid with
  | none => s
  | some x =>
    if t.outranked gs cid x then (match x with | .steal _ => s.dispatched cid | _ => s) else
    let u := (t.losers gs cid x).foldl State.dispatched (((t.take cid sid x).giveBack l).countDispatch cid)
    (s.servedBy u l x).dispatched cid

/-- DISPATCH (03 R41-R43): with the guard armed, its core takes the oldest entry and other cores go on uncounted. The
dispatch of one index of an oldest entry that is a launch entry counts as its serving, though the entry stays (log 48). -/
def execDispatch (core : Nat) (s : State) : Out :=
  let die := core / 128
  if s.module.boot ≠ .open_ ∨ 3 ≤ die ∨ !(dieCores die).contains core ∨ !s.mayDispatch core then .next s
  else match s.idleSlot core with
    | none => .next s
    | some sid =>
      match if (s.guard die).armed then s.oldest die else none with
      | some (p, i, e) =>
        if s.guardCore die e = some core then .next (((s.takeEntry sid die p i).served die core).dispatched core)
        else .next (s.dispatch core sid)
      | none => if !(s.guard die).armed ∧ 63 ≤ (s.guard die).count then .next s else .next (s.dispatch core sid)

/-- STARVATION_GUARD_ARM (03 R43): after 63 ordinary dispatches. -/
def execStarvationGuardArm (die : Nat) (s : State) : Out :=
  let g := s.guard die
  if 63 ≤ g.count ∧ die < 3 then .next { s with guards := vset s.guards die ⟨0, true, g.served⟩ } else .next s

/-- COMPLETION_ACTION_RESUME (03 R34): the actions of a completed launch go on. -/
def execCompletionActionResume (lid : Nat) (s : State) : Out :=
  match s.launch? lid with
  | some l => if l.complete ∧ !l.actions.isEmpty then .next (s.runActions lid 4) else .next s
  | none => .next s

/-- LAUNCH_ID_ASSIGN (03 R32): the n-th waiting record takes the lowest free ID. Which record is served first, and that a
new launch may take a freed ID ahead of those that wait, the spec leaves open (log 57). -/
def execLaunchIdAssign (n : Nat) (s : State) : Out :=
  match s.waiting[n]?, s.freeLid with
  | some w, some lid =>
    let t := { s with waiting := s.waiting.eraseIdx n }
    match w.from_ with
    | none => if s.launchRoom lid w.iface w.r then .next ((t.tableLaunch lid w.iface w.r none).startLaunch lid 0) else .next s
    | some (sid, op) =>
      let u := (t.tableLaunch lid w.iface w.r (some (sid / 16384))).onOp sid op fun o => { o with task := .launch lid }
      .next (u.onSlot sid fun sl => if sl.block = some (.launch op) then { sl with block := none } else sl)
  | _, _ => .next s

/-- A launch register write refused (28 R325). -/
def State.refuseLaunch (s : State) (i cause : Nat) : State :=
  s.setIface i { s.iface i with refused := (s.iface i).refused + 1, cause := .ofNat 8 cause }

/-- The tag the launch register gives a capability (03 R30): it is one that may be tagged (10 R143), its object's entry is
valid and its bounds lie within. -/
def State.registerTag (s : State) (i : Nat) (c : Cap) : Bool :=
  match s.objEntry i c.obj with
  | some e => c.ok && oeV e && decide (c.len ≤ oeLen e)
  | none => false

/-- Bytes written to the launch register from an offset in it on (03 R29, R30, R32, 28 R325). A launch complete at once has
slot 0 for a message of its actions (log 48). -/
def State.registerWrite (s : State) (iface off : Nat) (bytes : List Byte) : State :=
  if off ≠ 0 ∨ bytes.length ≠ 64 then s.refuseLaunch iface 2
  else if 64 ≤ (s.waiting.filter fun w => w.iface == iface && w.from_.isNone).length then s.refuseLaunch iface 3
  else
    let v := natOfBytes bytes
    let r0 := launchRec v true true
    let r := launchRec v (s.registerTag iface r0.code) (s.registerTag iface r0.frame)
    match launchRefuses v r with
    | some 0 => s.refuseLaunch iface 2
    | some _ => s.refuseLaunch iface 1
    | none => match s.freeLid with
      | some lid => if s.launchRoom lid iface r then (s.tableLaunch lid iface r none).startLaunch lid 0
        else { s with waiting := s.waiting ++ [⟨iface, r, none⟩] }
      | none => { s with waiting := s.waiting ++ [⟨iface, r, none⟩] }

/-- LAUNCH_REGISTER_WRITE (03 R29): a posted write, which comes after the interface's earlier ones (28 R324). -/
def execLaunchRegisterWrite (iface : Nat) (w : BarWrite) (s : State) : Out :=
  if s.module.boot ≠ .open_ ∨ (s.iface iface).stopped ∨ 128 ≤ iface then .next s
  else if (s.iface iface).posted.isEmpty then .next (s.registerWrite iface w.off w.bytes)
  else .next (s.setIface iface { s.iface iface with posted := (s.iface iface).posted ++ [⟨.register, w.off, w.bytes, 0⟩] })

/-- The launch status register (28 R325). -/
def State.launchStatus (s : State) (i : Nat) : Nat :=
  (s.iface i).refused.toNat + (s.iface i).cause.toNat * 2 ^ 32 +
    (s.waiting.filter fun w => w.iface == i && w.from_.isNone).length % 256 * 2 ^ 40

end Sys2Proof.Machine
end

