-- ==== Sys2Proof/Machine/Access.lean ====
section
/-! DEFINITION. Loads, stores, atomics, reductions, waits, knots and barrier objects (13 R184-R193, 12 R176, 03 R59),
and what they do when they are performed. -/

namespace Sys2Proof.Machine

/-! ### Loads and stores -/

/-- A load of n bytes at e (13 R187). -/
def load (c : Cap) (e : Int) (n align : Nat) (signed acq : Bool) (d : BitVec 6) (s : State) : Res := do
  s.room .L
  let segs ← s.access c { rd := true } e n align [] false
  .ok (s.issueOp .L (.load segs signed d acq) [])

/-- A store of the low n bytes of a register at e (13 R187). -/
def store (c : Cap) (e : Int) (n align : Nat) (rel : Bool) (v : XWord) (s : State) : Res := do
  s.room .S
  let segs ← s.access c { wr := true } e n align [] false
  .ok (s.issueOp .S (.store segs (bytesOf n v.toNat) rel) [])

/-- LD (13 R187). -/
def execLd (d : BitVec 6) (c : BitVec 4) (z : BitVec 2) (i : BitVec 10) (s : State) : Out :=
  finish s (load (s.rc c) (mbOff (s.rc c) (sizeOf z) i) (sizeOf z) 1 true false d s)
/-- LD with zero extension (13 R187). -/
def execLdZ (d : BitVec 6) (c : BitVec 4) (z : BitVec 2) (i : BitVec 10) (s : State) : Out :=
  finish s (load (s.rc c) (mbOff (s.rc c) (sizeOf z) i) (sizeOf z) 1 false false d s)
/-- ST (13 R187). -/
def execSt (v : BitVec 6) (c : BitVec 4) (z : BitVec 2) (i : BitVec 10) (s : State) : Out :=
  finish s (store (s.rc c) (mbOff (s.rc c) (sizeOf z) i) (sizeOf z) 1 false (s.rx v) s)
/-- LDX (13 R187). -/
def execLdx (d : BitVec 6) (c : BitVec 4) (z : BitVec 2) (x : BitVec 6) (e : BitVec 1) (s : State) : Out :=
  finish s (load (s.rc c) (mxOff (s.rc c) (sizeOf z) (s.rx x)) (sizeOf z) 1 (e == 0) false d s)
/-- STX (13 R187). -/
def execStx (v : BitVec 6) (c : BitVec 4) (z : BitVec 2) (x : BitVec 6) (s : State) : Out :=
  finish s (store (s.rc c) (mxOff (s.rc c) (sizeOf z) (s.rx x)) (sizeOf z) 1 false (s.rx v) s)
/-- LDA (13 R187): aligned to its size; an acquire. Every scope orders as the widest does, log 3. -/
def execLda (d : BitVec 6) (c : BitVec 4) (z : BitVec 2) (x : BitVec 6) (_p : BitVec 3) (e : BitVec 1) (s : State) : Out :=
  finish s (load (s.rc c) (mxOff (s.rc c) (sizeOf z) (s.rx x)) (sizeOf z) (sizeOf z) (e == 0) true d s)
/-- STL (13 R187): aligned to its size; a release. -/
def execStl (v : BitVec 6) (c : BitVec 4) (z : BitVec 2) (x : BitVec 6) (_p : BitVec 3) (s : State) : Out :=
  finish s (store (s.rc c) (mxOff (s.rc c) (sizeOf z) (s.rx x)) (sizeOf z) (sizeOf z) true (s.rx v) s)
/-- PREF (13 R188): no visible effect. -/
def execPref (_c : BitVec 4) (_z : BitVec 2) (_i : BitVec 10) (s : State) : Out := .next s.issued

/-- CLD (13 R184). -/
def execCld (d c : BitVec 4) (i : BitVec 10) (s : State) : Out := finish s (do
  s.room .L
  let cap := s.rc c
  let segs ← s.access cap { rd := true } (mbOff cap 16 i) 16 16 [] false
  .ok (s.issueOp .L (.loadCap segs (cap.cl && cap.kind != 2) d) []))

/-- The tag that CST stores (13 R185, 10 R145). -/
def cstTag (dst v : Cap) : Bool := dst.cs && v.tag && dst.kind != 2 && (v.gs || dst.kind != 3)

/-- CST (13 R185). -/
def execCst (v c : BitVec 4) (i : BitVec 10) (s : State) : Out := finish s (do
  s.room .S
  let cap := s.rc c
  let segs ← s.access cap { wr := true } (mbOff cap 16 i) 16 16 [] false
  .ok (s.issueOp .S (.storeCap segs { s.rc v with tag := cstTag cap (s.rc v) }) []))

/-! ### Atomics and reductions -/

/-- The new value of an AMO op other than fadd (13 R189). -/
def amoVal (op : Nat) (old v : XWord) : XWord :=
  if op = 0 then old + v else if op = 1 then old &&& v else if op = 2 then old ||| v else if op = 3 then old ^^^ v
  else if op = 4 then (if old.toInt < v.toInt then old else v) else if op = 5 then (if old.toInt < v.toInt then v else old)
  else if op = 6 then (if old.toNat < v.toNat then old else v) else if op = 7 then (if old.toNat < v.toNat then v else old)
  else v

/-- The pieces of [o, o + n) of an access. -/
def sliceSegs : List Seg → Nat → Nat → List Seg
  | [], _, _ => []
  | g :: gs, o, n =>
    if n = 0 then []
    else if g.len ≤ o then sliceSegs gs (o - g.len) n
    else
      let k := if g.len - o < n then g.len - o else n
      { g with pa := g.pa + o, len := k, off := g.off + o } :: sliceSegs gs 0 (n - k)

/-- A read-modify-write (13 R189); fadd, op 9, touches the low 4 bytes. The result is the old value. -/
def State.rmw (s : State) (segs : List Seg) (op : Nat) (v : XWord) : State × XWord :=
  if op = 9 then
    let g := sliceSegs segs 0 4
    let old := s.readNat g
    (s.writeSegs g (bytesOf 4 (Num.add32 old (bits v.toNat 31 0))), .ofNat 64 old)
  else
    let old : XWord := .ofNat 64 (s.readNat segs)
    (s.writeSegs segs (bytesOf 8 (amoVal op old v).toNat), old)

/-- A 5-bit destination as a specifier: 31 names xz (07 R87). -/
def dst5 (d : BitVec 5) : BitVec 6 := if d = 31 then 60 else d.zeroExtend 6

/-- The rights of atomics and reductions. -/
def rmwRights : Rights := ⟨true, true, true, false⟩

/-- AMO (13 R189). -/
def execAmo (o : BitVec 2) (d v : BitVec 5) (c p i : BitVec 4) (s : State) : Out := finish s (do
  s.room .L
  let cap := s.rc c
  let segs ← s.access cap rmwRights (immOff cap 8 i.toNat) 8 8 [2, 5] true
  .ok (s.issueOp .L (.amo segs p.toNat (s.rx5 v) d (o.getLsbD 0) (o.getLsbD 1)) []))

/-- CAS (13 R190). -/
def execCas (d v : BitVec 5) (c i : BitVec 4) (o : BitVec 2) (f : BitVec 1) (s : State) : Out := finish s (do
  s.room .L
  let cap := s.rc c
  let segs ← s.access cap rmwRights (immOff cap 8 i.toNat) 8 8 [2, 5] true
  .ok (s.issueOp .L (.cas segs (s.rx5 d) (s.rx5 v) d (o.getLsbD 0) (o.getLsbD 1) (f == 1)) []))

/-- RED's op as an AMO op: code 8 is fadd (13 R191). -/
def redOp (p : BitVec 4) : Nat := if p.toNat = 8 then 9 else p.toNat

/-- RED (13 R191). -/
def execRed (v : BitVec 6) (c p : BitVec 4) (o : BitVec 1) (i : BitVec 6) (s : State) : Out := finish s (do
  s.room .S
  let cap := s.rc c
  let e := immOff cap 8 i.toNat
  let gs ← s.portAccess cap rmwRights e 8 8 [2, 5]
  .ok (s.issueOp .S (.red cap (redOp p) (o == 1 || cap.kind == 1)
    [(e.toNat, portPart gs e.toNat (redBytes (redOp p)), (s.rx v).toNat)]) []))

/-- The contributions of REDV at e: 32 elements of 64 bits, or 64 of FP32 (13 R191). -/
def redvVals (gs : List (Nat × Option Seg)) (e op v : Nat) : List (Nat × List Seg × Nat) :=
  let b := redBytes op
  (List.range (256 / b)).map fun k => (e + b * k, portPart gs (e + b * k) b, bits v (8 * b * k + (8 * b - 1)) (8 * b * k))

/-- REDV (13 R191). -/
def execRedv (v : BitVec 5) (c p : BitVec 4) (o : BitVec 1) (i : BitVec 6) (s : State) : Out := finish s (do
  s.room .S
  let cap := s.rc c
  let e := immOff cap 8 i.toNat
  let gs ← s.portAccess cap rmwRights e 256 8 [2, 5]
  .ok (s.issueOp .S (.red cap (redOp p) (o == 1 || cap.kind == 1) (redvVals gs e.toNat (redOp p) (s.rv v).toNat)) []))

/-! ### Waits, knots and barrier objects -/

/-- WAIT (03 R59, 13 R192). -/
def execWait (l g : BitVec 5) (c t h : BitVec 4) (s : State) : Out :=
  if s.me.within l.toNat g.toNat c.toNat t.toNat h.toNat then .next s.issued
  else .next (s.issuedPark (.counts l.toNat g.toNat c.toNat t.toNat h.toNat))

/-- KNOT (12 R176, 26 R309): parks until the earlier operations of this level in the masked classes are performed; on a
general core the t and a bits wait for nothing. -/
def execKnot (m : BitVec 5) (_p : BitVec 3) (s : State) : Out :=
  let mask := if s.general then m &&& 0b11100 else m
  let ids := (s.me.ops.filter fun o => o.lvl == s.me.lvl && o.knot mask).map (·.id)
  if ids.isEmpty then .next s.issued else .next (s.issuedPark (.ops ids))

/-- The 40-bit count in a register (13 R193). -/
def units (x : XWord) : Nat := bits x.toNat 39 0

/-- BINIT (13 R193). -/
def execBinit (c : BitVec 4) (x : BitVec 6) (i : BitVec 9) (s : State) : Out := finish s (do
  s.room .S
  let g ← s.barObject (s.rc c) rmwRights (immOff (s.rc c) 16 i.toNat)
  .ok (s.issueOp .S (.binit g (units (s.rx x))) []))
/-- BARR (13 R193). -/
def execBarr (c : BitVec 4) (x : BitVec 6) (i : BitVec 9) (s : State) : Out := finish s (do
  s.room .S
  let g ← s.barObject (s.rc c) rmwRights (immOff (s.rc c) 16 i.toNat)
  .ok (s.issueOp .S (.barr g (units (s.rx x))) []))
/-- BWAIT (13 R193): done where PHASE differs from p, else registered on the object. -/
def execBwait (c : BitVec 4) (p : BitVec 1) (i : BitVec 9) (s : State) : Out := finish s (do
  let g ← s.barObject (s.rc c) { rd := true } (immOff (s.rc c) 16 i.toNat)
  s.syncAccess [g] false
  if bits (s.readNat [g]) 80 80 = p.toNat then .ok (s.issuedPark (.barrier (s.canon g.pa))) else .ok s.issued)
/-- BTEST (13 R193): the slot stalls until the value is there; the result is not pushed. -/
def execBtest (c : BitVec 4) (d : BitVec 6) (i : BitVec 9) (s : State) : Out := finish s (do
  let g ← s.barObject (s.rc c) { rd := true } (immOff (s.rc c) 16 i.toNat)
  s.syncAccess [g] false
  .ok (s.produce 1 (.x d (.ofNat 64 (bits (s.readNat [g]) 81 40))) false))

/-! ### What they do when they are performed -/

/-- The value of a load (13 R187). -/
def loadVal (signed : Bool) (n v : Nat) : XWord := if signed then sextAt (.ofNat 64 v) (8 * n - 1) else .ofNat 64 v

/-- A register of the operation's slot written, while its continuation runs there (03 R58). -/
def State.deposit (s : State) (sid : Nat) (live : Bool) (w : RegWrite) : State :=
  if live then s.onSlot sid fun sl => { sl with ctx := sl.ctx.write w } else s

/-- The slot's results that are due are visible before a later write (03 R56, R58). -/
def State.settleDue (s : State) (sid : Nat) : State :=
  s.onSlot sid fun sl => sl.deliver (s.coreAt (sid / 128)).cycle

/-- The bytes of pieces. -/
def segsLen (segs : List Seg) : Nat := (segs.map (·.len)).sum

/-- A capability stored (13 R185). -/
def State.putCap (s : State) (segs : List Seg) (v : Cap) : State :=
  let t := s.writeSegs segs (bytesOf 16 v.raw.toNat)
  { t with mem := t.mem.setTag (segsPa t segs) v.tag }

/-- BINIT performed: EXPECTED set, ARRIVED and ERR cleared, PHASE kept (13 R193). -/
def State.initBarrier (s : State) (g : Seg) (n : Nat) : State :=
  s.writeSegs [g] (bytesOf 16 (n + bits (s.readNat [g]) 80 80 * 2 ^ 80))

/-- BARR performed (13 R193, 10 R158): 0 units change nothing while some are expected. -/
def State.arriveUnits (s : State) (g : Seg) (n : Nat) : State :=
  if n = 0 ∧ bits (s.readNat [g]) 39 0 ≠ 0 then s else s.arriveAt g n

/-- An access of class L or S performed. CLD of a tagged granule whose bits read garbled, since another key wrote them or a
write under another key garbled the block (10 R162), gives a capability of those bits with its tag (log 73). -/
def State.performAccess (s : State) (sid : Nat) (live : Bool) : Task → State
  | .load segs sg d _ => s.deposit sid live (.x d (loadVal sg (segsLen segs) (s.readNat segs)))
  | .loadCap segs keep d =>
    s.deposit sid live (.c d ⟨.ofNat 128 (s.readNat segs), keep && s.mem.tag (segsPa s segs)⟩)
  | .store segs bs _ => s.writeSegs segs bs
  | .storeCap segs v => s.putCap segs v
  | .amo segs op v d _ _ => let r := s.rmw segs op v; r.1.deposit sid live (.x (dst5 d) r.2)
  | .cas segs exp new d _ _ _ =>
    let old : XWord := .ofNat 64 (s.readNat segs)
    (if old = exp then s.writeSegs segs (bytesOf 8 new.toNat) else s).deposit sid live (.x (dst5 d) old)
  | .binit g n => s.initBarrier g n
  | .barr g n => s.arriveUnits g n
  | _ => s

end Sys2Proof.Machine
end

