-- ==== Sys2Proof/Machine/Copy.lean ====
section
/-! DEFINITION. Copy-group commands (13 R194-R202), chunks and spill queues (10 R152-R155), page moves (10 R159, R160). -/

namespace Sys2Proof.Machine

/-! ### Streams of commands -/

/-- What became of a unit of a command. -/
inductive UnitRes (α : Type) where
  | ok (a : α)
  /-- A page of this object at this offset is not present. -/
  | absent (oid off : Nat)
  /-- An unresolvable fault: its cause and the element's offset (28 R327). -/
  | bad (cause off : Nat)

/-- The pieces of a stream access as a unit's outcome. -/
def State.segsOf (s : State) (sid iface : Nat) (c : Cap) (f n : Nat) (write : Bool) : UnitRes (List Seg) :=
  match s.stream sid iface c f n write with
  | .ok g => .ok g
  | .error (o, .absent) => .absent c.obj o
  | .error (o, .bad k) => .bad k o
  | .error (o, _) => .bad 4 o

/-- What a unit gives that counts into a barrier object: one whose frame is lost is an unresolvable fault of it (28 R334). -/
def State.withBar {α : Type} (s : State) (b : Bar) (r : UnitRes α) : UnitRes α :=
  match s.barLost b with
  | some off => .bad 11 off
  | none => r

/-- The pieces that an operation holds, unless a frame of them is lost (28 R334). -/
def State.heldSegs (s : State) (segs : List Seg) : UnitRes (List Seg) :=
  match s.lost segs with
  | some off => .bad 11 off
  | none => .ok segs

/-- Source and destination pieces of a chunk. -/
def State.chunkSegs (s : State) (sid iface : Nat) (src dst : Cap) (f g n : Nat) : UnitRes (List Seg × List Seg) :=
  match s.segsOf sid iface src f n false with
  | .absent a b => .absent a b
  | .bad a b => .bad a b
  | .ok x => match s.segsOf sid iface dst g n true with
    | .absent a b => .absent a b
    | .bad a b => .bad a b
    | .ok y => .ok (x, y)

/-- The tags of k whole granules carried (10 R145). -/
def carryTags (old : Memory) (src dst : Nat) : Nat → Memory → Memory
  | 0, m => m
  | k + 1, m => (carryTags old src dst k m).setTag (dst + 16 * k) (old.tag (src + 16 * k))

/-- A chunk moved. -/
def State.moveChunk (s : State) (g : List Seg × List Seg) (tags : Bool) : State :=
  let t := s.writeSegs g.2 (s.readSegs g.1)
  match tags, g.1, g.2 with
  | true, a :: _, b :: _ => { t with mem := carryTags s.mem (s.canon a.pa) (s.canon b.pa) (a.len / 16) t.mem }
  | _, _, _ => t

/-- The message of a command that stops (10 R154, 28 R327). -/
def State.stopMessage (s : State) (sid : Nat) (o : Op) (unit cause off resume masks : Nat) : State :=
  s.postFault o.iface { masks := masks, resume := resume, offset := off, cmd := o.word.toNat, lid := o.lid, slot := sid, unit := unit, cause := cause }

/-- An operation's task replaced; it has begun writing where b holds. -/
def State.setTask (s : State) (sid id : Nat) (t : Task) (b : Bool) : State :=
  s.onOp sid id fun o => { o with task := t, begun := o.begun || b }

/-! ### Issue checks -/

/-- A copy-group range: its capability, its first offset and its length. -/
structure Range where
  cap : Cap
  off : Nat
  len : Nat
  deriving DecidableEq, Repr

/-- Two ranges of one command overlap (13 R194). -/
def Range.overlaps (a b : Range) : Bool :=
  a.cap.obj == b.cap.obj && a.cap.kind == b.cap.kind && meets a.off a.len b.off b.len

/-- A destination list (13 R196): N and the capabilities. -/
def State.destList (s : State) (c : Cap) : Except Stop (List Cap) := do
  let e : Int := c.off
  let r : Rights := ⟨true, false, false, true⟩
  s.checkRange c r e 16
  let head ← s.access c r e 16 16 [] false
  s.syncCommand
  let n := s.readNat head % 256
  require (decide (1 ≤ n) && decide (n ≤ 16)) (capTrap subBounds e)
  s.checkRange c r e (16 + 16 * n)
  foldE (fun (l : List Cap) (k : Nat) => do
    let segs ← s.access c r (e + 16 + 16 * (k : Int)) 16 16 [] false
    .ok (l ++ [s.readCap c segs])) [] (List.range n)

/-- A trap of a destination's check, with its place in the list as TVAL (12 R181). -/
def atIndex (k : Nat) : Except Stop Unit → Except Stop Unit
  | .error (.trap c sub _) => .error (.trap c sub (.ofNat 64 k))
  | r => r

/-- Destinations checked in list order for n bytes each. -/
def State.checkDests (s : State) (r : Rights) (kinds : List Nat) (n : Nat) : Nat → List Cap → Except Stop Unit
  | _, [] => .ok ()
  | k, c :: cs => do
    atIndex k (do
      s.checkRange c r c.off n
      require (kinds.contains c.kind) (capTrap subRights c.off))
    s.checkDests r kinds n (k + 1) cs

/-- No two ranges of a command overlap; TVAL is the later one's offset. -/
def noOverlap : List Range → Except Stop Unit
  | [] => .ok ()
  | a :: as => do
    foldE (fun _ b => require (!a.overlaps b) (capTrap subBounds b.off)) () as
    noOverlap as

/-- A counted total below 2^40 (13 R194). -/
def lengthOk (total n : Nat) : Except Stop Unit := require (decide (total < 2 ^ 40)) (capTrap subBounds n)

/-- The scratchpad ranges of a command (10 R161): the first is read, the others written. -/
def spRanges (src : Range) (dsts : List Range) : List (Nat × Nat × Bool) :=
  spRange src.cap src.off src.len false ++ dsts.flatMap fun d => spRange d.cap d.off d.len true

/-- A copy-group command issues; one without bytes completes at once. -/
def State.issueCopy (s : State) (t : Task) (empty : Bool) (sp : List (Nat × Nat × Bool)) : Res :=
  if empty then .ok s.issued else do
    s.boardRoom sp.length
    .ok (s.issueOp .C t sp)

/-! ### COPY, COPY.m and COPYR -/

/-- The chunks of [a, b) counted from the two ranges' offsets (10 R155): at most 4 KiB, crossing no 64 KiB boundary of
either side, as long as that allows; log 9. -/
def chunks (src dst : Nat) : Nat → Nat → Nat → List (Nat × Nat)
  | 0, _, _ => []
  | fuel + 1, a, b =>
    if b ≤ a then [] else
    let n := min (min 4096 (b - a)) (min (65536 - (src + a) % 65536) (65536 - (dst + a) % 65536))
    (a, n) :: chunks src dst fuel (a + n) b

/-- The pieces of a copy to one destination. -/
def copyPieces (src dst : Cap) (k a b : Nat) : List Piece :=
  (chunks src.off dst.off ((b - a) / 2048 + 4) a b).map fun p => ⟨k, p.1, p.2, false, false, false⟩

/-- COPY and COPYR (13 R195, R201): bytes f to t - 1 of a copy. Where the counted total reaches 2^40, TVAL is t - f, the
length of what is copied (log 60). -/
def copyIssue (d c b : BitVec 4) (i : BitVec 4) (f t : Nat) (s : State) : Res := do
  s.room .C
  require (decide (f ≤ t)) (capTrap subBounds f)
  let src := s.rc c
  let dst := s.rc d
  let n := t - f
  s.checkRange src { rd := true } (src.off + f : Nat) n
  s.checkRange dst { wr := true } (dst.off + f : Nat) n
  noOverlap [⟨src, src.off + f, n⟩, ⟨dst, dst.off + f, n⟩]
  lengthOk n n
  let bar ← s.barOperand b i.toNat
  let tags := src.cl && dst.cs && src.kind != 2 && dst.kind != 2 && (src.off + f) % 16 == 0 && (dst.off + f) % 16 == 0
  s.issueCopy (.copy src [dst] (copyPieces src dst 0 f t) [] tags bar) (n == 0)
    (spRanges ⟨src, src.off + f, n⟩ [⟨dst, dst.off + f, n⟩])

/-- COPY (13 R195). -/
def execCopy (d c : BitVec 4) (x : BitVec 6) (b i : BitVec 4) (s : State) : Out :=
  finish s (copyIssue d c b i 0 (s.rx x).toNat s)

/-- COPYR (13 R201): x(xl + 1) holds the offset to resume from. -/
def execCopyr (d c : BitVec 4) (x : BitVec 6) (b i : BitVec 4) (s : State) : Out := finish s (do
  require (x.toNat % 2 == 0 && decide (x.toNat ≤ 46)) s.illegal
  copyIssue d c b i (s.rx (x + 1)).toNat (s.rx x).toNat s)

/-- COPY.m (13 R196). -/
def execCopyM (d c : BitVec 4) (x : BitVec 6) (b i : BitVec 4) (s : State) : Out := finish s (do
  s.room .C
  let src := s.rc c
  let n := (s.rx x).toNat
  s.checkRange src { rd := true } src.off n
  let dsts ← s.destList (s.rc d)
  s.checkDests { wr := true } [0, 1, 2, 3, 4] n 0 dsts
  let rs := dsts.map fun c => (⟨c, c.off, n⟩ : Range)
  noOverlap (⟨src, src.off, n⟩ :: rs)
  lengthOk (n * dsts.length) n
  let bar ← s.barOperand b i.toNat
  s.issueCopy (.copy src dsts ((List.range dsts.length).flatMap fun k => copyPieces src (dsts.getD k Cap.null) k 0 n) [] false bar)
    (n == 0) (spRanges ⟨src, src.off, n⟩ rs))

/-! ### Spill queues -/

/-- The port in whose spill queue an element of a page that is not present waits: of the stack of ROOT, by the offset's
bits [9:8] (10 R150, R152); log 19. -/
def State.spillPort (s : State) (iface oid off : Nat) : Nat :=
  match s.objEntry (s.tableOf iface oid) oid with
  | some e => bits (oeRoot e) 38 36 * 4 + bits off 9 8
  | none => 0

/-- The entry stands for this element of an operation. -/
def Spill.names (e : Spill) (sid id key : Nat) : Bool := e.slot == sid && e.op == id && e.key == key

/-- The elements in a port's spill queue: those that have been performed have left it (10 R152). -/
def State.spillQueue (s : State) (port : Nat) : List Spill := s.spills.filter fun e => e.port == port && e.val.isNone

/-- A spill queue is full (10 R152). -/
def State.spillFull (s : State) (port : Nat) : Bool := decide (64 ≤ (s.spillQueue port).length)

/-- An element has been taken into a spill queue, and its consumer has not received it yet. -/
def State.diverted (s : State) (sid id key : Nat) : Bool := s.spills.any (·.names sid id key)

/-- An element waits in a spill queue for its page. -/
def State.queued (s : State) (sid id key : Nat) : Bool := s.spills.any fun e => e.names sid id key && e.val.isNone

/-- Some element of an operation waits in a spill queue. -/
def State.inFlight (s : State) (sid id : Nat) : Bool := s.spills.any fun e => e.slot == sid && e.op == id && e.val.isNone

/-- What an element read before its turn, with the D bit of its page (10 R152, R153). -/
def State.heldVal (s : State) (sid id key : Nat) : Option (Bool × Nat) := (s.spills.find? (·.names sid id key)).bind (·.val)

/-- The port takes the element at f of an object: its queue is not full, or the element is one that it has taken (10 R152). -/
def State.accepts (s : State) (sid : Nat) (o : Op) (key : Nat) (c : Cap) (f : Nat) : Bool :=
  c.kind == 1 || c.kind == 2 || s.diverted sid o.id key || !s.spillFull (s.spillPort o.iface c.obj f)

/-- An element whose page is not present enters a spill queue, if there is room, and the page is asked for (10 R152). -/
def State.divert (s : State) (sid : Nat) (o : Op) (key oid off : Nat) : State :=
  let port := s.spillPort o.iface oid off
  let table := s.tableOf o.iface oid
  if s.diverted sid o.id key then s.requestPage table oid off
  else if s.spillFull port then s
  else { s.requestPage table oid off with spills := s.spills ++ [(⟨port, sid, o.id, key, oid, off, none⟩ : Spill)] }

/-- An element that has been performed, or dropped, leaves its queue. -/
def State.undivert (s : State) (sid id key : Nat) : State :=
  { s with spills := s.spills.filter fun e => !e.names sid id key }

/-- Every element of an operation leaves its queue. -/
def State.undivertAll (s : State) (sid id : Nat) : State :=
  { s with spills := s.spills.filter fun e => !(e.slot == sid && e.op == id) }

/-- An element that was to be received in its turn has been performed: it leaves its queue with what it read (10 R152). -/
def State.holdVal (s : State) (sid id key : Nat) (v : Bool × Nat) : State :=
  { s with spills := s.spills.map fun e => if e.names sid id key then { e with val := some v } else e }

/-- An element of a stream: its name among those of the operation, its capability, its offset and its length. -/
structure Elem where
  key : Nat
  cap : Cap
  off : Nat
  len : Nat
  deriving DecidableEq, Repr

/-- The ports take every element of a stream. -/
def State.acceptsAll (s : State) (sid : Nat) (o : Op) (els : List Elem) : Bool :=
  els.all fun e => s.accepts sid o e.key e.cap e.off

/-- The elements of a stream that are received in stream order, by their names and what their translation gives (10 R153):
those whose pages are not present are diverted, up to one that stops the command or that its port does not take. -/
def State.divertEach {α : Type} (s : State) (sid : Nat) (o : Op) : List (Nat × UnitRes α) → State
  | [] => s
  | (_, .ok _) :: es => s.divertEach sid o es
  | (_, .bad _ _) :: _ => s
  | (key, .absent oid off) :: es =>
    if (s.heldVal sid o.id key).isSome then s.divertEach sid o es else
    let t := s.divert sid o key oid off
    if t.diverted sid o.id key then t.divertEach sid o es else t

/-- The elements of a stream diverted whose pages are not present. -/
def State.divertAll (s : State) (sid : Nat) (o : Op) (write : Bool) (els : List Elem) : State :=
  s.divertEach sid o (els.map fun e => (e.key, s.segsOf sid o.iface e.cap e.off e.len write))

/-- The bytes that an element reads now, with the D bit of its page. -/
def State.readElem (s : State) (sid iface : Nat) (e : Elem) : UnitRes (Bool × Nat) :=
  match s.segsOf sid iface e.cap e.off e.len false with
  | .ok g => .ok (g.any (·.d), s.readNat g)
  | .absent a b => .absent a b
  | .bad a b => .bad a b

/-- What an element of a stream gives its consumer in its turn: what it read before, or reads now (10 R153). -/
def State.receive (s : State) (sid : Nat) (o : Op) (e : Elem) : UnitRes (Bool × Nat) :=
  match s.heldVal sid o.id e.key with
  | some v => .ok v
  | none => s.readElem sid o.iface e

/-- The values that the elements of a stream give, or the first that gives none. -/
def State.receiveAll (s : State) (sid : Nat) (o : Op) : List Elem → UnitRes (List Nat)
  | [] => .ok []
  | e :: es => match s.receive sid o e with
    | .absent a b => .absent a b
    | .bad a b => .bad a b
    | .ok v => match s.receiveAll sid o es with
      | .ok vs => .ok (v.2 :: vs)
      | r => r

/-- An unresolvable fault on an element (10 R154): the operation stops, with a message of a unit if it has not stopped before.
Its elements in flight complete. -/
def State.haltAs (s : State) (sid : Nat) (o : Op) (unit cause off : Nat) : State :=
  if o.halted then s
  else (s.onOp sid o.id fun x => { x with halted := true }).stopMessage sid o unit cause off 0 0

/-- The same of a memory port. -/
def State.halt (s : State) (sid : Nat) (o : Op) (cause off : Nat) : State := s.haltAs sid o 1 cause off

/-- An operation that has stopped takes up only the elements that wait in spill queues (10 R154). -/
def State.skips (s : State) (sid : Nat) (o : Op) (key : Nat) : Bool := o.halted && !s.diverted sid o.id key

/-- The elements of a stream that is written in stream order (10 R153), with the bytes of each: written from the first on, up to
one whose page is not present, when the later ones whose pages are not present are diverted meanwhile, or one that its port does
not take. After an unresolvable fault only those that wait in spill queues are written (10 R154). `keep` is the operation's task
with the elements that are left. -/
def State.putStream (s : State) (sid : Nat) (o : Op) (data : Elem → List Byte) (keep : List Elem → Task) : List Elem → State
  | [] => s.dropOp sid o.id
  | e :: es =>
    if s.skips sid o e.key then s.putStream sid o data keep es else
    let wait := s.setTask sid o.id (keep (e :: es)) false
    if !s.accepts sid o e.key e.cap e.off then wait else
    match s.segsOf sid o.iface e.cap e.off e.len true with
    | .ok g => (((s.writeSegs g (data e)).undivert sid o.id e.key).setTask sid o.id (keep es) true).putStream sid o data keep es
    | .absent _ _ => wait.divertAll sid o true ((e :: es).filter fun x => !s.skips sid o x.key)
    | .bad k f => ((s.undivert sid o.id e.key).halt sid o k f).putStream sid { o with halted := true } data keep es

/-- The bytes that the elements of a stream give their consumer, in stream order, up to one that meets an unresolvable fault,
with its cause and offset (10 R153, R154); or a page to wait for. -/
def State.receiveBytes (s : State) (sid : Nat) (o : Op) : List Elem → UnitRes (List Byte × Option (Nat × Nat))
  | [] => .ok ([], none)
  | e :: es => match s.receive sid o e with
    | .absent a b => .absent a b
    | .bad k f => .ok ([], some (k, f))
    | .ok v => match s.receiveBytes sid o es with
      | .ok r => .ok (bytesOf e.len v.2 ++ r.1, r.2)
      | r => r

/-- An operation has nothing left to do but to leave its class; it has begun writing where b holds. -/
def State.endTask (s : State) (sid id : Nat) (b : Bool) : State :=
  s.onOp sid id fun o => { o with task := o.task.ended, begun := o.begun || b }

/-- A stopped operation leaves its class, once no element of it waits in a spill queue (10 R154). -/
def State.stopOp (s : State) (sid id : Nat) : State :=
  if s.inFlight sid id then s.endTask sid id true else s.dropOp sid id

/-- The page that an entry of a spill queue waits for is present, or its element fails. -/
def State.present (s : State) (sid iface oid off : Nat) : Bool :=
  match s.objEntry iface oid with
  | some e => s.xStream sid iface (oeKind e) oid off 1 false != .absent
  | none => true

/-- The name of a piece in a spill queue. -/
def Piece.key (p : Piece) : Nat := p.dst * 2 ^ 64 + p.off

/-- The pieces with those in a spill queue so marked that meet a test. -/
def markSpilled (todo : List Piece) (p : Piece) : List Piece := todo.map fun q => if q = p then { q with spilled := true } else q

/-! ### Chunks -/

/-- A chunk of a copy that has been issued, and is not performed yet. -/
def Piece.out (p : Piece) : Bool := p.spilled || p.issued

/-- The chunks of a stream below one that is performed, or goes to a spill queue, have been issued: the chunks of a stream are
issued in offset order (10 R155, 12 R181; log 27). -/
def markIssued (todo : List Piece) (p : Piece) : List Piece :=
  todo.map fun q => if q.dst = p.dst ∧ q.off < p.off then { q with issued := true } else q

/-- A copy's chunks after an unresolvable fault of q (10 R154, R155): those of its stream below it go on, and those above it
that have been issued, uncounted; of the other streams of COPY.m those that have been issued. No further chunk is issued. -/
def stopPieces (todo : List Piece) (q : Piece) : List Piece :=
  ((markIssued todo q).filter fun r => r.out && !(r.dst == q.dst && r.off == q.off)).map fun r =>
    if r.dst = q.dst ∧ q.off < r.off then { r with late := true } else r

/-- The other destinations of a COPY.m that a fault of q keeps from being written whole: each stops at its lowest chunk that has
not been issued, with the cause and the offset of the fault (13 R202; log 83). -/
def otherStops (n : Nat) (todo : List Piece) (stops : List CopyStop) (q : Piece) (cause off : Nat) : List CopyStop :=
  (List.range n).filterMap fun k =>
    if k = q.dst ∨ stops.any (·.dst == k) then none
    else (todo.find? fun r => r.dst == k && !r.out).map fun r => ⟨k, r.off, cause, off, false⟩

/-- The messages of the destinations that have stopped and have nothing left below their stop unit (13 R202); their OFFSET
counts within the object, log 59. -/
def State.copySettle (s : State) (sid id : Nat) : State :=
  match s.findOp sid id with
  | some (o, _) => match o.task with
    | .copy src dsts todo stops tags bar =>
      let waits (p : CopyStop) : Bool := todo.any fun q => q.dst == p.dst && !q.late
      let t := s.setTask sid id (.copy src dsts todo (stops.filter waits) tags bar) false
      (stops.filter fun p => !waits p).foldl (fun u p => u.stopMessage sid o 2 p.cause p.off p.unit 0) t
    | _ => s
  | none => s

/-- A copy stops at q (10 R154, R155), at the failing element's offset in its object (log 59), and with it the other streams of
a COPY.m; a fault of a unit above the stop unit drops it. -/
def State.copyStop (s : State) (sid id : Nat) (src : Cap) (dsts : List Cap) (todo : List Piece) (stops : List CopyStop)
    (tags : Bool) (bar : Bar) (q : Piece) (cause off : Nat) : State :=
  let t := s.undivert sid id q.key
  if q.late then (t.setTask sid id (.copy src dsts (todo.filter (· != q)) stops tags bar) false).copySettle sid id
  else
    (t.setTask sid id
      (.copy src dsts (stopPieces todo q)
        (⟨q.dst, q.off, cause, off, false⟩ :: stops.filter (·.dst != q.dst) ++ otherStops dsts.length todo stops q cause off) tags bar) false).copySettle sid id

/-- A chunk performed: its bytes are counted at once, unless it is at or above a stop chunk (10 R155; log 27). -/
def State.copyDone (s : State) (sid id : Nat) (src : Cap) (dsts : List Cap) (todo : List Piece) (stops : List CopyStop)
    (tags : Bool) (bar : Bar) (p : Piece) (g : List Seg × List Seg) : State :=
  ((((s.moveChunk g tags).countInto bar (if p.late then 0 else p.len)).undivert sid id p.key).setTask sid id
    (.copy src dsts ((markIssued todo p).filter (· != p)) stops tags bar) true).copySettle sid id

/-- The pieces of memory of a chunk. -/
def State.pieceSegs (s : State) (sid iface : Nat) (src : Cap) (dsts : List Cap) (bar : Bar) (p : Piece) : UnitRes (List Seg × List Seg) :=
  let d := dsts.getD p.dst Cap.null
  s.withBar (if p.late then none else bar) (s.chunkSegs sid iface src d (src.off + p.off) (d.off + p.off) p.len)

/-- A unit is held: a command that counts into no barrier object receives its elements in stream order, and one before this
waits in a spill queue (10 R153; log 74). -/
def heldBack (bar : Bar) (todo : List Piece) (before : Piece → Bool) : Bool := bar.isNone && todo.any fun q => q.spilled && before q

/-- The n-th chunk of a copy: an unresolvable fault of it or of one issued before it stops the copy; a page that is not
present sends it to a spill queue, if there is room. Later chunks of a copy that counts into a barrier object go on
meanwhile (10 R153). -/
def State.copyChunk (s : State) (sid : Nat) (o : Op) (n : Nat) : State :=
  match o.task with
  | .copy src dsts todo stops tags bar =>
    match todo[n]? with
    | none => s
    | some p =>
      let bad := (todo.take (n + 1)).findSome? fun q =>
        if (q.spilled && q != p) || q.dst != p.dst then none else
        match s.pieceSegs sid o.iface src dsts bar q with
        | .bad k f => some (q, k, f)
        | _ => none
      match bad with
      | some (q, k, f) => s.copyStop sid o.id src dsts todo stops tags bar q k f
      | none =>
        let d := dsts.getD p.dst Cap.null
        if !(s.accepts sid o p.key src (src.off + p.off) && s.accepts sid o p.key d (d.off + p.off)) then s else
        match s.pieceSegs sid o.iface src dsts bar p with
        | .ok g =>
          if heldBack bar todo fun q => q.dst == p.dst && decide (q.off < p.off) then s
          else s.copyDone sid o.id src dsts todo stops tags bar p g
        | .bad _ _ => s
        | .absent oid off =>
          let t := s.divert sid o p.key oid off
          if t.diverted sid o.id p.key then t.setTask sid o.id (.copy src dsts (markSpilled (markIssued todo p) p) stops tags bar) false else t
  | _ => s

/-! ### COPYN -/

/-- The whole range a stream of a nest reaches, from its captured capability's offset (08 R125); visited points are part of it
(log 75). -/
def Nest.span (n : Nest) (k : Nat) : Range :=
  let p := n.par.toNat
  let c := vget n.caps (k % 3) Cap.null
  let r := nestReach p k
  let lo : Int := c.off + nestBase p k + r.1
  ⟨c, lo.toNat, (r.2 - r.1 + nestExt p k).toNat⟩

/-- A stream's effective offset at the current point (08 R126). -/
def Nest.at (n : Nest) (k : Nat) : Nat := ((vget n.caps (k % 3) Cap.null).off + n.offset k).toNat

/-- The number of the point a nest stands at, counting from its first (08 R127). -/
def Nest.number (n : Nest) : Nat :=
  let p := n.par.toNat
  n.i 0 + nestCount p 0 * (n.i 1 + nestCount p 1 * (n.i 2 + nestCount p 2 * n.i 3))

/-- The points of a nest that are still to come (08 R127). -/
def Nest.left (n : Nest) : Nat :=
  let p := n.par.toNat
  ((List.range (nestDims p + 1)).map (nestCount p)).prod - n.number

/-- COPYN (13 R197). LNSET has checked rights and bounds; what its streams reach must not overlap, and what it counts lies below
2^40 (13 R194; log 75). -/
def execCopyn (n : BitVec 2) (b i : BitVec 4) (s : State) : Out := finish s (do
  s.computeOnly
  s.room .C
  let c := s.rn n
  let p := c.par.toNat
  require (c.armed && nestStreams p == 2 && nestDir p 0 % 2 == 1 && decide (2 ≤ nestDir p 1) && nestExt p 0 == nestExt p 1) s.illegal
  noOverlap [c.span 0, c.span 1]
  lengthOk (c.left * nestExt p 0) (c.left * nestExt p 0)
  let bar ← s.barOperand b i.toNat
  s.issueCopy (.copyn c bar [] [] none) false (spRanges (c.span 0) [c.span 1]))

/-- The nest after a point; disarmed after the last. -/
def Nest.next (n : Nest) : Nest := match n.advance with | some m => m | none => { n with armed := false }

/-- A macro step of COPYN (13 R197): the next point is issued, as chunks of at most 4 KiB; none after a stop. -/
def State.copynStep (s : State) (sid : Nat) (o : Op) : State :=
  match o.task with
  | .copyn n bar pts todo none =>
    if !n.armed then s else
    let q : Point := ⟨n.number, n.at 0, n.at 1⟩
    let ext := nestExt n.par.toNat 0
    let ps := (chunks q.src q.dst (ext / 2048 + 4) 0 ext).map fun c => (⟨q.num, c.1, c.2, false, false, false⟩ : Piece)
    s.setTask sid o.id (.copyn n.next bar (pts ++ [q]) (todo ++ ps) none) false
  | _ => s

/-- A point is to be counted: it lies below the stop point, and all its chunks have been performed (13 R197; log 27). -/
def pointCounted (todo : List Piece) (stop : Option CopyStop) (q : Point) : Bool :=
  !(stop.any fun p => decide (p.unit ≤ q.num)) && !(todo.any fun p => p.dst == q.num)

/-- A COPYN with its points counted that can be (13 R197, R202), and its message once nothing is left below its stop. -/
def State.copynSettle (s : State) (sid : Nat) (o : Op) (n : Nest) (bar : Bar) (pts : List Point) (todo : List Piece)
    (stop : Option CopyStop) (begun : Bool) : State :=
  let done := pts.filter (pointCounted todo stop)
  let pts' := pts.filter fun q => !pointCounted todo stop q
  let t := s.countInto bar (done.length * nestExt n.par.toNat 0)
  match stop with
  | some p =>
    if !p.sent && !(todo.any fun q => !q.late) then
      (t.setTask sid o.id (.copyn n bar pts' todo (some { p with sent := true })) begun).stopMessage sid o 2 p.cause p.off p.unit 0
    else t.setTask sid o.id (.copyn n bar pts' todo stop) begun
  | none => t.setTask sid o.id (.copyn n bar pts' todo none) begun

/-- A chunk of a COPYN comes before another: its point does, or it does within the point. -/
def Piece.before (p q : Piece) : Bool := decide (p.dst < q.dst) || (p.dst == q.dst && decide (p.off < q.off))

/-- A COPYN's chunks after an unresolvable fault of chunk q: those below it are performed before the message, those above it,
all of which have been issued, after it or before (10 R155). -/
def stopPoints (todo : List Piece) (q : Piece) : List Piece := todo.map fun r => if q.before r then { r with late := true } else r

/-- A COPYN stops at the point of chunk q (13 R202); a chunk above the stop chunk that fails is dropped. -/
def State.copynStop (s : State) (sid : Nat) (o : Op) (n : Nest) (bar : Bar) (pts : List Point) (todo : List Piece)
    (stop : Option CopyStop) (q : Piece) (cause off : Nat) : State :=
  let t := s.undivert sid o.id q.key
  let rest := todo.filter (· != q)
  if q.late then t.copynSettle sid o n bar pts rest stop false
  else t.copynSettle sid o n bar pts (stopPoints rest q) (some ⟨0, q.dst, cause, off, false⟩) false

/-- The pieces of memory of a chunk of COPYN. -/
def State.pointSegs (s : State) (sid iface : Nat) (n : Nest) (bar : Bar) (pts : List Point) (p : Piece) : UnitRes (List Seg × List Seg) :=
  match pts.find? (·.num == p.dst) with
  | some q => s.withBar (if p.late then none else bar) <| s.chunkSegs sid iface (vget n.caps 0 Cap.null) (vget n.caps 1 Cap.null) (q.src + p.off) (q.dst + p.off) p.len
  | none => .ok ([], [])

/-- The n-th chunk of a COPYN's points, as a chunk of a copy. -/
def State.copynChunk (s : State) (sid : Nat) (o : Op) (i : Nat) : State :=
  match o.task with
  | .copyn n bar pts todo stop =>
    match todo[i]? with
    | none => s
    | some p =>
      let bad := (todo.take (i + 1)).findSome? fun q =>
        if q.spilled && q != p then none else
        match s.pointSegs sid o.iface n bar pts q with
        | .bad k f => some (q, k, f)
        | _ => none
      match bad with
      | some (q, k, f) => s.copynStop sid o n bar pts todo stop q k f
      | none =>
        let q := (pts.find? (·.num == p.dst)).getD ⟨0, 0, 0⟩
        if !(s.accepts sid o p.key (vget n.caps 0 Cap.null) (q.src + p.off) &&
            s.accepts sid o p.key (vget n.caps 1 Cap.null) (q.dst + p.off)) then s else
        match s.pointSegs sid o.iface n bar pts p with
        | .ok g => if heldBack bar todo (·.before p) then s else ((s.moveChunk g false).undivert sid o.id p.key).copynSettle sid o n bar pts (todo.filter (· != p)) stop true
        | .bad _ _ => s
        | .absent oid off =>
          let t := s.divert sid o p.key oid off
          if t.diverted sid o.id p.key then t.setTask sid o.id (.copyn n bar pts (markSpilled todo p) stop) false else t
  | _ => s

/-! ### COPYT and MIGR -/

/-- The checks of COPYT and MIGR: rights, kind and range. -/
def State.moveCheck (s : State) (c : Cap) (n : Nat) : Except Stop Unit := do
  s.checkRange c ⟨true, true, false, false⟩ c.off n
  require (c.kind == 0 || c.kind == 4) (capTrap subRights c.off)

/-- The size of the page at an offset; of one that is not present, 64 KiB (log 76). -/
def State.pageSize (s : State) (iface : Nat) (c : Cap) (f : Nat) : Nat :=
  match s.objEntry iface c.obj with
  | some e => match s.walk e f with
    | .leaf l _ _ => lfSize l
    | _ => 65536
  | none => 65536

/-- The bytes of [f, f + n) widened to the boundaries of the pages it touches (13 R198). -/
def State.widened (s : State) (iface : Nat) (c : Cap) (f n : Nat) : Nat :=
  if n = 0 then 0 else
  let a := s.pageSize iface c f
  let b := s.pageSize iface c (f + n - 1)
  (f + n - 1) / b * b + b - f / a * a

/-- COPYT (13 R198). -/
def execCopyt (c : BitVec 4) (x : BitVec 6) (t : BitVec 1) (b i : BitVec 4) (s : State) : Out := finish s (do
  s.room .C
  let cap := s.rc c
  let n := (s.rx x).toNat
  s.moveCheck cap n
  lengthOk (s.widened s.me.iface cap cap.off n) n
  let bar ← s.barOperand b i.toNat
  s.issueCopy (.move cap (if t = 0 then 9 else 8) false [⟨0, cap.off, n, false, false, false⟩] none bar) (n == 0) [])

/-- MIGR (13 R199): the page that holds e. -/
def execMigr (c : BitVec 4) (x : BitVec 6) (b i : BitVec 4) (s : State) : Out := finish s (do
  s.room .C
  let cap := s.rc c
  s.moveCheck cap 1
  let bar ← s.barOperand b i.toNat
  let v := (s.rx x).toNat
  s.issueCopy (.move cap (if bits v 3 3 = 1 then 8 else bits v 2 0) true [⟨0, cap.off, 1, false, false, false⟩] none bar) false [])

/-- A free frame of a pool with this size, in an HBM stack where the target names one (13 R198, R199). -/
def State.freeFrame (s : State) (iface target size : Nat) : Option Nat :=
  let f := s.iface iface
  let pool := if target = 8 then f.cxlPool else f.hbmPool
  (pool.find? fun p => p.2 == size && (decide (8 ≤ target) || bits p.1 38 36 == target)).map (·.1)

/-- A frame taken from its pool. -/
def State.takeFrame (s : State) (iface target frame : Nat) : State :=
  let f := s.iface iface
  s.setIface iface (if target = 8 then { f with cxlPool := f.cxlPool.filter (·.1 != frame) } else { f with hbmPool := f.hbmPool.filter (·.1 != frame) })

/-- The leaf at an address. -/
def State.readLeaf (s : State) (tkey pa : Nat) : BitVec 64 := .ofNat 64 (s.read8 tkey pa)

/-- The leaf at an address written. -/
def State.writeLeaf (s : State) (tkey pa : Nat) (l : BitVec 64) : State := { s with mem := s.mem.writes (s.keyOf tkey) pa (bytesOf 8 l.toNat) }

/-- A migration begun (10 R160 step 1): M set, the frame taken. -/
def State.beginMove (s : State) (iface oid : Nat) (e : BitVec 256) (l : BitVec 64) (leafPa ps target frame : Nat)
    (owner : Option (Nat × Nat)) : State :=
  let old := (if lfT l then cxlBase else 0) + lfFrame l
  let new := (if target = 8 then cxlBase else 0) + frame
  let t := (s.takeFrame iface target frame).writeLeaf (oeTkey e) leafPa (l ||| (1#64 <<< 58))
  { t with moves := t.moves ++ [⟨iface, oid, ps, leafPa, old, new, lfSize l, oeTkey e, oeKey e, false, owner⟩] }

/-- A range without what lies below hi. -/
def Piece.above (p : Piece) (hi : Nat) : List Piece :=
  if p.off + p.len ≤ hi then [] else if hi ≤ p.off then [p] else [{ p with off := hi, len := p.off + p.len - hi }]

/-- A move's pieces with the page [lo, hi) taken up as `here`: what else lies in the page is part of it. -/
def takePage (todo : List Piece) (i lo hi : Nat) (here : List Piece) : List Piece :=
  (todo.zip (List.range todo.length)).flatMap fun x =>
    if x.2 = i then here ++ x.1.above hi
    else if x.1.late || decide (x.1.off < lo) then [x.1] else x.1.above hi

/-- A page lies at or above the page at which a move has stopped (13 R202). -/
def pastStop (stop : Option CopyStop) (off : Nat) : Bool := stop.any fun p => decide (p.unit ≤ off)

/-- A move with n bytes of the page at `page` counted (13 R198), unless it has stopped below it, and its message once nothing
is left below its stop (R202). The pieces of the page that have left `todo` leave their spill queues. -/
def State.moveSettle (s : State) (sid : Nat) (o : Op) (cap : Cap) (target : Nat) (migr : Bool) (todo : List Piece)
    (stop : Option CopyStop) (bar : Bar) (page n : Nat) (begun : Bool) : State :=
  let u := { s with spills := s.spills.filter fun e => e.slot != sid || e.op != o.id || todo.any fun p => p.key == e.key && p.spilled }
  let t := u.countInto bar (if pastStop stop page then 0 else n)
  match stop with
  | some p =>
    if !p.sent && !(todo.any fun q => decide (q.off < p.unit)) then
      (t.setTask sid o.id (.move cap target migr todo (some { p with sent := true }) bar) begun).stopMessage sid o 2 p.cause p.off p.unit 0
    else t.setTask sid o.id (.move cap target migr todo stop bar) begun
  | none => t.setTask sid o.id (.move cap target migr todo none bar) begun

/-- The pieces of a move that go on after an unresolvable fault of the page at `page` (10 R155): those below it, and of those
above it the pages under migration and those that wait in a spill queue, uncounted. -/
def stopPages (todo : List Piece) (page : Nat) : List Piece := todo.filter fun q => decide (q.off < page) || q.late || q.spilled

/-- A move meets an unresolvable fault at the page at `page` (10 R154, R155), its pieces there gone from `todo`: it stops
there, unless it has stopped below it. -/
def State.moveStop (s : State) (sid : Nat) (o : Op) (cap : Cap) (target : Nat) (migr : Bool) (todo : List Piece)
    (stop : Option CopyStop) (bar : Bar) (page cause off : Nat) (begun : Bool) : State :=
  if pastStop stop page then s.moveSettle sid o cap target migr todo stop bar page 0 begun
  else s.moveSettle sid o cap target migr (stopPages todo page) (some ⟨0, page, cause, off, false⟩) bar page 0 begun

/-- The i-th piece of a move (13 R198, R199): the page at its start is left in place, put under migration, sent to a spill
queue, waited for, or the command stops there. Pages above the stop page are not taken up, or not counted. -/
def State.movePage (s : State) (sid : Nat) (o : Op) (i : Nat) : State :=
  match o.task with
  | .move cap target migr todo stop bar =>
    match todo[i]? with
    | none => s
    | some p =>
    if p.late then s else
    let page := s.pageSize o.iface cap p.off
    let halt (k off : Nat) : State :=
      s.moveStop sid o cap target migr (todo.eraseIdx i) stop bar (p.off / page * page) k off false
    match if pastStop stop p.off then none else s.barLost bar with
    | some off => halt 11 off
    | none =>
    match s.objEntry o.iface cap.obj with
    | none => halt 4 p.off
    | some e =>
      if !oeAdmits e cap.kind p.off 1 || !s.keysOk o.iface e || (target == 8 && oeTier e == 0) then halt 4 p.off
      else if !s.accepts sid o p.key cap p.off then s else
      match s.walk e p.off with
      | .bad => halt 4 p.off
      | .absent =>
        if p.spilled then s.divert sid o p.key cap.obj p.off else
        let t := s.divert sid o p.key cap.obj p.off
        let hi := (p.off / 65536 + 1) * 65536
        if !t.diverted sid o.id p.key then t else
        t.setTask sid o.id (.move cap target migr
          (takePage todo i (p.off / 65536 * 65536) hi [{ p with len := min p.len (hi - p.off), spilled := true }]) stop bar) false
      | .leaf l leafPa _ =>
        let size := lfSize l
        let lo := p.off / size * size
        let n := min p.len (lo + size - p.off)
        if !oeAdmits e cap.kind p.off n then halt 4 p.off else
        match s.useLeaf e l p.off n false with
        | .bad k => halt k p.off
        | .ok _ =>
          if heldBack bar todo fun q => decide (q.off < p.off) then s
          else if lfM l then (if migr then halt 9 p.off else s)
          else if !migr && lfT l == (target == 8) then
            s.moveSettle sid o cap target migr (takePage todo i lo (lo + size) []) stop bar lo size false
          else if s.moves.any (fun g => g.iface == o.iface && g.oid == cap.obj && g.off == lo) then s
          else match s.freeFrame o.iface target size with
            | none => halt 5 p.off
            | some frame =>
              (s.beginMove o.iface cap.obj e l leafPa lo target frame (some (sid, o.id))).moveSettle sid o cap target migr
                (takePage todo i lo (lo + size) [{ p with len := n, spilled := false, late := true }]) stop bar lo 0 true
        | _ => s
  | _ => s

/-- The pieces of a move that stand for a page under migration. -/
def Migration.piece (g : Migration) (p : Piece) : Bool := p.late && p.off / g.size * g.size == g.off

/-- A page that a move has put under migration has switched (13 R198): it is counted, unless it lies above a stop page. Where
the frame of the barrier object is lost it stays switched, and the move stops there with cause 11 (28 R334). -/
def State.moveSwitched (s : State) (sid id : Nat) (g : Migration) : State :=
  match s.findOp sid id with
  | some (o, _) => match o.task with
    | .move cap target migr todo stop bar =>
      let rest := todo.filter fun p => !g.piece p
      match if todo.any g.piece && !pastStop stop g.off then s.barLost bar else none with
      | some off => s.moveStop sid o cap target migr rest stop bar g.off 11 off true
      | none => s.moveSettle sid o cap target migr rest stop bar g.off (if todo.any g.piece then g.size else 0) true
    | _ => s
  | none => s

/-- A page that a move has put under migration is lost with its port (28 R334): the move stops there, with cause 11. -/
def State.moveLost (s : State) (sid id : Nat) (g : Migration) : State :=
  match s.findOp sid id with
  | some (o, _) => match o.task with
    | .move cap target migr todo stop bar =>
      if todo.any g.piece then s.moveStop sid o cap target migr (todo.filter fun p => !g.piece p) stop bar g.off 11 g.off true
      else s
    | _ => s
  | none => s

/-- The entries of a map in [old, old + n) put at new in another, in place of what is there. -/
def copyRange {α : Type} (a m : Map α) (old new n : Nat) : Map α :=
  (a.filter fun p => decide (old ≤ p.1) && decide (p.1 < old + n)).foldl (fun a p => mset a (p.1 - old + new) p.2)
    (m.filter fun p => !(decide (new ≤ p.1) && decide (p.1 < new + n)))

/-- A page's bytes put into another frame with its tags (10 R145, R160): as they read under the page's key, and written with
that key (10 R162). -/
def Memory.movePage (m : Memory) (key old new n : Nat) : Memory :=
  let a := m.rekeyRange key old n
  { bytes := copyRange a.bytes m.bytes old new n
    tags := copyRange a.tags m.tags (old / 16) (new / 16) (n / 16)
    keys := copyRange a.keys m.keys (old / 64) (new / 64) (n / 64) }

/-- An address of an old frame as one of the new. -/
def Migration.shift (g : Migration) (pa : Nat) : Nat :=
  if g.old ≤ pa ∧ pa < g.old + g.size then g.new + (pa - g.old) else pa

/-- What a slot has registered on objects of the page follows it. -/
def Slot.shift (sl : Slot) (g : Migration) : Slot :=
  { sl with
    groups := sl.groups.map fun m => { m with seg := { m.seg with pa := g.shift m.seg.pa } }
    block := match sl.block with
      | some (.barrier pa) => some (.barrier (g.shift pa))
      | some (.group pa n) => some (.group (g.shift pa) n)
      | b => b }

/-- The leaf of a page that has moved (10 R160 step 4): FRAME and T new, M clear; the device writes the reserved bits as zero
(00 R8). -/
def switchLeaf (l : BitVec 64) (new : Nat) : BitVec 64 :=
  let t := if cxlBase ≤ new then 1 else 0
  let f := if cxlBase ≤ new then new - cxlBase else new
  let v := l.toNat
  .ofNat 64 (v - bits v 62 62 * 2 ^ 62 - bits v 58 58 * 2 ^ 58 - bits v 56 52 * 2 ^ 52 - bits v 51 16 * 2 ^ 16 + t * 2 ^ 62 + f / 65536 % 2 ^ 36 * 2 ^ 16)

/-- A frame goes back to the pool of its tier, unless it is lost (10 R160, 28 R334). -/
def State.returnFrame (s : State) (i pa size : Nat) : State :=
  let f := s.iface i
  if s.storageLost pa size then s
  else s.setIface i (if cxlBase ≤ pa then { f with cxlPool := f.cxlPool ++ [(pa - cxlBase, size)] } else { f with hbmPool := f.hbmPool ++ [(pa, size)] })

/-- A migration from or to a frame that is lost with its port ends (28 R334): nothing is copied, the leaf keeps its frame, and
the move stops; log 65. -/
def State.migrationLost (s : State) (n : Nat) (g : Migration) : State :=
  let a := ({ s with moves := s.moves.eraseIdx n } : State).writeLeaf g.key g.leafPa (switchLeaf (s.readLeaf g.key g.leafPa) g.old)
  let b := a.returnFrame g.iface g.new g.size
  match g.owner with
  | none => b
  | some (sid, id) => b.moveLost sid id g

/-- MIGRATION_SWITCH (10 R160 steps 2-4): B holds A, the leaf names B, the page is counted. -/
def execMigrationSwitch (n : Nat) (s : State) : Out :=
  match s.moves[n]? with
  | none => .next s
  | some g =>
    if g.switched then .next s
    else if s.storageLost g.old g.size ∨ s.storageLost g.new g.size then .next (s.migrationLost n g) else
    let a := { s with mem := s.mem.movePage (s.keyOf g.dkey) g.old g.new g.size, moves := s.moves.set n { g with switched := true } }
    let b := a.writeLeaf g.key g.leafPa (switchLeaf (a.readLeaf g.key g.leafPa) g.new)
    let c := { b.mapSlots (·.shift g) with
      joins := b.joins.map fun j => { j with pa := g.shift j.pa }
      ifaces := b.ifaces.map fun p => (p.1, { p.2 with loader := p.2.loader.map fun l => { l with wait := l.wait.map g.shift } }) }
    match g.owner with
    | none => .next c
    | some (sid, id) => .next (c.moveSwitched sid id g)

/-- The barrier object of a command. -/
def Task.bar : Task → Bar
  | .copy _ _ _ _ _ b => b
  | .copyn _ b _ _ _ => b
  | .move _ _ _ _ _ b => b
  | .cred _ _ _ _ _ _ _ b => b
  | .drain _ _ _ b _ => b
  | .summ _ _ b _ _ _ => b
  | _ => none

/-- The pieces of the groups of a CRED that are being added to (13 R200). -/
def Task.partSegs : Task → List Seg
  | .cred _ _ _ _ _ todo _ _ => todo.flatMap fun g => g.part.flatMap (·.2.1)
  | _ => []

/-- An access already translated to the old frame is still outstanding. -/
def State.stale (s : State) (g : Migration) : Bool :=
  let hits (pa : Nat) : Bool := decide (g.old ≤ pa) && decide (pa < g.old + g.size)
  let barHits (b : Bar) : Bool := match b with | some x => hits x.pa | none => false
  let op (o : Op) : Bool := (o.task.segs ++ o.task.partSegs).any (fun x => hits x.pa) || barHits o.task.bar
  s.allSlots.any (fun sl => sl.ops.any op) || s.orphans.any (fun p => op p.2) || s.jobs.any (fun j => barHits j.bar) ||
    s.pipes.any (fun p => barHits p.job.bar) || s.braids.any (fun b => match b.run with | some r => barHits r.bar | none => false)

/-- The TLB entries of a page. -/
def TlbEntry.covers (t : TlbEntry) (iface oid off size : Nat) : Bool :=
  t.iface == iface && t.oid == oid && decide (t.page * 65536 < off + size) && decide (off < t.page * 65536 + lfSize t.leaf)

/-- SHOOTDOWN_COMPLETE (10 R160 step 5): the TLBs have dropped the page, and A returns to its pool, unless it is lost. -/
def execShootdownComplete (n : Nat) (s : State) : Out :=
  match s.moves[n]? with
  | none => .next s
  | some g =>
    if !g.switched || s.stale g then .next s else
    .next (({ s with moves := s.moves.eraseIdx n, tlb := s.tlb.filter fun t => !t.covers g.iface g.oid g.off g.size } : State).returnFrame g.iface g.old g.size)

/-! ### CRED -/

/-- The narrow format of CRED: format code and type (13 R200). -/
def credFmt (f : Nat) : Nat × Nat := if f = 0 then (0x20, 0) else if f = 1 then (0x21, 0) else if f = 2 then (0x22, 0) else (0x10, f - 3)

/-- Elements of a group. -/
def credGroup (f : Nat) : Nat := if 3 ≤ f then 120 else 60

/-- CRED (13 R200, 28 R332). Where the counted total reaches 2^40, TVAL is x(xn), the number of elements (log 60). -/
def execCred (d c : BitVec 4) (x : BitVec 6) (f : BitVec 3) (b : BitVec 4) (s : State) : Out := finish s (do
  require (c != 15 && f != 7) s.illegal
  s.room .C
  let src := s.rc c
  let res := s.rc (c + 1)
  let n := (s.rx x).toNat
  s.checkRange src { rd := true } src.off (4 * n)
  s.checkRange res ⟨true, true, false, false⟩ res.off (4 * n)
  require (res.kind == 0 || res.kind == 1 || res.kind == 4) (capTrap subRights res.off)
  let dsts ← s.destList (s.rc d)
  s.checkDests rmwRights [0, 3, 4] (4 * n) 0 dsts
  let rs := dsts.map fun c => (⟨c, c.off, 4 * n⟩ : Range)
  noOverlap (⟨src, src.off, 4 * n⟩ :: ⟨res, res.off, 4 * n⟩ :: rs)
  lengthOk (4 * n * dsts.length) n
  let bar ← s.barOperand b 0
  let p := credGroup f.toNat
  let todo := (List.range ((n + p - 1) / p)).map fun g => (⟨g, List.range dsts.length, 0, [], []⟩ : Group8)
  s.issueCopy (.cred src res dsts f.toNat n todo none bar) (n == 0)
    (spRanges ⟨src, src.off, 4 * n⟩ (⟨res, res.off, 4 * n⟩ :: rs)))

/-- FP32 words of bytes. -/
def words32 (n v : Nat) : List Nat := (List.range n).map fun k => bits v (32 * k + 31) (32 * k)

/-- Words packed from the first upward. -/
def packWords (w : Nat) (l : List Nat) : Nat := Num.packCodes w l

/-- The elements of a group: the first and how many. -/
def credSpan (f n g : Nat) : Nat × Nat := (g * credGroup f, min (credGroup f) (n - g * credGroup f))

/-- The values that a group's block reads as, and whether it is poisoned (13 R200). -/
def credBlock (f : Nat) (vals : List Nat) : List Num.FV × Bool :=
  let blk := Num.encodeBlock (credFmt f).1 (credFmt f).2 0 true (vals.map Num.of32)
  let w := if 3 ≤ f then 0 else 1
  ((List.range vals.length).map (Num.readElem blk w), Num.hScale blk / 16 == 255)

/-- A group's values formed: src + res in FP32, raw FP32 words whatever the pages' D bits (13 R200; log 58); its residual
must be writable. -/
def State.credForm (s : State) (sid iface : Nat) (src res : Cap) (f n g : Nat) : UnitRes (List Nat) :=
  let (a, k) := credSpan f n g
  match s.segsOf sid iface src (src.off + 4 * a) (4 * k) false with
  | .absent x y => .absent x y
  | .bad x y => .bad x y
  | .ok u => match s.segsOf sid iface res (res.off + 4 * a) (4 * k) false with
    | .absent x y => .absent x y
    | .bad x y => .bad x y
    | .ok v => match s.segsOf sid iface res (res.off + 4 * a) (4 * k) true with
      | .absent x y => .absent x y
      | .bad x y => .bad x y
      | .ok _ => .ok (List.zipWith Num.add32 (words32 k (s.readNat u)) (words32 k (s.readNat v)))

/-- The message of a stopped CRED once nothing is in flight (13 R202): G and the masks of eight groups. -/
def State.credSettle (s : State) (sid id : Nat) : State :=
  match s.findOp sid id with
  | some (o, _) => match o.task with
    | .cred _ _ dsts f n todo (some (cause, off)) _ =>
      let total := (n + credGroup f - 1) / credGroup f
      let base := match todo with | g :: _ => g.g | [] => total
      let fly := todo.filter fun g => decide (g.g < base + 8)
      let full := 2 ^ dsts.length - 1
      if fly.any (fun g => !g.left.isEmpty || g.mask == full) then s else
      let masks := (List.range 8).foldl (fun a k =>
        let m := if total ≤ base + k then 0 else match todo.find? (·.g == base + k) with | some g => g.mask | none => full
        a + m * 2 ^ (16 * k)) 0
      (s.endTask sid id false).stopMessage sid o 2 cause off base masks
    | _ => s
  | none => s

/-- The name of a group's element in a spill queue: its update of destination d, the writing of its residuals (30), or the
forming of its values (31). -/
def credKey (g d : Nat) : Nat := g * 32 + d

/-- A CRED that meets an unresolvable fault (10 R154): groups that have not begun are not issued. -/
def State.credStop (s : State) (sid : Nat) (o : Op) (todo : List Group8) (cause off : Nat) : State :=
  match o.task with
  | .cred src res dsts f n _ stop bar =>
    (s.setTask sid o.id (.cred src res dsts f n (todo.map fun g => if g.vals = [] then { g with left := [] } else g)
      (some (stop.getD (cause, off))) bar) false).credSettle sid o.id
  | _ => s

/-- The pieces of a group's range at a destination that it has been added to in part. -/
def Group8.held (g : Group8) (d : Nat) : Option (List Seg) := (g.part.find? (·.1 == d)).map (·.2.1)

/-- An element of a group has been added at a destination ahead of the rest (05 R81). -/
def Group8.added (g : Group8) (d e : Nat) : Bool := g.part.any fun p => p.1 == d && p.2.2.contains e

/-- The pieces of a group's range at a destination: those it holds, or those of its pages as they lie now. -/
def State.groupSegs (s : State) (sid iface : Nat) (g : Group8) (d : Nat) (c : Cap) (off n : Nat) : UnitRes (List Seg) :=
  match g.held d with
  | some segs => s.heldSegs segs
  | none => s.segsOf sid iface c off n true

/-- The additions of a group to a destination that holds `old`, but for those already performed (05 R81). A value beyond
FP32's range is rounded to FP32 (05 R72), so to an infinity, before it is added (log 77). -/
def credAdd (f d : Nat) (g : Group8) (vals old : List Nat) : List Nat :=
  (List.zip (List.range old.length) (List.zip old (credBlock f vals).1)).map fun p =>
    if g.added d p.1 then p.2.1 else Num.f32 0 (Num.add 0 (Num.of32 p.2.1) (Num.of32 (Num.f32 0 p.2.2)))

/-- A group's element k is held: a CRED that counts into no barrier object receives the elements of one stream in their order,
and an earlier group's waits in a spill queue (10 R153; log 74). -/
def State.credHeld (s : State) (sid id : Nat) (bar : Bar) (todo : List Group8) (g k : Nat) : Bool :=
  bar.isNone && todo.any fun h => decide (h.g < g) && s.queued sid id (credKey h.g k)

/-- A group at its next destination, or its values formed first (13 R200); n is its place among those in flight. -/
def State.credUnit (s : State) (sid : Nat) (o : Op) (i : Nat) : State :=
  match o.task with
  | .cred src res dsts f n todo stop bar =>
    match todo[i]? with
    | none => s
    | some g =>
      let base := match todo with | h :: _ => h.g | [] => 0
      if base + 8 ≤ g.g then s else
      match g.left with
      | [] => s
      | d :: left =>
        let (a, k) := credSpan f n g.g
        let key := credKey g.g 31
        if g.vals = [] && !(s.accepts sid o key src (src.off + 4 * a) && s.accepts sid o key res (res.off + 4 * a)) then s else
        match if g.vals = [] then s.credForm sid o.iface src res f n g.g else .ok g.vals with
        | .absent oid off => s.divert sid o key oid off
        | .bad k off => (s.undivert sid o.id key).credStop sid o (todo.set i { g with left := left }) k off
        | .ok vs =>
          if g.vals = [] && s.credHeld sid o.id bar todo g.g 31 then s else
          let t := s.undivert sid o.id key
          let c := dsts.getD d Cap.null
          let key := credKey g.g d
          let put (u : State) (h : Group8) (b : Bool) : State := u.setTask sid o.id (.cred src res dsts f n (todo.set i h) stop bar) b
          let later := put t { g with vals := vs, left := left ++ [d] } false
          if !t.accepts sid o key c (c.off + 4 * a) then later else
          match t.withBar bar (t.groupSegs sid o.iface g d c (c.off + 4 * a) (4 * k)) with
          | .absent oid off => later.divert sid o key oid off
          | .bad k off => (t.undivert sid o.id key).credStop sid o (todo.set i { g with vals := vs, left := left }) k off
          | .ok segs =>
            if t.credHeld sid o.id bar todo g.g d then later else
            let u := (t.writeSegs segs (bytesOf (4 * k) (packWords 32 (credAdd f d g vs (words32 k (t.readNat segs)))))).countInto bar (4 * k)
            (put (u.undivert sid o.id key) { g with vals := vs, left := left, mask := g.mask + 2 ^ d } true).credSettle sid o.id
  | _ => s

/-- A group performed at every destination writes its residuals (13 R200); i is its place among those in flight. Where that
meets an unresolvable fault, the command stops and the group counts as complete (log 83). -/
def State.credResidual (s : State) (sid : Nat) (o : Op) (i : Nat) : State :=
  match o.task with
  | .cred src res dsts f n todo stop bar =>
    match todo[i]? with
    | some g =>
      if g.mask ≠ 2 ^ dsts.length - 1 then s else
      let (a, k) := credSpan f n g.g
      let key := credKey g.g 30
      if !s.accepts sid o key res (res.off + 4 * a) then s else
      match s.segsOf sid o.iface res (res.off + 4 * a) (4 * k) true with
      | .ok segs =>
        if s.credHeld sid o.id bar todo g.g 30 then s else
        let b := credBlock f g.vals
        let vs := List.zipWith (fun v e => if b.2 then 0 else Num.f32 0 (Num.add 0 (Num.of32 v) e.negate)) g.vals b.1
        let t := (s.writeSegs segs (bytesOf (4 * k) (packWords 32 vs))).undivert sid o.id key
        (t.setTask sid o.id (.cred src res dsts f n (todo.eraseIdx i) stop bar) true).credSettle sid o.id
      | .absent oid off => s.divert sid o key oid off
      | .bad k off => (s.undivert sid o.id key).credStop sid o (todo.eraseIdx i) k off
    | none => s
  | _ => s

/-- CRED_GROUP_COMPLETE (13 R200). -/
def execCredGroupComplete (slot op i : Nat) (s : State) : Out :=
  match s.findOp slot op with
  | some (o, _) => .next (s.credResidual slot o i)
  | none => .next s

/-- CHUNK_COMPLETE (10 R155): a unit of a command: a chunk of a copy or of a point of COPYN, a page of a move, a group of
CRED at a destination. -/
def execChunkComplete (slot op n : Nat) (s : State) : Out :=
  match s.findOp slot op with
  | none => .next s
  | some (o, live) =>
    if !s.mayGo slot o live then .next s else
    match o.task with
    | .copy _ _ _ _ _ _ => .next (s.copyChunk slot o n)
    | .copyn _ _ _ _ _ => .next (s.copynChunk slot o n)
    | .move _ _ _ _ _ _ => .next (s.movePage slot o n)
    | .cred _ _ _ _ _ _ _ _ => .next (s.credUnit slot o n)
    | _ => .next s

end Sys2Proof.Machine
end

