-- ==== Sys2Proof/Machine/Vector.lean ====
section
/-! DEFINITION. Vector instructions (15 R203-R223). -/

namespace Sys2Proof.Machine

/-! ### Lanes -/

/-- The format of an element type (15 R203). -/
def etFmt (et : BitVec 3) : Num.Fmt :=
  if et = 0 then .int 32 else if et = 1 then .fp32 else if et = 2 then .int 16 else if et = 3 then .bf16
  else if et = 4 then .fp16 else if et = 5 then .int 8 else if et = 6 then .e4m3 else .e5m2

/-- Lane i of a register at a width. -/
def laneOf (v : VWord) (w i : Nat) : Nat := v.toNat / 2 ^ (w * i) % 2 ^ w

/-- The lanes of a register at a width, lane 0 first. -/
def lanesOf (v : VWord) (w : Nat) : List Nat := (List.range (2048 / w)).map (laneOf v w)

/-- A register from its lanes; lanes not given are 0. -/
def ofLanes (w : Nat) (l : List Nat) : VWord := .ofNat 2048 (Num.packCodes w l)

/-- A mask from its bits; bits not given are 0. -/
def ofBits (l : List Bool) : MWord := .ofNat 256 (Num.packCodes 1 (l.map bitNat))

/-- The result of a float lane (15 R205): rounded once, RNE, saturation off. -/
def laneRound (f : Num.Fmt) (v : Num.FV) : Nat := Num.encode f 0 false v

/-- A lane-wise operation on codes (15 R205, R208). -/
inductive LaneOp where
  | add | sub | mul | fma | min | max
  deriving DecidableEq, Repr

/-- An integer lane's signed value. -/
def sgn (w c : Nat) : Int := (BitVec.ofNat w c).toInt

/-- One lane of majors 0x60-0x65 (15 R208). -/
def laneOp (op : LaneOp) (f : Num.Fmt) (a b d : Nat) : Nat :=
  match f with
  | .int w => match op with
    | .add => (a + b) % 2 ^ w
    | .sub => (a + 2 ^ w - b) % 2 ^ w
    | .mul => a * b % 2 ^ w
    | .fma => (a * b + d) % 2 ^ w
    | .min => if sgn w a < sgn w b then a else b
    | .max => if sgn w a < sgn w b then b else a
  | _ =>
    let x := Num.decode f a
    let y := Num.decode f b
    laneRound f (match op with
      | .add => Num.add 0 x y
      | .sub => Num.add 0 x y.negate
      | .mul => Num.mul x y
      | .fma => Num.add 0 (Num.mul x y) (Num.decode f d)
      | .min => Num.minV x y
      | .max => Num.maxV x y)

/-- Lane i is written under an mk field (15 R204). -/
def State.laneOn (s : State) (mk : BitVec 4) (i : Nat) : Bool := !mk.getLsbD 3 || (s.rm (mk.truncate 3)).getLsbD i

/-- The result of a masked form at a lane width: other lanes keep what vd held (15 R204). -/
def State.masked (s : State) (d : BitVec 5) (mk : BitVec 4) (w : Nat) (f : Nat → Nat) : VWord :=
  ofLanes w ((List.range (2048 / w)).map fun i => if s.laneOn mk i then f i else laneOf (s.rv d) w i)

/-! ### Issue -/

/-- The general core's vector unit is free (15 R207). -/
def State.vecReady (s : State) : Except Stop Unit :=
  require (!s.general || decide (s.core.vecBusy < s.core.cycle)) (.park (.cycle s.core.vecBusy))

/-- On a general core the unit is occupied for 4 cycles from the issue (15 R207). -/
def State.vecUsed (s : State) : State :=
  if s.general then { s with core := { s.core with vecBusy := s.core.cycle + 3 } } else s

/-- A vector instruction with a fixed-latency result issues (15 R206, R207). -/
def State.vproduce (s : State) (latency : Nat) (w : RegWrite) : Res := do
  s.vecReady
  .ok (s.vecUsed.produce (latency + (if s.general then 3 else 0)) w false)

/-- The latency of VADD, VSUB, VMIN and VMAX (15 R206). -/
def addLatency (et : BitVec 3) : Nat := if (etFmt et).isInt then 2 else 4

/-- Majors 0x60-0x65 (15 R208). -/
def lanewise (op : LaneOp) (latency : Nat) (d a b : BitVec 5) (mk : BitVec 4) (et : BitVec 3) (s : State) : Res :=
  let f := etFmt et
  let w := f.width
  s.vproduce latency (.v d (s.masked d mk w fun i => laneOp op f (laneOf (s.rv a) w i) (laneOf (s.rv b) w i) (laneOf (s.rv d) w i)))

/-- VADD (15 R208). -/
def execVadd (d a b : BitVec 5) (m : BitVec 4) (e : BitVec 3) (s : State) : Out := finish s (lanewise .add (addLatency e) d a b m e s)
/-- VSUB (15 R208). -/
def execVsub (d a b : BitVec 5) (m : BitVec 4) (e : BitVec 3) (s : State) : Out := finish s (lanewise .sub (addLatency e) d a b m e s)
/-- VMUL (15 R208). -/
def execVmul (d a b : BitVec 5) (m : BitVec 4) (e : BitVec 3) (s : State) : Out := finish s (lanewise .mul 4 d a b m e s)
/-- VFMA (15 R208). -/
def execVfma (d a b : BitVec 5) (m : BitVec 4) (e : BitVec 3) (s : State) : Out := finish s (lanewise .fma 4 d a b m e s)
/-- VMIN (15 R208). -/
def execVmin (d a b : BitVec 5) (m : BitVec 4) (e : BitVec 3) (s : State) : Out := finish s (lanewise .min (addLatency e) d a b m e s)
/-- VMAX (15 R208). -/
def execVmax (d a b : BitVec 5) (m : BitVec 4) (e : BitVec 3) (s : State) : Out := finish s (lanewise .max (addLatency e) d a b m e s)

/-- The bitwise forms on 32-bit lanes (15 R209). -/
def bitwise (f : Nat → Nat → Nat) (d a b : BitVec 5) (mk : BitVec 4) (s : State) : Res :=
  s.vproduce 2 (.v d (s.masked d mk 32 fun i => f (laneOf (s.rv a) 32 i) (laneOf (s.rv b) 32 i)))

/-- VAND (15 R209). -/
def execVand (d a b : BitVec 5) (m : BitVec 4) (s : State) : Out := finish s (bitwise (· &&& ·) d a b m s)
/-- VOR (15 R209). -/
def execVor (d a b : BitVec 5) (m : BitVec 4) (s : State) : Out := finish s (bitwise (· ||| ·) d a b m s)
/-- VXOR (15 R209). -/
def execVxor (d a b : BitVec 5) (m : BitVec 4) (s : State) : Out := finish s (bitwise (· ^^^ ·) d a b m s)

/-- A shift at a width code (15 R210). -/
def vshift (left : Bool) (d a b : BitVec 5) (mk : BitVec 4) (wc : BitVec 2) (s : State) : Res :=
  let w := 8 * 2 ^ wc.toNat
  s.vproduce 2 (.v d (s.masked d mk w fun i =>
    let k := laneOf (s.rv b) w i % w
    let x := laneOf (s.rv a) w i
    if left then x * 2 ^ k % 2 ^ w else x / 2 ^ k))

/-- VSHL (15 R210). -/
def execVshl (d a b : BitVec 5) (m : BitVec 4) (w : BitVec 2) (s : State) : Out := finish s (vshift true d a b m w s)
/-- VSHR (15 R210). -/
def execVshr (d a b : BitVec 5) (m : BitVec 4) (w : BitVec 2) (s : State) : Out := finish s (vshift false d a b m w s)

/-- A lane comparison (15 R211). -/
def laneCmp (cond : Nat) (f : Num.Fmt) (a b : Nat) : Bool :=
  match f with
  | .int w =>
    let x := sgn w a
    let y := sgn w b
    if cond = 0 then x == y else if cond = 1 then x != y else if cond = 2 then decide (x < y) else if cond = 3 then decide (x ≤ y) else false
  | _ =>
    let x := Num.decode f a
    let y := Num.decode f b
    if cond = 0 then Num.eq x y else if cond = 1 then !Num.eq x y else if cond = 2 then Num.lt x y
    else if cond = 3 then Num.lt x y || Num.eq x y else x.isNan || y.isNan

/-- VCMP (15 R211). -/
def execVcmp (d : BitVec 3) (a b : BitVec 5) (c e : BitVec 3) (s : State) : Out :=
  let f := etFmt e
  finish s (s.vproduce 2 (.m d (ofBits ((List.range (2048 / f.width)).map fun i =>
    laneCmp c.toNat f (laneOf (s.rv a) f.width i) (laneOf (s.rv b) f.width i)))))

/-- VSEL (15 R212). -/
def execVsel (d a b : BitVec 5) (m e : BitVec 3) (s : State) : Out :=
  let w := (etFmt e).width
  finish s (s.vproduce 2 (.v d (ofLanes w ((List.range (2048 / w)).map fun i =>
    if (s.rm m).getLsbD i then laneOf (s.rv a) w i else laneOf (s.rv b) w i))))

/-- VCVT (15 R213). -/
def execVcvt (d a : BitVec 5) (f t r : BitVec 3) (x : BitVec 1) (s : State) : Out :=
  let src := etFmt f
  let dst := etFmt t
  let n := 2048 / max src.width dst.width
  finish s (s.vproduce 4 (.v d (ofLanes dst.width ((List.range n).map fun i =>
    let c := laneOf (s.rv a) src.width i
    if f = t then c else Num.encode dst r.toNat (x == 1) (Num.decode src c)))))

/-- VRED's operation (15 R214). -/
def redLaneOp (o : BitVec 5) : LaneOp := if o = 0 then .add else if o = 1 then .min else .max

/-- VRED (15 R214). -/
def execVred (d a o : BitVec 5) (m : BitVec 4) (e : BitVec 3) (s : State) : Out :=
  let f := etFmt e
  let part := ((List.range (2048 / f.width)).filter (s.laneOn m)).map (laneOf (s.rv a) f.width)
  let r := (Num.treeReduce (fun x y => laneOp (redLaneOp o) f x y 0) 9 part).getD 0
  finish s (s.vproduce 8 (.v d (.ofNat 2048 r)))

/-- VBCAST (15 R215). -/
def execVbcast (d : BitVec 5) (x : BitVec 6) (e : BitVec 3) (s : State) : Out :=
  let w := (etFmt e).width
  finish s (s.vproduce 2 (.v d (ofLanes w (List.replicate (2048 / w) ((s.rx x).toNat % 2 ^ w)))))

/-- VPERM (15 R215). -/
def execVperm (d a b : BitVec 5) (s : State) : Out :=
  finish s (s.vproduce 2 (.v d (ofLanes 8 ((List.range 256).map fun j => laneOf (s.rv a) 8 (laneOf (s.rv b) 8 j)))))

/-- VEXP2 (15 R215). -/
def execVexp2 (d a : BitVec 5) (e : BitVec 3) (s : State) : Out :=
  let f := etFmt e
  finish s (s.vproduce 6 (.v d (ofLanes f.width ((lanesOf (s.rv a) f.width).map fun c => laneRound f (Num.exp2 (Num.decode f c))))))

/-- VRCP (15 R215). -/
def execVrcp (d a : BitVec 5) (e : BitVec 3) (s : State) : Out :=
  let f := etFmt e
  finish s (s.vproduce 6 (.v d (ofLanes f.width ((lanesOf (s.rv a) f.width).map fun c => laneRound f (Num.rcp (Num.decode f c))))))

/-- VBSET (15 R216). -/
def execVbset (v : BitVec 5) (x : BitVec 6) (s : State) : Out :=
  finish s (s.vproduce 2 (.v v (s.rv v ||| .ofNat 2048 (2 ^ bits (s.rx x).toNat 10 0))))

/-- VBTST (15 R217). -/
def execVbtst (d : BitVec 3) (a b : BitVec 5) (e : BitVec 3) (s : State) : Out :=
  let w := (etFmt e).width
  finish s (s.vproduce 2 (.m d (ofBits ((lanesOf (s.rv b) w).map fun c => (s.rv a).getLsbD (c % 2048)))))

/-- VMATCH at text position i (15 R218). -/
def matchAt (text pat : VWord) (i : Nat) : Bool :=
  let l := laneOf pat 8 0
  decide (1 ≤ l) && decide (i + l ≤ 256) && (List.range l).all fun j => laneOf text 8 (i + j) == laneOf pat 8 (1 + j)

/-- VMATCH (15 R218). -/
def execVmatch (d : BitVec 3) (a b : BitVec 5) (s : State) : Out :=
  finish s (s.vproduce 2 (.m d (ofBits ((List.range 256).map (matchAt (s.rv a) (s.rv b))))))

/-- VMOVX to a scalar register (15 R219). -/
def execVmovxToX (x : BitVec 6) (v l : BitVec 5) (s : State) : Out :=
  finish s (s.vproduce 2 (.x x (.ofNat 64 (laneOf (s.rv v) 64 l.toNat))))

/-- VMOVX into one lane (15 R219). -/
def execVmovxToV (x : BitVec 6) (v l : BitVec 5) (s : State) : Out :=
  finish s (s.vproduce 2 (.lane v l.toNat (s.rx x)))

/-- Lane j of a list of codes comes before lane i in TOPK's order (15 R220). -/
def topBefore (f : Num.Fmt) (c : List Nat) (j i : Nat) : Bool :=
  let x := Num.decode f (c.getD j 0)
  let y := Num.decode f (c.getD i 0)
  if x.isNan then y.isNan && decide (j < i)
  else y.isNan || Num.lt y x || (!Num.lt x y && decide (j < i))

/-- A lane number put in its place among ordered ones. -/
def topInsert (f : Num.Fmt) (c : List Nat) (i : Nat) : List Nat → List Nat
  | [] => [i]
  | j :: js => if topBefore f c i j then i :: j :: js else j :: topInsert f c i js

/-- Lane numbers in TOPK's order (15 R220). -/
def topOrder (f : Num.Fmt) (c : List Nat) : List Nat := (List.range c.length).foldl (fun l i => topInsert f c i l) []

/-- TOPK (15 R220). -/
def execTopk (d a : BitVec 5) (k : BitVec 7) (e : BitVec 3) (s : State) : Out :=
  let f := etFmt e
  let order := (topOrder f (lanesOf (s.rv a) f.width)).take k.toNat
  finish s (s.vproduce 12 (.v d (ofLanes 32 (order ++ List.replicate (64 - k.toNat) (2 ^ 32 - 1)))))

/-! ### Vector memory -/

/-- VLD (15 R221); while a page is not present it holds no pieces (10 R153; log 29). -/
def execVld (v : BitVec 5) (c : BitVec 4) (i : BitVec 10) (s : State) : Out := finish s (do
  s.vecReady
  s.room .L
  let e := immOff (s.rc c) 256 i.toNat
  let gs ← s.portAccess (s.rc c) { rd := true } e 256 1 []
  let segs := if gs.all (·.2.isSome) then portPart gs e.toNat 256 else []
  .ok (s.vecUsed.issueOp .L (.loadVec (s.rc c) e.toNat segs v) []))

/-- VST (15 R221). -/
def execVst (v : BitVec 5) (c : BitVec 4) (i : BitVec 10) (s : State) : Out := finish s (do
  s.vecReady
  s.room .S
  let segs ← s.access (s.rc c) { wr := true } (immOff (s.rc c) 256 i.toNat) 256 1 [] false
  .ok (s.vecUsed.issueOp .S (.store segs (bytesOf 256 (s.rv v).toNat) false) []))

/-- The elements of VLD: its bytes on each page. -/
def vldElems (c : Cap) (off : Nat) : List Elem := ((pages off 256).zip (List.range 2)).map fun p => ⟨p.2, c, p.1.1, p.1.2⟩

/-- Values of these numbers of bytes as one, the first lowest. -/
def joinVals : List Nat → List Nat → Nat
  | n :: ns, v :: vs => v + 2 ^ (8 * n) * joinVals ns vs
  | _, _ => 0

/-- The bytes of VLD: of the pieces that it holds, or of its elements in their order (10 R153). -/
def State.vldBytes (s : State) (sid : Nat) (o : Op) (els : List Elem) (segs : List Seg) : UnitRes Nat :=
  if segs.isEmpty then
    match s.receiveAll sid o els with
    | .ok l => .ok (joinVals (els.map (·.len)) l)
    | .absent a b => .absent a b
    | .bad a b => .bad a b
  else match s.heldSegs segs with
    | .ok g => .ok (s.readNat g)
    | .absent a b => .absent a b
    | .bad a b => .bad a b

/-- VLD performed: its bytes are received once every page of them is present (10 R153). -/
def State.performVld (s : State) (sid : Nat) (o : Op) (live : Bool) (c : Cap) (off : Nat) (segs : List Seg) (v : BitVec 5) : State :=
  let els := vldElems c off
  if !s.acceptsAll sid o els then s else
  match s.vldBytes sid o els segs with
  | .ok x => (s.deposit sid live (.v v (.ofNat 2048 x))).dropOp sid o.id
  | .absent _ _ => s.divertAll sid o false els
  | .bad k f => (s.stopOp sid o.id).stopMessage sid o 1 k f 0 0

/-- The pieces of a contribution at f: those it holds, or those of its page as it lies now. -/
def State.redSegs (s : State) (sid : Nat) (o : Op) (c : Cap) (op f : Nat) (held : List Seg) : UnitRes (List Seg) :=
  if held.isEmpty then s.segsOf sid o.iface c f (redBytes op) true else s.heldSegs held

/-- The contributions of RED and REDV performed (13 R191), after those that have been left. Unordered ones go on past one
whose page is missing or whose port takes it not; ordered ones are received in order (10 R153). One that meets an
unresolvable fault ends the operation but for those that wait in a spill queue (10 R154). -/
def State.redRun (s : State) (sid : Nat) (o : Op) (c : Cap) (op : Nat) (ord : Bool) (left : List (Nat × List Seg × Nat)) :
    List (Nat × List Seg × Nat) → State
  | [] => if left.isEmpty then s.dropOp sid o.id else s.setTask sid o.id (.red c op ord left) true
  | v :: vs =>
    if s.skips sid o v.1 then s.redRun sid o c op ord left vs else
    let rest := s.setTask sid o.id (.red c op ord (left ++ v :: vs)) true
    if !s.accepts sid o v.1 c v.1 then (if ord then rest else s.redRun sid o c op ord (left ++ [v]) vs) else
    match s.redSegs sid o c op v.1 v.2.1 with
    | .ok g => ((s.rmw g op (.ofNat 64 v.2.2)).1.undivert sid o.id v.1).redRun sid o c op ord left vs
    | .absent oid off =>
      if ord then rest.divertAll sid o true (((v :: vs).filter fun p => !s.skips sid o p.1).map fun p => ⟨p.1, c, p.1, redBytes op⟩)
      else (s.divert sid o v.1 oid off).redRun sid o c op ord (left ++ [v]) vs
    | .bad k off =>
      let t := s.undivert sid o.id v.1
      (t.halt sid o k off).redRun sid { o with halted := true } c op ord (left.filter fun p => t.diverted sid o.id p.1) vs

/-- The element offsets of VGATH and VSCAT (15 R222): none outside the bounds. -/
def indexed (c : Cap) (vi : VWord) (size : Nat) : List (Option Nat) :=
  (List.range 64).map fun i =>
    let o := c.off + laneOf vi 32 i * size
    if o + size ≤ c.len then some o else none

/-- The range scoreboard for each element in the bounds (10 R161). -/
def State.boardEach (s : State) (c : Cap) (size : Nat) (write : Bool) (offs : List (Option Nat)) : Except Stop Unit :=
  foldE (fun _ o => match o with | some e => s.board c e size write | none => .ok ()) () offs

/-- VGATH (15 R222). -/
def execVgath (v : BitVec 5) (c : BitVec 4) (x : BitVec 5) (e : BitVec 3) (s : State) : Out := finish s (do
  s.vecReady
  s.room .L
  let cap := s.rc c
  s.checkTag cap { rd := true } cap.off
  let offs := indexed cap (s.rv x) ((etFmt e).width / 8)
  s.boardEach cap ((etFmt e).width / 8) false offs
  .ok (s.vecUsed.issueOp .L (.gather cap offs e v) []))

/-- VSCAT (15 R223). -/
def execVscat (v : BitVec 5) (c : BitVec 4) (x : BitVec 5) (e : BitVec 3) (a : BitVec 1) (s : State) : Out := finish s (do
  s.vecReady
  s.room .S
  let cap := s.rc c
  let add := a == 1
  s.checkTag cap (if add then rmwRights else { wr := true }) cap.off
  require (!(add && (cap.kind == 2 || cap.kind == 5))) (capTrap subRights cap.off)
  let w := (etFmt e).width
  let offs := (indexed cap (s.rv x) (w / 8)).map fun o => match o with
    | some k => if add && k % (w / 8) != 0 then none else some k
    | none => none
  s.boardEach cap (w / 8) true offs
  .ok (s.vecUsed.issueOp .S (.scatter cap (offs.zip ((List.range 64).map (laneOf (s.rv v) w))) e add []) []))

/-- The poison value of a type (15 R222). -/
def poison (et : BitVec 3) : Nat :=
  match etFmt et with
  | .int w => 2 ^ (w - 1)
  | f => Num.nanCode f Num.cnan

/-- The elements of VGATH: those in the bounds, by their lanes. -/
def gatherElems (c : Cap) (offs : List (Option Nat)) (et : BitVec 3) : List Elem :=
  (offs.zip (List.range 64)).filterMap fun p => p.1.map fun f => ⟨p.2, c, f, (etFmt et).width / 8⟩

/-- The lanes of a gather: its elements in lane order, and a value for each that is out of bounds. -/
def fillLanes (out : Nat) : List (Option Nat) → List Nat → List Nat
  | [], _ => []
  | none :: os, vs => out :: fillLanes out os vs
  | some _ :: os, vs => vs.headD 0 :: fillLanes out os vs.tail

/-- VGATH completes, waits for a page, or is stopped (15 R222). Its elements are received in lane order (10 R153); one that
meets an unresolvable fault stops it, and it leaves once its elements in flight are done (10 R154). TSTAT.IDX is set for any
lane out of bounds, one after the lane of such a fault too (log 87). -/
def State.performGather (s : State) (sid : Nat) (o : Op) (live : Bool) (c : Cap) (offs : List (Option Nat)) (et : BitVec 3)
    (v : BitVec 5) : State :=
  let flag (t : State) : State := if live then t.onSlot sid (·.setIdx (offs.any (·.isNone))) else t
  let els := gatherElems c offs et
  if !s.acceptsAll sid o els then s else
  match s.receiveAll sid o els with
  | .ok l => (flag (s.deposit sid live (.v v (ofLanes (etFmt et).width (fillLanes (poison et) offs l))))).dropOp sid o.id
  | .absent _ _ => s.divertAll sid o false els
  | .bad k off => ((flag s).stopOp sid o.id).stopMessage sid o 1 k off 0 0

/-- An element added at memory (15 R223). -/
def addElem (f : Num.Fmt) (old v : Nat) : Nat := laneOp .add f old v 0

/-- The elements of a scatter that are still to be received, by how many follow them. -/
def scatterElems (c : Cap) (et : BitVec 3) (part : List Nat) : List (Option Nat × Nat) → List Elem
  | [] => []
  | (some f, _) :: es =>
    if part.contains es.length then scatterElems c et part es
    else ⟨es.length, c, f, (etFmt et).width / 8⟩ :: scatterElems c et part es
  | (none, _) :: es => scatterElems c et part es

/-- The elements of a scatter in lane order (10 R153): what is left when a page is missing or a port takes no element. Those
after one that meets an unresolvable fault are not issued, but for those that wait in a spill queue (10 R154). -/
def State.scatterRun (s : State) (sid : Nat) (o : Op) (live : Bool) (c : Cap) (et : BitVec 3) (add : Bool)
    (part : List Nat) : List (Option Nat × Nat) → State
  | [] => s.dropOp sid o.id
  | (none, _) :: es => (if live && !o.halted then s.onSlot sid (·.setIdx true) else s).scatterRun sid o live c et add part es
  | (some f, v) :: es =>
    if part.contains es.length || s.skips sid o es.length then s.scatterRun sid o live c et add part es else
    let n := (etFmt et).width / 8
    let wait := s.setTask sid o.id (.scatter c ((some f, v) :: es) et add part) true
    if !s.accepts sid o es.length c f then wait else
    match s.segsOf sid o.iface c f n true with
    | .ok g =>
      let new := if add then addElem (etFmt et) (s.readNat g) v else v
      ((s.writeSegs g (bytesOf n new)).undivert sid o.id es.length).scatterRun sid o live c et add part es
    | .absent _ _ => wait.divertAll sid o true ((scatterElems c et part ((some f, v) :: es)).filter fun e => !s.skips sid o e.key)
    | .bad k off =>
      ((s.undivert sid o.id es.length).halt sid o k off).scatterRun sid { o with halted := true } live c et add part es

end Sys2Proof.Machine
end

