-- ==== Sys2Proof/Machine/Tile.lean ====
section
/-! DEFINITION. Tile, accumulator and macro-operation instructions (15 R224-R237), in handlers too (26 R311). -/

namespace Sys2Proof.Machine

/-! ### Tile control registers -/

/-- Fields of a TC register (07 R90): rows, blocks per row, width code, format, type, valid elements. -/
def tcRows (t : BitVec 28) : Nat := bits t.toNat 6 0 + 1
def tcBlk (t : BitVec 28) : Nat := bits t.toNat 7 7 + 1
def tcWidth (t : BitVec 28) : Nat := bits t.toNat 9 8
def tcFmt (t : BitVec 28) : Nat := bits t.toNat 17 10
def tcType (t : BitVec 28) : Nat := bits t.toNat 19 18
def tcValid (t : BitVec 28) : Nat := bits t.toNat 27 20

/-- The register describes a usable shape (07 R91). -/
def tcOk (t : BitVec 28) : Bool :=
  Num.fmtKnown (tcFmt t) && (match Num.widthClass (tcFmt t) with | some k => k == tcWidth t | none => true) &&
  tcValid t != 0 && decide (tcValid t ≤ tcBlk t * Num.perBlock (tcWidth t))

/-! ### Tiles and blocks -/

/-- Block position k of row r of a tile. -/
def Tile.block (t : Tile) (r k : Nat) : Nat := bits (vget t r 0).toNat (512 * k + 511) (512 * k)

/-- Block position k of row r set. -/
def Tile.setBlock (t : Tile) (r k b : Nat) : Tile :=
  let o := (vget t r 0).toNat
  vset t r (.ofNat 1024 (o - bits o (512 * k + 511) (512 * k) * 2 ^ (512 * k) + b % 2 ^ 512 * 2 ^ (512 * k)))

/-- Blocks from position 0 of row r on set. -/
def Tile.setRow (t : Tile) (r : Nat) (bs : List Nat) : Tile :=
  (List.range bs.length).foldl (fun t k => t.setBlock r k (bs.getD k 0)) t

/-- A block marked poisoned: its payload is kept (15 R224). -/
def poisonBlock (b : Nat) : Nat := Num.header 0xFF 0 0xFF0 + b / 2 ^ 32 * 2 ^ 32

/-- Rows r … r + n - 1 poisoned in the positions a TC uses. -/
def Tile.poisonRows (t : Tile) (tc : BitVec 28) (r n : Nat) : Tile :=
  (List.range n).foldl (fun t i => t.setRow (r + i) ((List.range (tcBlk tc)).map fun k => poisonBlock (t.block (r + i) k))) t

/-- Element j of row r of a tile under its TC (05 R70). -/
def Tile.elem (t : Tile) (tc : BitVec 28) (r j : Nat) : Num.FV :=
  let p := Num.perBlock (tcWidth tc)
  Num.readElem (t.block r (j / p)) (tcWidth tc) (j % p)

/-- A tile of the core of a slot. -/
def State.tile (s : State) (sid p : Nat) : Tile := vget (s.coreAt (sid / 128)).tiles p Tile.zero

/-- A tile of the core of a slot set. -/
def State.setTile (s : State) (sid p : Nat) (t : Tile) : State :=
  let c := s.coreAt (sid / 128)
  s.setCore { c with tiles := vset c.tiles p t }

/-- An accumulator of the core of a slot. -/
def State.acc (s : State) (sid a : Nat) : Acc := vget (s.coreAt (sid / 128)).accs a Acc.zero

/-- An accumulator of the core of a slot set. -/
def State.setAcc (s : State) (sid a : Nat) (v : Acc) : State :=
  let c := s.coreAt (sid / 128)
  s.setCore { c with accs := vset c.accs a v }

/-- Element (r, c) of an accumulator. -/
def Acc.get (a : Acc) (r c : Nat) : Nat := laneOf (vget a.rows r 0) 32 c

/-! ### Issue -/

/-- A tile instruction may run here: a compute core, below level 2 (07 R108, 26 R311). -/
def State.tileUnit (s : State) : Except Stop Unit := do
  s.computeOnly
  require (decide (s.me.lvl < 2)) s.illegal

/-- A tile field as the physical tile and the number of its TC register (03 R44, 26 R311). -/
def State.tileNo (s : State) (t : BitVec 4) : Except Stop (Nat × Nat) :=
  if s.me.lvl = 0 then match s.me.window[t.toNat]? with
    | some p => .ok (p, t.toNat)
    | none => .error s.illegal
  else if t.toNat ≤ 1 then .ok (14 + t.toNat, 14 + t.toNat) else .error s.illegal

/-- The tiles an instruction names: physical tiles with their TC registers, in a handler with the reserved pair free
(26 R311), every shape usable (07 R91). -/
def State.tiles (s : State) (ts : List (BitVec 4)) : Except Stop (List (Nat × BitVec 28)) := do
  let ns ← foldE (fun (l : List (Nat × Nat)) t => do .ok (l ++ [← s.tileNo t])) [] ts
  require (!(s.me.lvl == 1 && !s.me.ht && s.pairTaken)) (.park .pair)
  let r := ns.map fun n => (n.1, s.rtc n.2)
  require (r.all fun n => tcOk n.2) s.tileFault
  .ok r

/-- A handler's tile instruction takes the reserved pair (26 R311). -/
def State.takePair (s : State) : State := { s with me := { s.me with ht := s.me.ht || s.me.lvl == 1 } }

/-- The accumulators the slot holds at its level. -/
def Slot.held (sl : Slot) : List Nat := if sl.lvl = 0 then sl.accs else sl.haccs

/-- The accumulator is held (15 R225). -/
def State.accOk (s : State) (a : Nat) : Except Stop Unit := require (s.me.held.contains a) s.illegal

/-- The interlock of 15 R226. -/
def State.interlock (s : State) (t : Task) : Except Stop Unit :=
  let u := t.tileUse
  let ids := (s.me.ops.filter fun o =>
    let v := o.task.tileUse
    o.cls = .T && (v.2.any (fun x => u.1.contains x || u.2.contains x) || v.1.any u.2.contains)).map (·.id)
  require ids.isEmpty (.park (.ops ids))

/-- A tile instruction issues, with room in class T (03 R58): the stall ranks below every illegal instruction (07 R107). -/
def State.issueTile (s : State) (t : Task) : Res := do
  s.room .T
  s.interlock t
  .ok (s.issueOp .T t [])

/-- MTTC and MFTC name a TC register that the mode may (07 R90, 26 R311). -/
def State.tcMode (s : State) (t : BitVec 4) : Except Stop Unit := do
  s.computeOnly
  require (decide (s.me.lvl < 2)) s.illegal
  if s.me.lvl = 0 then require (decide (t.toNat < 14)) s.privilege else require (decide (14 ≤ t.toNat)) s.illegal

/-- MTTC (15 R228): applies from the second cycle on (07 R91). -/
def execMttc (t : BitVec 4) (x : BitVec 6) (s : State) : Out := finish s (do
  s.tcMode t
  .ok (s.produce 2 (.tc t.toNat ((s.rx x).truncate 28)) false))

/-- MFTC (15 R228). -/
def execMftc (t : BitVec 4) (d : BitVec 6) (s : State) : Out := finish s (do
  s.tcMode t
  .ok (s.produce 2 (.x d ((s.rtc t.toNat).zeroExtend 64)) false))

/-- TCLAIM (15 R225, 26 R311): held from its issue, zeroed when it is performed. -/
def execTclaim (a : BitVec 2) (s : State) : Out := finish s (do
  s.tileUnit
  let cid := s.me.id / 128
  require (!s.me.held.contains a.toNat) s.illegal
  require (!(s.me.lvl == 1 && s.accHeld cid a.toNat)) s.illegal
  require (!(s.accHeld cid a.toNat || s.accHandler cid a.toNat)) (.park (.acc a.toNat))
  let t ← s.issueTile (.tclaim a.toNat)
  .ok { t with me := if s.me.lvl = 0 then { t.me with accs := t.me.accs ++ [a.toNat] } else { t.me with haccs := t.me.haccs ++ [a.toNat] } })

/-- TMMA (15 R231). -/
def execTmma (d : BitVec 2) (a b : BitVec 4) (s : State) : Out := finish s (do
  s.tileUnit
  s.accOk d.toNat
  match ← s.tiles [a, b] with
  | [(pa, ta), (pb, tb)] =>
    require (tcWidth ta == tcWidth tb && tcWidth ta != 3 && tcBlk ta == tcBlk tb && decide (tcRows tb ≤ 64)) s.tileFault
    s.takePair.issueTile (.tmma d.toNat pa pb ta tb)
  | _ => .error s.illegal)

/-- A form of major 0x71 with sources and a shape rule (15 R233). -/
def tarith (fn : Nat) (d a b : BitVec 4) (r : BitVec 3) (sat : BitVec 1) (s : State) : Res := do
  s.tileUnit
  match ← s.tiles [d, a, b] with
  | [(pd, td), (pa, ta), (pb, tb)] =>
    let same := tcRows td == tcRows ta && tcValid td == tcValid ta && tcRows td == tcRows tb && tcValid td == tcValid tb
    require (if fn = 3 then tcRows td == tcValid ta && tcValid td == tcRows ta else same) s.tileFault
    s.takePair.issueTile (.tarith fn pd pa pb td ta tb r (sat == 1))
  | _ => .error s.illegal

/-- TADD (15 R233). -/
def execTadd (d a b : BitVec 4) (r : BitVec 3) (x : BitVec 1) (s : State) : Out := finish s (tarith 0 d a b r x s)
/-- TMUL (15 R233). -/
def execTmul (d a b : BitVec 4) (r : BitVec 3) (x : BitVec 1) (s : State) : Out := finish s (tarith 1 d a b r x s)
/-- TCVT (15 R233). -/
def execTcvt (d a : BitVec 4) (r : BitVec 3) (x : BitVec 1) (s : State) : Out := finish s (tarith 2 d a a r x s)
/-- TTRANS (15 R233). -/
def execTtrans (d a : BitVec 4) (r : BitVec 3) (x : BitVec 1) (s : State) : Out := finish s (tarith 3 d a a r x s)

/-- TZERO of a tile (15 R233). -/
def execTzero (d : BitVec 4) (s : State) : Out := finish s (do
  s.tileUnit
  match ← s.tiles [d] with
  | [(p, t)] => s.takePair.issueTile (.tzero p t)
  | _ => .error s.illegal)

/-- TZERO of an accumulator (15 R233). -/
def execTzeroAcc (d : BitVec 2) (s : State) : Out := finish s (do
  s.tileUnit
  s.accOk d.toNat
  s.issueTile (.azero d.toNat))

/-- TROWMAX (15 R234). -/
def execTrowmax (a : BitVec 2) (d : BitVec 5) (s : State) : Out := finish s (do
  s.tileUnit
  s.accOk a.toNat
  s.issueTile (.rowmax d a.toNat))

/-- TROWSUM (15 R234). -/
def execTrowsum (a : BitVec 2) (d : BitVec 5) (s : State) : Out := finish s (do
  require (d.toNat % 2 == 0) s.illegal
  s.tileUnit
  s.accOk a.toNat
  s.issueTile (.rowsum d a.toNat))

/-- TMOVV (15 R234). -/
def execTmovv (a : BitVec 2) (d : BitVec 5) (r : BitVec 7) (s : State) : Out := finish s (do
  s.tileUnit
  s.accOk a.toNat
  s.issueTile (.movv d a.toNat r.toNat))

/-! ### Loading and storing tiles -/

/-- Bytes of a row on a page of described blocks, or on a plain one (15 R229). -/
def rowBytes (tc : BitVec 28) (d : Bool) : Nat :=
  if d then tcBlk tc * 64 else (tcValid tc * Num.widthBits (tcWidth tc) + 7) / 8

/-- The kind of the page of a row's first byte, as a thread's access finds it (15 R229, 10 R151). -/
def State.rowKind (s : State) (c : Cap) (write : Bool) (o : Int) : Except Stop Bool := do
  if c.kind = 1 then .ok false
  else
    match ← s.translate c o.toNat 1 write o with
    | [g] => .ok g.d
    | _ => .ok false

/-- The lowest offset of the rows outside the bounds. -/
def lowestOutside (c : Cap) (rows : List (Int × Nat)) : Option Int :=
  (rows.filterMap fun r => if inBounds c r.1 r.2 then none else some (firstOutside c r.1)).foldl
    (fun m o => match m with | none => some o | some k => some (if o < k then o else k)) none

/-- The kinds of the pages of the rows whose first byte lies within the bounds; where some first byte does not, a
translation that fails for good says nothing, since the bounds come first (13 R182). -/
def State.rowKinds (s : State) (c : Cap) (write : Bool) (offs : List Int) : Except Stop (List (Option Bool)) :=
  let out := offs.any fun o => !inBounds c o 1
  foldE (fun (l : List (Option Bool)) o =>
    if !inBounds c o 1 then .ok (l ++ [none]) else
    match s.rowKind c write o with
    | .ok d => .ok (l ++ [some d])
    | .error (.trap k sub v) => if out then .ok (l ++ [none]) else .error (.trap k sub v)
    | .error p => .error p) [] offs

/-- The rows of TLD and TST, checked (15 R229); TVAL of a bounds failure is the lowest offset outside over all rows. -/
def State.tileRows (s : State) (c : Cap) (write : Bool) (tc : BitVec 28) (e pitch : Int) : Except Stop (List (Nat × Bool)) := do
  s.checkTag c (if write then { wr := true } else { rd := true }) e
  let offs := (List.range (tcRows tc)).map fun (r : Nat) => e + (r : Int) * pitch
  let ks ← s.rowKinds c write offs
  let low := lowestOutside c (offs.zip (ks.map fun k => match k with | some d => rowBytes tc d | none => 1))
  require (ks.all (·.isSome)) (capTrap subBounds (low.getD e))
  let ds := ks.map (·.getD false)
  require (!(write && Num.fmtOf (tcFmt tc) 0 = none && ds.any (!·))) s.tileFault
  match low with
  | some o => .error (capTrap subBounds o)
  | none =>
    foldE (fun _ (p : Int × Bool) => s.board c p.1.toNat (rowBytes tc p.2) write) () (offs.zip ds)
    .ok ((offs.map Int.toNat).zip ds)

/-- TLD (15 R229). -/
def execTld (d c : BitVec 4) (p : BitVec 6) (i : BitVec 8) (s : State) : Out := finish s (do
  s.tileUnit
  match ← s.tiles [d] with
  | [(t, tc)] =>
    let cap := s.rc c
    let rows ← s.tileRows cap false tc (immOff cap 16 i.toNat) (s.rx p).toInt
    s.takePair.issueTile (.tld cap t tc rows)
  | _ => .error s.illegal)

/-- TST (15 R229). -/
def execTst (d c : BitVec 4) (p : BitVec 6) (i : BitVec 8) (s : State) : Out := finish s (do
  s.tileUnit
  match ← s.tiles [d] with
  | [(t, tc)] =>
    let cap := s.rc c
    let rows ← s.tileRows cap true tc (immOff cap 16 i.toNat) (s.rx p).toInt
    s.takePair.issueTile (.tst cap t tc rows)
  | _ => .error s.illegal)

/-- TLDN (15 R230). -/
def execTldn (d : BitVec 4) (n : BitVec 2) (s : State) : Out := finish s (do
  s.tileUnit
  let c := s.rn n
  require (c.armed && decide (1 ≤ nestStreams c.par.toNat) && nestDir c.par.toNat 0 % 2 == 1) s.illegal
  match ← s.tiles [d] with
  | [(t, tc)] => s.takePair.issueTile (.tldn t tc c 0)
  | _ => .error s.illegal)

/-- TGEMM (15 R232). -/
def execTgemm (a : BitVec 2) (p q : BitVec 4) (n : BitVec 2) (s : State) : Out := finish s (do
  s.tileUnit
  s.accOk a.toNat
  let c := s.rn n
  let w := c.par.toNat
  require (decide (p.toNat ≤ 12) && decide (q.toNat ≤ 12) && (decide (p.toNat + 1 < q.toNat) || decide (q.toNat + 1 < p.toNat))) s.illegal
  require (c.armed && nestStreams w == 2 && nestDir w 0 % 2 == 1 && nestDir w 1 % 2 == 1 && c.i 0 == 0) s.illegal
  match ← s.tiles [p, p + 1, q, q + 1] with
  | [(pa, ta), (pa', ta'), (pb, tb), (pb', tb')] =>
    require (ta == ta' && tb == tb') s.tileFault
    require (tcWidth ta == tcWidth tb && tcWidth ta != 3 && tcBlk ta == tcBlk tb && decide (tcRows tb ≤ 64)) s.tileFault
    require (nestCount w 0 == max (tcRows ta) (tcRows tb)) s.tileFault
    s.takePair.issueTile (.tgemm a.toNat (pa, pa') (pb, pb') ta tb c 0)
  | _ => .error s.illegal)

/-- The block positions that a row's bytes become, and whether a header was ill-formed (15 R229). -/
def rowBlocks (tc : BitVec 28) (d : Bool) (off v : Nat) : List Nat × Bool :=
  let w := tcWidth tc
  if d then
    let bs := (List.range (tcBlk tc)).map fun k => bits v (512 * k + 511) (512 * k)
    if off % 64 ≠ 0 then (bs.map poisonBlock, true)
    else (bs.map fun b => if Num.illFormed b w then poisonBlock b else b, bs.any fun b => Num.illFormed b w)
  else
    let p := Num.perBlock w
    let wb := Num.widthBits w
    ((List.range (tcBlk tc)).map fun k =>
      let n := min p (tcValid tc - k * p)
      let codes := if Num.fmtOf (tcFmt tc) 0 = none then 0 else bits v (wb * (k * p + n) - 1) (wb * (k * p))
      Num.header (tcFmt tc) (tcType tc) 0x7F0 + (if n = 0 then 0 else codes * 2 ^ 32), false)

/-- Row r of TLD as an element of its stream. -/
def tldElem (c : Cap) (tc : BitVec 28) (r off : Nat) (d : Bool) : Elem := ⟨r, c, off, rowBytes tc d⟩

/-- The rows of TLD. -/
def tldElems (c : Cap) (tc : BitVec 28) (rows : List (Nat × Bool)) : List Elem :=
  (rows.zip (List.range rows.length)).map fun r => tldElem c tc r.2 r.1.1 r.1.2

/-- A row loaded: its blocks and the flag. -/
def State.readRow (s : State) (sid : Nat) (o : Op) (c : Cap) (tc : BitVec 28) (r off : Nat) (d : Bool) : UnitRes (List Nat × Bool) :=
  match s.receive sid o (tldElem c tc r off d) with
  | .ok v => .ok (rowBlocks tc d off v.2)
  | .absent a b => .absent a b
  | .bad a b => .bad a b

/-- What a list of rows became: the tile, the flag, and the row at which it stopped. -/
structure RowsRes where
  t    : Tile
  fmt  : Bool
  stop : Option (Nat × Nat × Nat)

/-- Rows loaded in order into a tile; a page to wait for, or the rows up to the first that fails. The rows are taken as one
stream in row order, though each is a stream of its own (15 R229, log 86). -/
def State.loadRows (s : State) (sid : Nat) (o : Op) (c : Cap) (tc : BitVec 28) (t : Tile) (fmt : Bool) (r : Nat) :
    List (Nat × Bool) → UnitRes RowsRes
  | [] => .ok ⟨t, fmt, none⟩
  | (off, d) :: rows => match s.readRow sid o c tc r off d with
    | .ok b => s.loadRows sid o c tc (t.setRow r b.1) (fmt || b.2) (r + 1) rows
    | .absent a b => .absent a b
    | .bad k f => .ok ⟨t, fmt, some (r, k, f)⟩

/-- TSTAT.FMT of an operation's slot set. -/
def State.flagFmt (s : State) (sid : Nat) (live b : Bool) : State := if live then s.onSlot sid (·.setFmt b) else s

/-- TLD performed (15 R229). A row that meets an unresolvable fault stops it, and it leaves once its rows in flight are done
(10 R154). -/
def State.performTld (s : State) (sid : Nat) (o : Op) (live : Bool) (c : Cap) (p : Nat) (tc : BitVec 28) (rows : List (Nat × Bool)) : State :=
  let els := tldElems c tc rows
  if !s.acceptsAll sid o els then s else
  match s.loadRows sid o c tc (s.tile sid p) false 0 rows with
  | .absent _ _ => s.divertAll sid o false els
  | .bad _ _ => s
  | .ok r => match r.stop with
    | none => ((s.setTile sid p r.t).flagFmt sid live r.fmt).dropOp sid o.id
    | some (k, cause, off) =>
      (((s.setTile sid p (r.t.poisonRows tc k (tcRows tc - k))).flagFmt sid live r.fmt).stopOp sid o.id).stopMessage sid o 1 cause off 0 0

/-- The bytes of a row that TST writes; none where it writes nothing (15 R229). -/
def tstBytes (t : Tile) (tc : BitVec 28) (r off : Nat) (d : Bool) : Option (List Byte) :=
  if d then
    if off % 64 ≠ 0 then none
    else some ((List.range (tcBlk tc)).flatMap fun k =>
      let b := t.block r k
      bytesOf 64 (if Num.hFmt b = 0x10 then b else b - bits b 31 30 * 2 ^ 30))
  else match Num.fmtOf (tcFmt tc) (tcType tc) with
    | some f => some (bytesOf (rowBytes tc false) (Num.packCodes f.width ((List.range (tcValid tc)).map fun j =>
        Num.encodeAt f 0x7F0 0 false (t.elem tc r j))))
    | none => none

/-- The rows that TST still has to write, in row order (log 86); a page to wait for, or a port that takes no element, keeps them. It has begun once
a row is written (26 R313). Those after one that meets an unresolvable fault are not issued, but for those that wait in spill
queues (10 R154). -/
def State.storeRows (s : State) (sid : Nat) (o : Op) (live : Bool) (c : Cap) (p : Nat) (tc : BitVec 28) :
    List (Nat × Bool) → State
  | [] => s.dropOp sid o.id
  | (off, d) :: rows =>
    let r := tcRows tc - (rows.length + 1)
    if s.skips sid o r then s.storeRows sid o live c p tc rows else
    match tstBytes (s.tile sid p) tc r off d with
    | none => (s.flagFmt sid live true).storeRows sid o live c p tc rows
    | some bs =>
      let wait := s.setTask sid o.id (.tst c p tc ((off, d) :: rows)) false
      if !s.accepts sid o r c off then wait else
      match s.segsOf sid o.iface c off bs.length true with
      | .ok g =>
        (((s.writeSegs g bs).undivert sid o.id r).setTask sid o.id (.tst c p tc rows) true).storeRows sid o live c p tc rows
      | .absent _ _ => wait.divertAll sid o true
          (((((off, d) :: rows).zip (List.range (rows.length + 1))).filter fun x => !s.skips sid o (r + x.2)).map fun x =>
            tldElem c tc (r + x.2) x.1.1 x.1.2)
      | .bad k f => ((s.undivert sid o.id r).halt sid o k f).storeRows sid { o with halted := true } live c p tc rows

/-! ### Macro-operations -/

/-- A row of a nest stream as an element of the operation: its name, the nest at its point, the stream, the tile's TC. -/
structure NestRow where
  key : Nat
  n   : Nest
  k   : Nat
  tc  : BitVec 28

/-- The capability and the offset that a row of a nest stream is read at. -/
def NestRow.cap (e : NestRow) : Cap := vget e.n.caps (e.k % 3) Cap.null
def NestRow.off (e : NestRow) : Nat := e.n.at e.k

/-- The page of a row needs more than EXT bytes (15 R230). -/
def NestRow.short (e : NestRow) (d : Bool) : Bool := decide (nestExt e.n.par.toNat e.k < rowBytes e.tc d)

/-- What a row of a nest stream reads now, with the D bit of its page; nothing where the page needs more than EXT bytes. -/
def State.readNest (s : State) (sid iface : Nat) (e : NestRow) : UnitRes (Bool × Nat) :=
  match s.segsOf sid iface e.cap e.off 1 false with
  | .absent a b => .absent a b
  | .bad a b => .bad a b
  | .ok g =>
    let d := g.any (·.d)
    if e.short d then .ok (d, 0)
    else match s.segsOf sid iface e.cap e.off (rowBytes e.tc d) false with
      | .ok h => .ok (d, s.readNat h)
      | .absent a b => .absent a b
      | .bad a b => .bad a b

/-- What a row of a nest stream gives in its turn: what it read before, or reads now (10 R153). -/
def State.receiveNest (s : State) (sid : Nat) (o : Op) (e : NestRow) : UnitRes (Bool × Nat) :=
  match s.heldVal sid o.id e.key with
  | some v => .ok v
  | none => s.readNest sid o.iface e

/-- Rows of nest streams diverted whose pages are not present (10 R152). -/
def State.divertNest (s : State) (sid : Nat) (o : Op) (rows : List NestRow) : State :=
  s.divertEach sid o (rows.map fun e => (e.key, s.readNest sid o.iface e))

/-- A row of a nest stream loaded into row r of a tile (15 R230): poisoned, with the flag, where the page needs more than EXT
bytes. -/
def State.nestRow (s : State) (sid : Nat) (o : Op) (e : NestRow) (t : Tile) (r : Nat) : UnitRes (Tile × Bool) :=
  match s.receiveNest sid o e with
  | .absent a b => .absent a b
  | .bad a b => .bad a b
  | .ok (d, v) =>
    if e.short d then .ok (t.poisonRows e.tc r 1, true)
    else let b := rowBlocks e.tc d e.off v; .ok (t.setRow r b.1, b.2)

/-- The nest at its next k points. -/
def Nest.sweep (n : Nest) : Nat → List Nest
  | 0 => []
  | k + 1 => n :: n.next.sweep k

/-- The rows that TLDN has still to load from point p on, by their points (15 R230). -/
def tldnRows (tc : BitVec 28) (n : Nest) (p : Nat) : List NestRow :=
  (((n.sweep (tcRows tc - p)).zip (List.range (tcRows tc - p))).filter fun x => x.1.armed).map fun x => ⟨p + x.2, x.1, 0, tc⟩

/-- Row r of stream k of a sweep of TGEMM. -/
def gemmRow (tc : BitVec 28) (n : Nest) (k r : Nat) : NestRow := ⟨2 * r + k, n, k, tc⟩

/-- The rows of a sweep of TGEMM in the order in which they are received (15 R232). -/
def sweepRows (ta tb : BitVec 28) (n : Nest) : List NestRow :=
  let c := nestCount n.par.toNat 0
  ((n.sweep c).zip (List.range c)).flatMap fun x =>
    (if x.2 < tcRows ta then [gemmRow ta x.1 0 x.2] else []) ++ (if x.2 < tcRows tb then [gemmRow tb x.1 1 x.2] else [])

/-- A row of a nest stream in scratchpad waits for the commands that write there (10 R161). -/
def State.padBusy (s : State) (sid : Nat) (n : Nest) (k : Nat) (tc : BitVec 28) : Bool :=
  (vget n.caps (k % 3) Cap.null).kind == 1 && !(s.boardHits (sid / 128) (n.at k) (rowBytes tc false) false).isEmpty

/-- A row of a nest stream can be loaded: no command writes it in scratchpad (10 R161), and its port takes it (R152). -/
def State.nestReady (s : State) (sid : Nat) (o : Op) (e : NestRow) : Bool :=
  !s.padBusy sid e.n e.k e.tc && s.accepts sid o e.key e.cap e.off

/-- A point of TLDN (15 R230). -/
def State.tldnStep (s : State) (sid : Nat) (o : Op) (live : Bool) : State :=
  match o.task with
  | .tldn t tc n p =>
    if !n.armed then s
    else if tcRows tc ≤ p then s.setTask sid o.id (.tldn t tc n.next (p + 1)) true
    else if !s.nestReady sid o ⟨p, n, 0, tc⟩ then s
    else match s.nestRow sid o ⟨p, n, 0, tc⟩ (s.tile sid t) p with
      | .ok r => (((s.setTile sid t r.1).flagFmt sid live r.2).undivert sid o.id p).setTask sid o.id (.tldn t tc n.next (p + 1)) true
      | .absent _ _ => s.divertNest sid o (tldnRows tc n p)
      | .bad k f => ((s.setTile sid t ((s.tile sid t).poisonRows tc p (tcRows tc - p))).endTask sid o.id true).stopMessage sid o 1 k f 0 0
  | _ => s

/-- The products of one block pair added to an accumulator (05 R78, 15 R231). -/
def mmaBlock (acc : Acc) (a b : Tile) (ta tb : BitVec 28) (k : Nat) : Acc :=
  let p := Num.perBlock (tcWidth ta)
  let row (t : Tile) (r : Nat) : List Num.FV := (List.range p).map (Num.readElem (t.block r k) (tcWidth ta))
  let zero (t : Tile) (r : Nat) : Bool := Num.zeroBlock (t.block r k) (tcWidth ta)
  let bs := (List.range (tcRows tb)).map fun c => (row b c, zero b c)
  { acc with rows := (List.range (tcRows ta)).foldl (fun rows r =>
      let ar := row a r
      let az := zero a r
      vset rows r (ofLanes 32 ((List.range 64).map fun c => match bs[c]? with
        | some br => Num.blockStep (acc.get r c) (az || br.2) (ar.zip br.1)
        | none => acc.get r c))) acc.rows }

/-- The product of two tiles added to an accumulator (15 R231). -/
def mma (acc : Acc) (a b : Tile) (ta tb : BitVec 28) : Acc :=
  let r := (List.range (tcBlk ta)).foldl (fun acc k => mmaBlock acc a b ta tb k) acc
  { r with m := max acc.m (tcRows ta), n := max acc.n (tcRows tb) }

/-- Where the loads of a step of TGEMM stand: the tiles, the nest, the flag, and a fault. -/
structure GemmLoad where
  a    : Tile
  b    : Tile
  n    : Nest
  fmt  : Bool
  stop : Option (Nat × Nat)

/-- The loads of rows r and on of a step of TGEMM, with fuel for the rows (15 R232). -/
def State.gemmRows (s : State) (sid : Nat) (o : Op) (ta tb : BitVec 28) : Nat → Nat → GemmLoad → UnitRes GemmLoad
  | 0, _, g => .ok g
  | fuel + 1, r, g =>
    let ra := if r < tcRows ta then s.nestRow sid o (gemmRow ta g.n 0 r) g.a r else .ok (g.a, false)
    match ra with
    | .absent x y => .absent x y
    | .bad k f => .ok { g with stop := some (k, f) }
    | .ok (a, fa) =>
      let rb := if r < tcRows tb then s.nestRow sid o (gemmRow tb g.n 1 r) g.b r else .ok (g.b, false)
      match rb with
      | .absent x y => .absent x y
      | .bad k f => .ok { g with a := a, fmt := g.fmt || fa, stop := some (k, f) }
      | .ok (b, fb) => s.gemmRows sid o ta tb fuel (r + 1) { g with a := a, b := b, n := g.n.next, fmt := g.fmt || fa || fb }

/-- A step of TGEMM (15 R232): one sweep of dimension 0 loaded, and its product added. Every row whose page is not present is
diverted, and later ones go on meanwhile (10 R152). -/
def State.tgemmStep (s : State) (sid : Nat) (o : Op) (live : Bool) : State :=
  match o.task with
  | .tgemm a pa pb ta tb n st =>
    if !n.armed then s else
    let ia := if st % 2 = 0 then pa.1 else pa.2
    let ib := if st % 2 = 0 then pb.1 else pb.2
    if !(sweepRows ta tb n).all (s.nestReady sid o) then s else
    match s.gemmRows sid o ta tb (nestCount n.par.toNat 0) 0 ⟨s.tile sid ia, s.tile sid ib, n, false, none⟩ with
    | .absent _ _ => s.divertNest sid o (sweepRows ta tb n)
    | .bad _ _ => s
    | .ok g =>
      let t := ((s.setTile sid ia g.a).setTile sid ib g.b).flagFmt sid live g.fmt
      match g.stop with
      | some (k, f) => (t.endTask sid o.id true).stopMessage sid o 1 k f 0 0
      | none => ((t.undivertAll sid o.id).setAcc sid a (mma (t.acc sid a) g.a g.b ta tb)).setTask sid o.id (.tgemm a pa pb ta tb g.n (st + 1)) true
  | _ => s

/-! ### Arithmetic on tiles, reads of accumulators -/

/-- The value of element (r, j) of td (15 R233). An exact zero sum of TADD has the sign that FADD gives it, so -0 under RDN
where two values cancel (log 78). -/
def tarithElem (fn : Nat) (a b : Tile) (ta tb : BitVec 28) (rm r j : Nat) : Num.FV :=
  if fn = 0 then Num.add rm (a.elem ta r j) (b.elem tb r j)
  else if fn = 1 then Num.mul (a.elem ta r j) (b.elem tb r j)
  else if fn = 2 then a.elem ta r j
  else a.elem ta j r

/-- td of TADD, TMUL, TCVT and TTRANS (15 R233). -/
def tarithTile (fn : Nat) (d a b : Tile) (td ta tb : BitVec 28) (rm : Nat) (sat : Bool) : Tile :=
  let p := Num.perBlock (tcWidth td)
  (List.range (tcRows td)).foldl (fun t r => t.setRow r ((List.range (tcBlk td)).map fun k =>
    Num.encodeBlock (tcFmt td) (tcType td) rm sat
      ((List.range (min p (tcValid td - k * p))).map fun j => tarithElem fn a b ta tb rm r (k * p + j)))) d

/-- The columns of a row within the extent. -/
def Acc.row (a : Acc) (r : Nat) : List Nat := (List.range a.n).map (a.get r)

/-- TROWMAX's lane (15 R234): BF16, rounded RUP. -/
def rowMaxLane (a : Acc) (r : Nat) : Nat :=
  if a.m ≤ r ∨ a.n = 0 then 0xFF80
  else
    let vs := (a.row r).map Num.of32
    if vs.any (·.isNan) then 0x7FC0
    else Num.encode .bf16 2 false (vs.foldl Num.maxV (.inf true))

/-- TROWSUM's sum (15 R234). -/
def rowSum (a : Acc) (r : Nat) : Nat :=
  if a.m ≤ r ∨ a.n = 0 then 0 else (Num.treeReduce Num.add32 7 (a.row r)).getD 0

/-! ### Draining -/

/-- Fields of a route entry (15 R235). -/
def rtDest (r : Nat) : Nat := bits r 127 0
def rtBar (r : Nat) : Nat := bits r 255 128
def rtKind (r : Nat) : Nat := bits r 257 256
def rtBv (r : Nat) : Bool := bits r 261 261 == 1
def rtRm (r : Nat) : Nat := bits r 279 277
def rtFmt (r : Nat) : Nat := bits r 287 280
def rtPitch (r : Nat) : Int := (BitVec.ofNat 32 (bits r 319 288)).toInt
def rtPort (r : Nat) : Nat := bits r 367 320

/-- The reserved fields, RM and FMT of an entry (15 R235, R236). -/
def rtOk (r : Nat) : Bool :=
  bits r 511 368 == 0 && bits r 276 262 == 0 && bits r 260 258 == 0 && decide (rtRm r ≤ 4) &&
  (rtFmt r == 0x40 || rtFmt r == 0x30 || rtFmt r == 0x31) &&
  (if rtKind r = 3 then decide (rtPort r < 32) else if rtKind r = 2 then decide (rtPort r < 64) else rtPort r == 0)

/-- Bytes of an output value. -/
def rtSize (r : Nat) : Nat := if rtFmt r = 0x40 then 4 else 2

/-- A route entry read as a load of the slot (15 R236): the entry, DEST and BAR with the tags of their granules. -/
def State.route (s : State) (k : Nat) : Except Stop (Nat × Cap × Cap) := do
  let pa := scratchPa (s.me.id / 128) (0x2FFC00 + 64 * k)
  let g : Seg := ⟨pa, 64, 1, false, 0, 0x2FFC00 + 64 * k⟩
  s.syncAccess [g] false
  let h := s.boardHits (s.me.id / 128) (0x2FFC00 + 64 * k) 64 false
  require h.isEmpty (.park (.ops h))
  let r := s.readNat [g]
  .ok (r, ⟨.ofNat 128 (rtDest r), s.mem.tag pa⟩, ⟨.ofNat 128 (rtBar r), s.mem.tag (pa + 16)⟩)

/-- The span of m rows of n bytes from DEST, as its first offset and its length. -/
def rowSpan (dest : Cap) (r m n : Nat) : Int × Nat :=
  if m = 0 ∨ n = 0 then (dest.off, 0)
  else
    let last : Int := (m - 1 : Nat) * rtPitch r
    let lo := if last < 0 then last else 0
    (dest.off + lo, ((if last < 0 then 0 else last) - lo).toNat + n)

/-- DEST of a KIND 1 entry checked over the span of the rows; the offset of a tag or rights failure is DEST's own. -/
def State.checkDest (s : State) (dest : Cap) (r m n : Nat) : Except Stop Unit := do
  s.checkTag dest { wr := true } dest.off
  let sp := rowSpan dest r m n
  s.checkRange dest { wr := true } sp.1 sp.2

/-- A tag or rights trap with DEST's OFFSET as TVAL (15 R236). -/
def atDest {α : Type} (dest : Cap) : Except Stop α → Except Stop α
  | .error (.trap k sub v) => .error (.trap k sub (if k = 3 ∧ (sub = subTag ∨ sub = subRights) then tval dest.off else v))
  | r => r

/-- BAR of an entry with BV = 1, checked as BARR's object (13 R193). TVAL is the first offset outside the bounds, and DEST's
OFFSET for a tag or rights failure (15 R236); for a misaligned object it is BAR's own offset (13 R182; log 66). -/
def State.routeBar (s : State) (r : Nat) (dest bar : Cap) : Except Stop Bar :=
  if rtBv r then atDest dest (do
    s.checkRange bar rmwRights bar.off 16
    .ok (some (← s.barObject bar rmwRights bar.off)))
  else .ok none

/-- The range scoreboard for rows written to scratchpad (10 R161). -/
def State.boardRows (s : State) (dest : Cap) (r m n : Nat) : Except Stop Unit :=
  if dest.kind = 1 then
    foldE (fun _ (i : Nat) => s.board dest ((dest.off : Int) + (i : Int) * rtPitch r).toNat n true) () (List.range m)
  else .ok ()

/-- TDRAIN (15 R236). -/
def execTdrain (a : BitVec 2) (k : BitVec 4) (s : State) : Out := finish s (do
  s.tileUnit
  s.accOk a.toNat
  s.room .T
  s.interlock (.drain a.toNat 0 Cap.null none 0)
  let (r, dest, bar) ← s.route k.toNat
  require (rtOk r && rtKind r != 0 && !(rtKind r == 3 && (rtBv r || rtFmt r != 0x40))) s.illegal
  let acc := s.acc s.me.id a.toNat
  let n := acc.n * rtSize r
  if rtKind r = 1 then do
    s.checkDest dest r acc.m n
    s.boardRows dest r acc.m n
  require (!(rtKind r == 3 && decide (32 < rtPort r + acc.m))) s.tileFault
  let b ← s.routeBar r dest bar
  .ok (s.issueOp .T (.drain a.toNat (.ofNat 512 r) dest b 0) []))

/-- Row values as a route entry's format writes them. -/
def outCodes (r : Nat) (vs : List Nat) : List Nat :=
  let f := if rtFmt r = 0x40 then Num.Fmt.fp32 else if rtFmt r = 0x30 then .bf16 else .fp16
  vs.map fun v => if rtFmt r = 0x40 then v else Num.encode f (rtRm r) false (Num.of32 v)

/-- A row's values as a route entry's format leaves them, as FP32. -/
def outVals (r : Nat) (vs : List Nat) : List Nat :=
  let f := if rtFmt r = 0x30 then Num.Fmt.bf16 else .fp16
  if rtFmt r = 0x40 then vs else (outCodes r vs).map fun c => Num.f32 0 (Num.decode f c)

/-- Rows written from row i on (15 R236): counted when performed; a page to wait for keeps the operation. It has begun once a
row is written (26 R313). After an unresolvable fault only the rows that wait in spill queues are written, uncounted (10 R154);
a barrier object whose frame is lost is such a fault (28 R334). -/
def State.drainRows (s : State) (sid : Nat) (o : Op) (dest : Cap) (bar : Bar) (r : Nat) (acc : Acc) : List Nat → State
  | [] => s.dropOp sid o.id
  | i :: is =>
    if s.skips sid o i then s.drainRows sid o dest bar r acc is else
    let n := acc.n * rtSize r
    let at_ (j : Nat) : Nat := ((dest.off : Int) + j * rtPitch r).toNat
    let upTo (t : State) (j : Nat) (b : Bool) : State := t.onOp sid o.id fun x => match x.task with
      | .drain k rt c d _ => { x with task := .drain k rt c d j, begun := x.begun || b }
      | _ => x
    let wait := upTo s i false
    if !s.accepts sid o i dest (at_ i) then wait else
    match s.withBar (if o.halted then none else bar) (s.segsOf sid o.iface dest (at_ i) n true) with
    | .ok g =>
      (upTo (((s.writeSegs g (bytesOf n (Num.packCodes (8 * rtSize r) (outCodes r (acc.row i))))).countInto bar
        (if o.halted then 0 else n)).undivert sid o.id i) (i + 1) true).drainRows sid o dest bar r acc is
    | .absent _ _ => wait.divertAll sid o true (((i :: is).filter fun j => !s.skips sid o j).map fun j => ⟨j, dest, at_ j, n⟩)
    | .bad k f => ((s.undivert sid o.id i).halt sid o k f).drainRows sid { o with halted := true } dest bar r acc is

/-- TDRAIN performed (15 R236). -/
def State.performDrain (s : State) (sid : Nat) (o : Op) (live : Bool) (a : Nat) (route : BitVec 512) (dest : Cap) (bar : Bar) (row : Nat) : State :=
  let r := route.toNat
  let acc := s.acc sid a
  let rows := if acc.n = 0 then [] else (List.range acc.m).drop row
  if rtKind r = 1 then
    s.drainRows sid o dest bar r acc rows
  else if rtKind r = 3 then
    (rows.foldl (fun t i => t.deposit sid live (.v (.ofNat 5 (rtPort r + i)) (ofLanes 32 (acc.row i)))) s).dropOp sid o.id
  else
    ({ s with pushes := s.pushes ++ rows.map fun i => (⟨sid / 16384, rtPort r, o.iface, outVals r (acc.row i)⟩ : Push) }).dropOp sid o.id

/-! ### Saving tiles -/

/-- The tiles TSAVE and TREST move, with the numbers of their TC registers, at the slot's level; log 20. -/
def Slot.saveTiles (sl : Slot) : List (Nat × Nat) :=
  if sl.lvl = 0 then (List.range sl.window.length).map fun i => (sl.window.getD i 0, i) else [(14, 14), (15, 15)]

/-- The size of the area (15 R237). -/
def saveSize (n a : Nat) : Nat := 256 + 16384 * n + 32768 * a

/-- The held accumulators in increasing number. -/
def sortedAccs (l : List Nat) : List Nat := (List.range 4).filter l.contains

/-- The checks of TSAVE and TREST. -/
def State.saveCheck (s : State) (c : Cap) (write : Bool) : Except Stop Unit := do
  let n := saveSize s.me.saveTiles.length s.me.held.length
  s.checkRange c (if write then { wr := true } else { rd := true }) c.off n
  require (c.off % 64 == 0) (capTrap subAlign c.off)
  require (!(s.me.lvl == 1 && !s.me.ht && s.pairTaken)) (.park .pair)
  s.board c c.off n write

/-- The TC registers that TSAVE saves, read in its issue cycle (07 R91): TC0 to TC13, of a handler TC14 and TC15. -/
def State.savedTcs (s : State) : List (BitVec 28) :=
  if s.me.lvl = 0 then (List.range 14).map s.rtc else [s.rtc 14, s.rtc 15]

/-- TSAVE (15 R237): it issues once the earlier tile instructions have left class T, those of every level (log 84). -/
def execTsave (c : BitVec 4) (s : State) : Out := finish s (do
  s.tileUnit
  s.saveCheck (s.rc c) true
  let ids := (s.me.ops.filter (·.cls == .T)).map (·.id)
  require ids.isEmpty (.park (.ops ids))
  s.takePair.issueTile (.tsave (s.rc c) s.me.saveTiles s.savedTcs (sortedAccs s.me.held)
    (pages (s.rc c).off (saveSize s.me.saveTiles.length s.me.held.length))))

/-- TREST (15 R237): bytes 0 and 1 of the area must name what is held; they are read once the interlock lets it issue, and
reached as a thread's access is (log 84). -/
def execTrest (c : BitVec 4) (s : State) : Out := finish s (do
  s.tileUnit
  let cap := s.rc c
  s.saveCheck cap false
  s.room .T
  s.interlock (.trest cap s.me.saveTiles (sortedAccs s.me.held))
  let segs ← s.translate cap cap.off 2 false cap.off
  s.syncCommand
  let v := s.readNat segs
  let mask := (sortedAccs s.me.held).foldl (fun m a => m + 2 ^ a) 0
  require (v % 256 == s.me.saveTiles.length && v / 256 % 16 == mask) s.tileFault
  s.takePair.issueTile (.trest cap s.me.saveTiles (sortedAccs s.me.held)))

/-- A number with a field put at a bit. -/
def putAt (w : Nat) (p v : Nat) : Nat := v % 2 ^ w * 2 ^ p

/-- The bytes of a TSAVE area (15 R237). -/
def State.saveBytes (s : State) (sid : Nat) (ts : List (Nat × Nat)) (tcs : List (BitVec 28)) (as : List Nat) : List Byte :=
  let head := ts.length + putAt 8 8 (as.foldl (fun m a => m + 2 ^ a) 0) +
    (as.map fun a => putAt 8 (8 * (8 + 2 * a)) (s.acc sid a).m + putAt 8 (8 * (9 + 2 * a)) (s.acc sid a).n).sum +
    ((List.range 14).map fun i => putAt 64 (8 * (64 + 8 * i)) (tcs.getD i 0).toNat).sum
  bytesOf 256 head ++
    (ts.flatMap fun t => (List.range 128).flatMap fun r => bytesOf 128 (vget (s.tile sid t.1) r 0).toNat) ++
    as.flatMap fun a => (List.range 128).flatMap fun r => bytesOf 256 (vget (s.acc sid a).rows r 0).toNat

/-- The elements of the stream of an area: its parts on the 64 KiB pages that it touches (log 19). -/
def areaElems (c : Cap) (parts : List (Nat × Nat)) : List Elem := parts.map fun p => ⟨p.1, c, p.1, p.2⟩

/-- TSAVE performed, part by part. A part that meets an unresolvable fault stops it: the parts before it stay written, and those
after it are not written but where they wait in a spill queue (10 R154; log 84). -/
def State.performTsave (s : State) (sid : Nat) (o : Op) (c : Cap) (ts : List (Nat × Nat)) (tcs : List (BitVec 28)) (as : List Nat)
    (left : List (Nat × Nat)) : State :=
  let bs := s.saveBytes sid ts tcs as
  s.putStream sid o (fun e => (bs.drop (e.off - c.off)).take e.len)
    (fun es => .tsave c ts tcs as (es.map fun e => (e.off, e.len))) (areaElems c left)

/-- Bytes of an area as a number; what the register holds where the bytes are not there. -/
def areaAt (bs : List Byte) (off n old : Nat) : Nat := if off + n ≤ bs.length then natOfBytes ((bs.drop off).take n) else old

/-- The tiles, accumulators, extents and TC registers of the slot that the leading bytes of an area hold (15 R237). The bytes of
an extent are taken as they are, also beyond 128 or 64 (log 84). -/
def State.restoreArea (s : State) (sid : Nat) (live : Bool) (ts : List (Nat × Nat)) (as : List Nat) (bs : List Byte) : State :=
  let k := ts.length
  let t := (List.range k).foldl (fun t i =>
    let p := (ts.getD i (0, 0)).1
    t.setTile sid p (Vector.ofFn fun r => .ofNat 1024 (areaAt bs (256 + 16384 * i + 128 * r.val) 128 (vget (s.tile sid p) r.val 0).toNat))) s
  let u := (List.range as.length).foldl (fun t j =>
    let a := as.getD j 0
    let old := s.acc sid a
    t.setAcc sid a ⟨Vector.ofFn fun r => .ofNat 2048 (areaAt bs (256 + 16384 * k + 32768 * j + 256 * r.val) 256 (vget old.rows r.val 0).toNat),
      areaAt bs (8 + 2 * a) 1 old.m, areaAt bs (9 + 2 * a) 1 old.n⟩) t
  let tcs := match ts with | (14, _) :: _ => [(0, 14), (1, 15)] | _ => (List.range 14).map fun i => (i, i)
  (tcs.filter fun p => decide (64 + 8 * p.1 + 8 ≤ bs.length)).foldl
    (fun t p => t.deposit sid live (.tc p.2 (.ofNat 28 (areaAt bs (64 + 8 * p.1) 8 0)))) u

/-- TREST performed (15 R237), once every part of the area is there. A part that meets an unresolvable fault stops it, and what
lies whole in the parts before it is restored (10 R154; log 84). -/
def State.performTrest (s : State) (sid : Nat) (o : Op) (live : Bool) (c : Cap) (ts : List (Nat × Nat)) (as : List Nat) : State :=
  let els := areaElems c (pages c.off (saveSize ts.length as.length))
  if !s.acceptsAll sid o els then s else
  match s.receiveBytes sid o els with
  | .absent _ _ => s.divertAll sid o false els
  | .bad _ _ => s
  | .ok (bs, none) => (s.restoreArea sid live ts as bs).dropOp sid o.id
  | .ok (bs, some (k, f)) => ((s.restoreArea sid live ts as bs).stopOp sid o.id).stopMessage sid o 1 k f 0 0

/-- A macro-operation's step at the level it was issued at (08 R129, 26 R308); the watchdog's trap waits for those that
have begun (26 R313). -/
def execMacroStep (slot op : Nat) (s : State) : Out :=
  match s.findOp slot op with
  | none => .next s
  | some (o, live) =>
    if !s.mayGo slot o live || (live && (o.lvl != (s.slot slot).lvl || (s.slot slot).trapPend.any (!·.wd))) then .next s else
    match o.task with
    | .copyn _ _ _ _ _ => .next (s.copynStep slot o)
    | .tldn _ _ _ _ => .next (s.tldnStep slot o live)
    | .tgemm _ _ _ _ _ _ _ => .next (s.tgemmStep slot o live)
    | _ => .next s

end Sys2Proof.Machine
end

