-- ==== Sys2Proof/Machine/Braid.lean ====
section
/-! DEFINITION. The braid fabric (17 R238-R252): images, load checks, runs and the four braid instructions. -/

namespace Sys2Proof.Machine

/-! ### Images -/

/-- Fields of an image header (17 R239). -/
def bhNodes (h : Nat) : Nat := bits h 31 0
def bhNin (h : Nat) : Nat := bits h 63 32
def bhNout (h : Nat) : Nat := bits h 95 64
def bhWi (h : Nat) : Nat := bits h 103 96
def bhOfmt (h : Nat) : Nat := bits h 111 104

/-- The header's form (17 R242). -/
def bhOk (h : Nat) : Bool :=
  decide (1 ≤ bhNodes h) && decide (bhNodes h ≤ 4194304) && decide (1 ≤ bhNin h) && decide (bhNin h ≤ 4096) &&
  decide (1 ≤ bhNout h) && decide (bhNout h ≤ 4096) && (bhWi h == 8 || bhWi h == 12 || bhWi h == 16) &&
  (bhOfmt h == 0x40 || bhOfmt h == 0x30 || bhOfmt h == 0x31) && bits h 511 112 == 0

/-- Where the input list and the row-scale table begin, and the image's length (17 R239). -/
def bhP (h : Nat) : Nat := 64 + 8 * bhNodes h
def bhQ (h : Nat) : Nat := (bhP h + 2 * bhNin h + 7) / 8 * 8
def bhLen (h : Nat) : Nat := bhQ h + 2 * bhNout h

/-- Fields of a node record (17 R240). -/
def ndOp (n : Nat) : Nat := bits n 63 60
def ndS (n : Nat) : Nat := bits n 59 55
def ndW (n : Nat) : Nat := bits n 54 49
def ndA (n : Nat) : Nat := bits n 43 22
def ndB (n : Nat) : Nat := bits n 21 0

/-- A node with two inputs. -/
def ndBinary (n : Nat) : Bool := ndOp n == 1 || ndOp n == 2 || ndOp n == 3 || ndOp n == 7 || ndOp n == 8

/-- What the checks have found of the nodes so far: declared widths and depths, and the rows named. -/
structure NodeChk where
  seen : Array (Nat × Nat)
  rows : List Nat

/-- Width and depth of an earlier node. -/
def NodeChk.at (c : NodeChk) (i : Nat) : Nat × Nat := c.seen.getD i (0, 0)

/-- The form check of node i (17 R242, code 4). -/
def nodeForm (h : Nat) (c : NodeChk) (i n : Nat) : Bool :=
  decide (ndOp n ≤ 8) && decide (1 ≤ ndW n) && decide (ndW n ≤ 48) && bits n 48 44 == 0 &&
  (if ndOp n = 0 then ndB n == 0 && ndS n == 0 && decide (ndA n < bhNin h)
   else decide (ndA n < i) &&
    (if ndBinary n then decide (ndB n < i)
     else if ndOp n = 6 then ndS n == 0 && decide (ndB n < bhNout h) && !c.rows.contains (ndB n)
     else ndB n == 0 && ndS n == 0))

/-- The width a node must declare (17 R241). -/
def nodeNeed (h : Nat) (c : NodeChk) (n : Nat) : Nat :=
  let wa := (c.at (ndA n)).1
  let wb := (c.at (ndB n)).1
  if ndOp n = 0 then bhWi h
  else if ndOp n = 7 ∨ ndOp n = 8 then 0
  else if ndBinary n then max wa (wb + ndS n) + 1
  else if ndOp n = 4 then wa + 1
  else wa

/-- The checks of one node (17 R242); a failure is its code. -/
def nodeCheck (h : Nat) (c : NodeChk) (i n : Nat) : Except Nat NodeChk :=
  if !nodeForm h c i n then .error 4
  else if ndW n < nodeNeed h c n then .error 1
  else if ndBinary n && (c.at (ndA n)).2 != (c.at (ndB n)).2 then .error 2
  else
    let d := if ndOp n = 0 then 0 else (c.at (ndA n)).2 + 1
    .ok ⟨c.seen.push (ndW n, d), if ndOp n = 6 then ndB n :: c.rows else c.rows⟩

/-- The checks of the nodes in index order; a failure is its code and the node. -/
def nodesCheck (h : Nat) (nodes : List Nat) : Except (Nat × Nat) NodeChk :=
  foldE (fun (c : NodeChk) n => match nodeCheck h c c.seen.size n with
    | .ok c' => .ok c'
    | .error k => .error (k, c.seen.size)) ⟨#[], []⟩ nodes

/-- The check of the lists (17 R242, code 4 with node 0). -/
def listsOk (h : Nat) (c : NodeChk) (list scales : List Nat) : Bool :=
  (List.range (bhNout h)).all c.rows.contains && list.all (fun e => decide (e < 4096)) && scales.all fun e => bits e 15 12 == 0

/-- A trap of cause braid load (17 R242, R249). -/
def braidTrap (code low : Nat) : Stop := .trap 7 0 (.ofNat 64 (code * 2 ^ 60 + low))

/-! ### Braids of a die -/

/-- The run has ended (17 R243): every vector performed or dropped, or it has stopped accepting and nothing is in flight. -/
def BRun.over (r : BRun) : Bool := r.flight.isEmpty && (!r.open_ || decide (r.total ≤ r.taken))

/-- The braid is armed. -/
def Braid.armed (b : Braid) : Bool := match b.run with | some r => !r.over | none => false

/-- The braid named by a handle on a die. -/
def State.braid? (s : State) (die handle : Nat) : Option Braid := s.braids.find? fun b => b.die == die && b.handle == handle && b.freeing.isNone

/-- A braid changed. -/
def State.onBraid (s : State) (die handle : Nat) (f : Braid → Braid) : State :=
  { s with braids := s.braids.map fun b => if b.die == die && b.handle == handle then f b else b }

/-- The die of the current slot. -/
def State.myDie (s : State) : Nat := s.me.id / 16384

/-- A hold keeps a die's A-pipes and fabric from taking jobs (02 R25). -/
def State.engHeld (s : State) (die : Nat) : Bool := decide (s.time < vget s.module.engHold die 0)

/-- The die's fabric takes a job: the slot stalls during a hold (02 R25). -/
def State.fabricFree (s : State) : Except Stop Unit := require (!s.engHeld s.myDie) (.park (.engine s.myDie))

/-- A braid of the slot's interface and die, or a handle fault (17 R238, R249). -/
def State.braidOf (s : State) (x : XWord) : Except Stop Braid :=
  let h := bits x.toNat 5 0
  match s.braid? s.myDie h with
  | some b => if b.iface = s.me.iface then .ok b else .error (braidTrap 5 h)
  | none => .error (braidTrap 5 h)

/-- The lowest run of k consecutive free braid slots (17 R242). -/
def State.freeBraidSlots (s : State) (die k : Nat) : Option Nat :=
  let used := (s.braids.filter (·.die == die)).flatMap fun b => (List.range b.nslot).map (b.handle + ·)
  (List.range (49 - k)).find? fun i => (List.range k).all fun j => !used.contains (i + j)

/-- The pieces of a range translated one by one; TVAL is the piece's own offset. -/
def State.translateEach (s : State) (c : Cap) (write : Bool) : List (Nat × Nat) → Except Stop (List Seg)
  | [] => .ok []
  | (f, n) :: ps => do
    let g ← s.threadSegs c write f [(f, n)]
    let gs ← s.translateEach c write ps
    .ok (g ++ gs)

/-- Entries of w bits of a number, from a byte offset. -/
def entries (v off w n : Nat) : List Nat := (List.range n).map fun i => v / 2 ^ (8 * off + w * i) % 2 ^ w

/-- BGLOAD (17 R249). -/
def bgload (d : BitVec 6) (c : BitVec 4) (s : State) : Res := do
  s.computeOnly
  s.room .C
  let cap := s.rc c
  let e : Int := cap.off
  s.checkTag cap { rd := true } e
  require (e % 64 == 0) (capTrap subAlign e)
  s.checkRange cap { rd := true } e 64
  let hs ← s.translateEach cap false (accessPieces cap cap.off 64)
  s.syncCommand
  let h := s.readNat hs
  require (bhOk h) (braidTrap 4 0)
  s.checkRange cap { rd := true } e (bhLen h)
  let segs ← s.translateEach cap false (accessPieces cap cap.off (bhLen h))
  s.board cap cap.off (bhLen h) false
  let img := s.readNat segs
  let nodes := entries img 64 64 (bhNodes h)
  let list := entries img (bhP h) 16 (bhNin h)
  let scales := entries img (bhQ h) 16 (bhNout h)
  match nodesCheck h nodes with
  | .error (k, i) => .error (braidTrap k i)
  | .ok chk =>
    require (listsOk h chk list scales) (braidTrap 4 0)
    require (chk.seen.all fun p => decide (p.2 ≤ 1024)) (braidTrap 3 0)
    let k := (bhNodes h + 131071) / 131072
    match s.freeBraidSlots s.myDie k with
    | none => .error (braidTrap 3 0)
    | some i =>
      s.fabricFree
      let b : Braid :=
        { die := s.myDie, handle := i, nslot := k, iface := s.me.iface, ofmt := bhOfmt h, wi := bhWi h, nout := bhNout h,
          nin := bhNin h, nodes := nodes.map (.ofNat 64), list := list, scales := scales, run := none, cut := 0,
          lost := false, ev := false, edge := false, nan := false, done := 0, freeing := none }
      let sp := spRange cap cap.off (bhLen h) false
      s.boardRoom sp.length
      let t := s.issueOp .C (.bgload d (.ofNat 64 (i + k * 2 ^ 8))) sp
      .ok { t with braids := t.braids ++ [b], gone := t.gone.filter fun g => !(g.1 == s.myDie && g.2.1 == i) }

/-- BGLOAD (17 R249). -/
def execBgload (d : BitVec 6) (c : BitVec 4) (s : State) : Out := finish s (bgload d c s)

/-- Bytes of a source element (17 R250). -/
def sfmtSize (f : Nat) : Nat := if f = 0x40 then 4 else if f = 0x30 ∨ f = 0x31 then 2 else 0

/-- The edge that does not agree, if one does not (17 R246): 0 the memory source, 1 the output; 0 where neither agrees
(log 90). -/
def State.edgeBad (s : State) (b : Braid) (mem : Bool) (sfmt ls r : Nat) : Option Bool :=
  if mem && (sfmtSize sfmt == 0 || ls == 0 || b.list.any fun e => decide (ls ≤ e)) then some false
  else if rtKind r = 0 ∨ (rtKind r = 1 ∧ rtFmt r ≠ b.ofmt) ∨ (rtKind r = 3 ∧ (b.ofmt ≠ 0x40 ∨ 32 < rtPort r + (b.nout + 63) / 64)) then some true
  else if rtKind r = 2 then
    match s.braid? b.die (rtPort r) with
    | some t => if t.iface = b.iface ∧ t.list.all (fun e => decide (e < b.nout)) then none else some true
    | none => some true
  else none

/-- BGRUN (17 R250). The route entry comes first: an illegal one ranks above the handle's faults (07 R107, log 21). -/
def bgrun (a x : BitVec 6) (c k : BitVec 4) (s : State) : Res := do
  s.computeOnly
  s.room .C
  let p := (s.rx a).toNat
  let q := (s.rx x).toNat
  let (r, dest, bar) ← s.route k.toNat
  require (rtOk r) s.illegal
  let b ← s.braidOf (s.rx a)
  require (!b.armed) (braidTrap 6 b.handle)
  let n := bits q 31 0
  let sfmt := bits q 47 40
  let ls := bits q 63 48
  let cap := s.rc c
  let mem := c != 0
  if mem then s.checkCap cap { rd := true } cap.off (n * ls * sfmtSize sfmt)
  if rtKind r = 1 then s.checkDest dest r n (b.nout * rtSize r)
  let obj ← if rtKind r = 1 then s.routeBar r dest bar else .ok none
  let bad := if n = 0 then none else s.edgeBad b mem sfmt ls r
  let idle := decide (n = 0) || bad.isSome
  let out := rowSpan dest r n (b.nout * rtSize r)
  let sp := if idle then [] else (if mem then spRange cap cap.off (n * ls * sfmtSize sfmt) false else []) ++
    (if rtKind r = 1 then spRange dest out.1.toNat out.2 true else [])
  s.boardRoom sp.length
  s.fabricFree
  let t := s.issueOp .C (.bgrun b.handle (!idle && rtKind r == 3)) sp
  let run : BRun :=
    { slot := s.me.id, op := s.nextOp, seq := bits p 55 32, ply := bits q 36 32, total := n, taken := 0, flight := [],
      src := if mem then some (cap, sfmt, ls) else none, route := .ofNat 512 r, dest := dest, bar := obj, open_ := true }
  .ok (t.onBraid b.die b.handle fun b => { b with
    cut := 0, lost := false, nan := false, done := 0, ev := bad.isSome, edge := bad == some true
    run := if idle then none else some run })

/-- BGRUN (17 R250). -/
def execBgrun (a x : BitVec 6) (c k : BitVec 4) (s : State) : Out := finish s (bgrun a x c k s)

/-- A run that accepts no more (17 R251). -/
def Braid.close (b : Braid) : Braid := { b with run := b.run.map fun r => { r with open_ := false } }

/-- BGFREE (17 R251). -/
def execBgfree (a : BitVec 6) (s : State) : Out := finish s (do
  s.computeOnly
  s.room .C
  let b ← s.braidOf (s.rx a)
  let t := s.issueOp .C (.bgfree b.handle) []
  .ok (t.onBraid b.die b.handle fun b => { b.close with freeing := some (s.me.id, s.nextOp) }))

/-- BGSTAT on the handle takes the handle fault: a braid of another interface (17 R252), or a handle that a BGFREE of this
one has freed or is freeing (R251; log 61). -/
def State.statFault (s : State) (h : Nat) : Bool :=
  match s.braids.find? fun b => b.die == s.myDie && b.handle == h with
  | some b => b.iface != s.me.iface || b.freeing.isSome
  | none => s.gone.contains (s.myDie, h, s.me.iface)

/-- BGSTAT (17 R252). -/
def execBgstat (d a : BitVec 6) (s : State) : Out := finish s (do
  s.computeOnly
  s.room .C
  let h := bits (s.rx a).toNat 5 0
  require (!s.statFault h) (braidTrap 5 h)
  .ok (s.issueOp .C (.bgstat h d) []))

/-- The status of a braid (17 R252). -/
def Braid.status (b : Braid) : Nat :=
  b.done % 2 ^ 32 + b.nslot % 64 * 2 ^ 32 + 2 ^ 38 + bitNat b.armed * 2 ^ 39 + bitNat b.nan * 2 ^ 40 + bitNat b.edge * 2 ^ 41 +
    bitNat b.ev * 2 ^ 42 + bitNat b.lost * 2 ^ 43 + min b.cut 0xFFFF * 2 ^ 48

/-- BGSTAT's value for a slot. -/
def State.bgstatVal (s : State) (die iface h : Nat) : Nat :=
  match s.braids.find? fun b => b.die == die && b.handle == h with
  | some b => if b.iface = iface then b.status else 0
  | none => 0

/-! ### Runs -/

/-- The greatest magnitude among values. -/
def maxMag (l : List Num.FV) : Num.FV := Num.amax l

/-- A vector quantised (17 R244): none for the NaN vector. -/
def quantise (wi : Nat) (xs : List Num.FV) : Option (Int × List Int) :=
  if xs.any (fun v => v.isNan || v.isInf) then none
  else match maxMag xs with
    | .fin _ m e =>
      if m = 0 then some (0, xs.map fun _ => 0)
      else
        let ex : Int := Nat.log2 m + e - (wi - 2 : Nat)
        some (ex, xs.map fun v => match v with
          | .fin neg k g =>
            let r : Int := Num.roundInt 0 neg k (g - ex)
            let q := if neg then -r else r
            max (-(2 ^ (wi - 1) : Nat) : Int) (min ((2 ^ (wi - 1) - 1 : Nat) : Int) q)
          | _ => 0)
    | _ => none

/-- A value clamped to w bits (17 R241). -/
def clampW (w : Nat) (v : Int) : Int := max (-(2 ^ (w - 1) : Nat) : Int) (min ((2 ^ (w - 1) - 1 : Nat) : Int) v)

/-- The value of a node from the earlier ones (17 R241). -/
def nodeVal (q : List Int) (vs : Array Int) (n : Nat) : Int :=
  let a := vs.getD (ndA n) 0
  let b := vs.getD (ndB n) 0 * 2 ^ ndS n
  if ndOp n = 0 then q.getD (ndA n) 0
  else if ndOp n = 1 then a + b
  else if ndOp n = 2 then a - b
  else if ndOp n = 3 then b - a
  else if ndOp n = 4 then -a
  else if ndOp n = 7 then clampW (ndW n) (a + b)
  else if ndOp n = 8 then clampW (ndW n) (a - b)
  else a

/-- The values of all nodes. -/
def nodeVals (nodes : List Nat) (q : List Int) : Array Int := nodes.foldl (fun vs n => vs.push (nodeVal q vs n)) #[]

/-- The format of a braid's outputs. -/
def ofmtOf (f : Nat) : Num.Fmt := if f = 0x40 then .fp32 else if f = 0x30 then .bf16 else .fp16

/-- An output value (17 R245). -/
def outVal (f : Num.Fmt) (v e : Int) (scale : Nat) : Nat :=
  if bits scale 11 4 = 255 then Num.nanCode f Num.cnan
  else if bits scale 11 4 = 0 ∨ v = 0 then 0
  else
    let sc := Num.scaleOf (bits scale 11 0)
    Num.encode f 0 false (.fin (decide (v < 0)) (v.natAbs * sc.1) (e + sc.2))

/-- The outputs of a vector, in row order (17 R245). -/
def Braid.outputs (b : Braid) (x : Option (Int × List Int)) : List Nat :=
  let f := ofmtOf b.ofmt
  match x with
  | none => List.replicate b.nout (Num.nanCode f Num.cnan)
  | some (e, q) =>
    let nodes := b.nodes.map BitVec.toNat
    let vs := nodeVals nodes q
    (List.range b.nout).map fun r =>
      match (nodes.zip (List.range nodes.length)).find? fun p => ndOp p.1 == 6 && ndB p.1 == r with
      | some p => outVal f (vs.getD p.2 0) e (b.scales.getD r 0)
      | none => 0

/-- A vector accepted by the run (17 R243, R244). -/
def Braid.accept (b : Braid) (vec : List Nat) : Braid :=
  match b.run with
  | none => b
  | some r =>
    let q := quantise b.wi (b.list.map fun e => Num.of32 (vec.getD e 0))
    { b with nan := b.nan || q.isNone, run := some { r with taken := r.taken + 1, flight := r.flight ++ [(r.taken, q)] } }

/-- The operation of a run, for its messages. -/
def State.runOp (s : State) (r : BRun) : Option (Op × Bool) := s.findOp r.slot r.op

/-- The run's BGRUN may access memory: the earlier accesses of its slot that it must follow have been performed (12 R178,
17 R247). -/
def State.runMay (s : State) (r : BRun) : Bool := match s.runOp r with | some (o, live) => s.mayGo r.slot o live | none => true

/-- The port takes an element of the run (10 R152): its source read (0) or its output write (1). -/
def State.runAccepts (s : State) (r : BRun) (key : Nat) (c : Cap) (f : Nat) : Bool :=
  match s.runOp r with | some (o, _) => s.accepts r.slot o key c f | none => true

/-- An element of the run waits in a spill queue for its page (10 R152). -/
def State.runDivert (s : State) (r : BRun) (key iface oid off : Nat) : State :=
  match s.runOp r with | some (o, _) => s.divert r.slot o key oid off | none => s.requestPage (s.tableOf iface oid) oid off

/-- A run stopped by an unresolvable fault (10 R154): it accepts no more; a message names the fault. -/
def State.stopRun (s : State) (b : Braid) (r : BRun) (cause off : Nat) : State :=
  let t := s.onBraid b.die b.handle Braid.close
  match s.runOp r with
  | some (o, _) => t.stopMessage r.slot o 4 cause off 0 0
  | none => t

/-- A push taken from the queue. -/
def State.dropPush (s : State) (p : Push) : State := { s with pushes := s.pushes.erase p }

/-- A push that arrives at its braid (17 R246). A vector of another length stops the accepting; the vectors accepted before
it complete, and ARMED reads 1 until then (log 89). -/
def State.pushArrives (s : State) (p : Push) : State :=
  let t := s.dropPush p
  match s.braid? p.die p.handle with
  | none => t
  | some b =>
    if b.iface ≠ p.iface then t else
    match b.run with
    | some r =>
      if b.armed && r.src.isNone && r.open_ && decide (r.taken < r.total) then
        if b.list.any (fun e => decide (p.vec.length ≤ e)) then t.onBraid p.die p.handle fun b => { b.close with ev := true, edge := false }
        else t.onBraid p.die p.handle (·.accept p.vec)
      else t.onBraid p.die p.handle fun b => { b with lost := true }
    | none => t.onBraid p.die p.handle fun b => { b with lost := true }

/-- A vector of a memory source read (17 R250): FP32 bits. -/
def sourceVec (sfmt ls v : Nat) : List Nat :=
  let f := ofmtOf sfmt
  (entries v 0 f.width ls).map fun c => if sfmt = 0x40 then c else Num.f32 0 (Num.decode f c)

/-- The next vector of a run's memory source (17 R246, R250): plain elements, whatever the pages' D bits (log 58). One of a
run that accepts no more leaves its spill queue. -/
def State.braidSource (s : State) (b : Braid) (r : BRun) : State :=
  match r.src with
  | none => s
  | some (cap, sfmt, ls) =>
    let n := ls * sfmtSize sfmt
    let f := cap.off + r.taken * n
    if !r.open_ || decide (r.total ≤ r.taken) then s.undivert r.slot r.op 0
    else if !s.runMay r || !s.runAccepts r 0 cap f then s else
    match s.segsOf r.slot b.iface cap f n false with
    | .ok g => (s.undivert r.slot r.op 0).onBraid b.die b.handle (·.accept (sourceVec sfmt ls (s.readNat g)))
    | .absent oid off => s.runDivert r 0 b.iface oid off
    | .bad k off => (s.undivert r.slot r.op 0).stopRun b r k off

/-- BRAID_INPUT_VECTOR (17 R246): the oldest push for the braid arrives, or the next vector of its memory source. None is
accepted during a hold (02 R25). -/
def execBraidInputVector (die handle : Nat) (s : State) : Out :=
  if s.engHeld die then .next s else
  match s.pushes.find? (fun p => p.die == die && p.handle == handle) with
  | some p => .next (s.pushArrives p)
  | none => match s.braids.find? (fun b => b.die == die && b.handle == handle) with
    | none => .next s
    | some b => match b.run with
      | none => .next s
      | some r => .next (s.braidSource b r)

/-- A vector performed (17 R252). -/
def Braid.performed (b : Braid) : Braid :=
  { b with done := (b.done + 1) % 2 ^ 32, run := b.run.map fun r => { r with flight := r.flight.drop 1 } }

/-- Rows as vector registers of the run's slot (17 R245), over the results that are due (03 R58). -/
def State.rowsToRegs (s : State) (r : BRun) (port : Nat) (vals : List Nat) : State :=
  let live := ((s.slot r.slot).op? r.op).isSome
  (List.range ((vals.length + 63) / 64)).foldl (fun t i =>
    t.deposit r.slot live (.v (.ofNat 5 (port + i)) (ofLanes 32 ((vals.drop (64 * i)).take 64)))) (s.settleDue r.slot)

/-- The oldest accepted vector's outputs are written (17 R245). A barrier object whose frame is lost stops the run (28 R334). -/
def State.braidOutput (s : State) (b : Braid) (r : BRun) : State :=
  match r.flight with
  | [] => s
  | (t, q) :: _ =>
    let vals := b.outputs q
    let rt := r.route.toNat
    let fin (u : State) : State := (u.onOp r.slot r.op fun o => { o with begun := true }).onBraid b.die b.handle Braid.performed
    if rtKind rt = 1 then
      let n := b.nout * rtSize rt
      let f := ((r.dest.off : Int) + t * rtPitch rt).toNat
      if !s.runMay r || !s.runAccepts r 1 r.dest f then s else
      match s.withBar r.bar (s.segsOf r.slot b.iface r.dest f n true) with
      | .ok g => fin (((s.writeSegs g (bytesOf n (Num.packCodes (8 * rtSize rt) vals))).countInto r.bar n).undivert r.slot r.op 1)
      | .absent oid off => s.runDivert r 1 b.iface oid off
      | .bad k off => ((s.undivert r.slot r.op 1).stopRun b r k off).onBraid b.die b.handle fun b =>
          { b with run := b.run.map fun r => { r with flight := [] } }
    else if rtKind rt = 3 then fin (s.rowsToRegs r (rtPort rt) vals)
    else
      let f := ofmtOf b.ofmt
      let vec := vals.map fun c => if b.ofmt = 0x40 then c else Num.f32 0 (Num.decode f c)
      fin { s with pushes := s.pushes ++ [(⟨b.die, rtPort rt, b.iface, vec⟩ : Push)] }

/-- BRAID_VECTOR_OUTPUT (17 R245): the oldest accepted vector's outputs are written. -/
def execBraidVectorOutput (die handle : Nat) (s : State) : Out :=
  match s.braids.find? (fun b => b.die == die && b.handle == handle) with
  | none => .next s
  | some b => match b.run with
    | none => .next s
    | some r => .next (s.braidOutput b r)

/-- An element of a run that waits in a spill queue is performed (10 R152): its source read (0) or its output write (1). -/
def State.braidElement (s : State) (slot op key : Nat) : State :=
  match s.braids.find? fun b => b.run.any fun r => r.slot == slot && r.op == op with
  | none => s
  | some b => match b.run with
    | none => s
    | some r => if key = 1 then s.braidOutput b r else if s.engHeld b.die then s else s.braidSource b r

/-- PLYCUT at the fabrics (17 R248): runs of the sequence at or above the ply end; each dropped vector is counted. -/
def Braid.cutBy (b : Braid) (iface seq k : Nat) : Braid :=
  match b.run with
  | none => b
  | some r =>
    if b.armed && b.iface == iface && r.seq == seq && decide (k ≤ r.ply) then
      let dropped := if r.open_ then r.flight.length + (r.total - r.taken) else r.flight.length
      { b with cut := min (b.cut + dropped) 0xFFFF, run := none }
    else b

end Sys2Proof.Machine
end

