-- ==== Sys2Proof/Machine/Kv.lean ====
section
/-! DEFINITION. The KV arena: descriptors, the KV map, frame counts, the frame pool, cuts and reclamation (19 R253-R260,
R271, 22 R292-R295). -/

namespace Sys2Proof.Machine

/-! ### Arena and layers -/

/-- The arena object as the device's own capability (19 R253). -/
def arenaCap (oid : Nat) : Cap := ⟨.ofNat 128 (oid * 2 ^ 96 + 4 * 2 ^ 12), true⟩

/-- The fields of an arena descriptor (19 R254). -/
def arenaFields (oid v : Nat) : Arena :=
  ⟨oid, bits v 180 176, bits v 175 128, bits v 111 64, bits v 52 48, bits v 47 0⟩

/-- An arena descriptor within its limits (19 R254). -/
def arenaOk (v : Nat) : Bool :=
  bits v 511 181 == 0 && decide (12 ≤ bits v 180 176) && decide (bits v 180 176 ≤ 21) && bits v 111 64 % 16 == 0 &&
  decide (10 ≤ bits v 52 48) && decide (bits v 52 48 ≤ 28) && bits v 47 0 % 64 == 0

/-- The arena's object, if the interface's configuration names one. -/
def State.arenaOid (s : State) (i : Nat) : Option Nat := match s.cfg i with | some c => c.arena | none => none

/-- The arena resolved at issue: its object and the descriptor's bits (19 R253). -/
def State.arenaBits (s : State) : Except Stop (Nat × Nat) := do
  match s.arenaOid s.me.iface with
  | none => .error (.trap 4 0 0)
  | some oid =>
    let g ← s.translate (arenaCap oid) 0 64 false 0
    s.syncCommand
    .ok (oid, s.readNat g)

/-- The arena resolved and its descriptor within its limits (19 R253, R254). -/
def State.arena (s : State) : Except Stop Arena := do
  let v ← s.arenaBits
  require (arenaOk v.2) s.illegal
  .ok (arenaFields v.1 v.2)

/-- Fields of a layer descriptor (19 R255). -/
def lyS (y : Nat) : Nat := bits y 125 116
def lyW (y : Nat) : Nat := bits y 115 96
def lyQs (y : Nat) : Nat := bits y 95 64
def lyG (y : Nat) : Nat := bits y 57 50
def lyH (y : Nat) : Nat := bits y 49 42
def lyDh (y : Nat) : Nat := bits y 41 32
def lyKind (y : Nat) : Nat := bits y 29 28
def lySfmt (y : Nat) : Nat := bits y 27 20
def lyVty (y : Nat) : Nat := bits y 19 18
def lyVfmt (y : Nat) : Nat := bits y 17 10
def lyKty (y : Nat) : Nat := bits y 9 8
def lyKfmt (y : Nat) : Nat := bits y 7 0

/-- A format of keys or values (19 R255). -/
def kvFmtOk (f : Nat) : Bool := (Num.fmtOf f 0).isSome

/-- A layer descriptor within its limits (19 R255); reserved fields are not looked at (00 R8). -/
def layerOk (y : Nat) : Bool :=
  decide (1 ≤ lyG y) && decide (lyG y ≤ 128) && decide (1 ≤ lyH y) && decide (lyH y ≤ 128) && lyH y % lyG y == 0 &&
  decide (1 ≤ lyDh y) && decide (lyDh y ≤ 512) && (lySfmt y == 0x30 || lySfmt y == 0x40) && kvFmtOk (lyVfmt y) && kvFmtOk (lyKfmt y) &&
  (if lyKind y = 0 then lyW y == 0 && lyS y == 0
   else lyKind y == 1 && lyW y % 64 == 0 && decide (64 ≤ lyW y) && decide (lyW y ≤ 2 ^ 19))

/-- The layout of a frame (19 R256): key and value format and type, blocks of a row, and the stride of a head. -/
structure Frame where
  kf  : Nat
  kt  : Nat
  vf  : Nat
  vt  : Nat
  rbk : Nat
  rbv : Nat
  rbs : Nat
  deriving DecidableEq, Repr

/-- Blocks that hold n elements of a format. -/
def blocksFor (fmt n : Nat) : Nat :=
  let p := Num.perBlock ((Num.widthClass fmt).getD 0)
  (n + p - 1) / p

/-- The formats of keys and values that a layer may name (19 R255). -/
def kvFormats : List Nat := [0x10, 0x20, 0x21, 0x22, 0x30, 0x31, 0x40]

/-- The format of a row of a frame (19 R256), from the layer's own and the block's precision code. The codes 3-15 are
reserved and give no format: a free one, log 31. -/
def rowFormat (prec own : Nat) (value : Bool) : Nat :=
  if prec = 0 then own else if prec = 1 then 0x20 else if prec = 2 then 0x10
  else kvFormats.getD (Config.reservedFormat prec value).val own

/-- The layout of a frame for a precision code (19 R256). -/
def frameOf (y prec : Nat) : Frame :=
  let kf := rowFormat prec (lyKfmt y) false
  let vf := rowFormat prec (lyVfmt y) true
  ⟨kf, lyKty y, vf, lyVty y, blocksFor kf (lyDh y), blocksFor vf (lyDh y), blocksFor (lySfmt y) (lyDh y)⟩

/-- Z, the bytes of a head (19 R256). -/
def Frame.z (f : Frame) : Nat := 64 * (64 * f.rbk + 64 * f.rbv + 2 * f.rbs)
/-- Offsets of a head's rows within the frame (19 R256). -/
def Frame.keyRow (f : Frame) (g r : Nat) : Nat := f.z * g + 64 * f.rbk * r
def Frame.valRow (f : Frame) (g r : Nat) : Nat := f.z * g + 4096 * f.rbk + 64 * f.rbv * r
def Frame.meanRow (f : Frame) (g : Nat) : Nat := f.z * g + 4096 * (f.rbk + f.rbv)

/-- G × Z of a precision code fits the frame (19 R256). -/
def codeFits (y prec frameLog : Nat) : Bool := decide (lyG y * (frameOf y prec).z ≤ 2 ^ frameLog)

/-- The layer descriptor a command reads, within its limits (19 R255). -/
def State.layer (s : State) (ar : Arena) (l : Nat) : Except Stop Nat := do
  let off := ar.layOff + 16 * l
  let g ← s.translate (arenaCap ar.oid) off 16 false off
  let y := s.readNat g
  require (layerOk y) s.illegal
  .ok y

/-! ### Accesses of the device to the arena -/

/-- Why an action of the device at an object does not go through. -/
inductive KErr where
  /-- A port takes no element: its spill queue is full (10 R152). -/
  | busy
  | absent (oid off : Nat)
  | bad (cause off : Nat)
  /-- A frame is needed and the pool is empty. -/
  | noFrame
  /-- The command stops in this state. -/
  | stopAt (s : State) (cause off : Nat)
  deriving DecidableEq, Repr

/-- A unit's outcome as one of these. -/
def UnitRes.toE {α : Type} : UnitRes α → Except KErr α
  | .ok a => .ok a
  | .absent a b => .error (.absent a b)
  | .bad a b => .error (.bad a b)

/-- The port of an element takes none now (10 R152). -/
def State.portBusy (s : State) (i : Nat) (c : Cap) (off : Nat) : Bool :=
  c.kind != 1 && c.kind != 2 && s.spillFull (s.spillPort i c.obj off)

/-- The state as what a word reads while it issues finds it: no element of a stream, it needs no port (10 R151). -/
def State.unspilled (s : State) : State := { s with spills := [] }

/-- The state as an element finds it: one that a spill queue has taken needs no room there (10 R152). -/
def State.roomFor (s : State) (sid id key : Nat) : State := if s.diverted sid id key then s.unspilled else s

/-- The spill queues of a state put back, but for the entries of operations that are gone. -/
def State.respill (t s : State) : State := { t with spills := s.spills.filter fun e => (t.findOp e.slot e.op).isSome }

/-- An action of an element of an operation: one that a spill queue has taken finds its ports free (10 R152). -/
def State.asTaken {α : Type} (s : State) (sid id key : Nat) (f : State → Except KErr (State × α)) : Except KErr (State × α) :=
  match f (s.roomFor sid id key) with
  | .ok (t, a) => .ok (t.respill s, a)
  | .error (.stopAt t k off) => .error (.stopAt (t.respill s) k off)
  | .error e => .error e

/-- The same of an action that gives a state alone. -/
def State.taken (s : State) (sid id key : Nat) (f : State → Except KErr State) : Except KErr State :=
  (s.asTaken sid id key fun t => (f t).map (·, ())).map (·.1)

/-- Bytes of an object read as a number. -/
def State.gread (s : State) (sid i : Nat) (c : Cap) (off n : Nat) : Except KErr Nat := do
  if s.portBusy i c off then .error .busy else
  let g ← (s.segsOf sid i c off n false).toE
  .ok (s.readNat g)

/-- Bytes of an object written. -/
def State.gwrite (s : State) (sid i : Nat) (c : Cap) (off n v : Nat) : Except KErr State := do
  if s.portBusy i c off then .error .busy else
  let g ← (s.segsOf sid i c off n true).toE
  .ok (s.writeSegs g (bytesOf n v))

/-! ### The KV map -/

/-- Fields of a map entry (19 R257). -/
def keK (e : Nat) : Nat := bits e 55 0
def keFrame (e : Nat) : Nat := bits e 95 56
def keGen (e : Nat) : Nat := bits e 107 96
def keT (e : Nat) : Bool := bits e 108 108 == 1
def keSpec (e : Nat) : Bool := bits e 109 109 == 1
def keV (e : Nat) : Bool := bits e 110 110 == 1
def kePly (e : Nat) : Nat := bits e 118 111
def kePrec (e : Nat) : Nat := bits e 122 119
def keLink (e : Nat) : Bool := bits e 123 123 == 1

/-- A field of a number replaced. -/
def setBits (v hi lo x : Nat) : Nat := v - bits v hi lo * 2 ^ lo + x % 2 ^ (hi - lo + 1) * 2 ^ lo

/-- The key of a block of a layer of a sequence (19 R257). -/
def kvKey (seq layer block : Nat) : Nat := block * 2 ^ 32 + layer * 2 ^ 24 + seq

/-- The tree block (19 R262). -/
def treeBlock : Nat := 0xFFFFFF

/-- The slot of the table where a lookup begins (19 R258). -/
def kvHash (mapLog k : Nat) : Nat := k * 0x9E3779B97F4A7C15 % 2 ^ 64 / 2 ^ (64 - mapLog)

/-- Entry i of the main table. -/
def Arena.entryOff (ar : Arena) (i : Nat) : Nat := ar.mapOff + 16 * i

/-- The entries of the bucket at a unit. -/
def bucketOffs (u : Nat) : List Nat := (List.range 4).map fun j => 64 * u + 16 * j

/-- What a lookup's walk met (19 R258, R259): the hit's offset and entry; the first entry that may be taken; the valid
entry at the end of the walk, with which a new bucket would begin. -/
structure KvWalk where
  hit  : Option (Nat × Nat)
  free : Option Nat
  last : Option Nat
  deriving DecidableEq, Repr

/-- The walk over entries (19 R258), with fuel for their number and a count of the buckets entered. -/
def State.kvSteps (s : State) (sid i : Nat) (ar : Arena) (key : Nat) : Nat → List Nat → Nat → Option Nat → Except KErr KvWalk
  | 0, _, _, free => .ok ⟨none, free, none⟩
  | _, [], _, free => .ok ⟨none, free, none⟩
  | fuel + 1, off :: rest, nb, free => do
    let e ← s.gread sid i (arenaCap ar.oid) off 16
    let free' := if free.isNone && !keV e && !keLink e then some off else free
    if keV e && !keLink e && keK e == key then .ok ⟨some (off, e), free, none⟩
    else if rest.isEmpty && keLink e then
      if nb = 64 then .ok ⟨none, free, none⟩ else s.kvSteps sid i ar key fuel (bucketOffs (keFrame e)) (nb + 1) free
    else if e = 0 then .ok ⟨none, free', none⟩
    else if rest.isEmpty then .ok ⟨none, free', if keV e && decide (nb < 64) then some off else none⟩
    else s.kvSteps sid i ar key fuel rest nb free'

/-- The walk of a key's lookup. -/
def State.kvWalk (s : State) (sid i : Nat) (ar : Arena) (key : Nat) : Except KErr KvWalk :=
  let h := kvHash ar.mapLog key
  s.kvSteps sid i ar key 265 ((List.range 8).map fun j => ar.entryOff ((h + j) % 2 ^ ar.mapLog)) 0 none

/-- A key's entry in the KV translation buffers of a slot's die (19 R260). -/
def State.kvCached (s : State) (sid i key : Nat) : Option (Nat × Nat) :=
  (s.kvBufs.find? fun b => b.die == sid / 16384 && b.iface == i && b.key == key).map fun b => (b.off, b.val)

/-- A lookup through the buffers (19 R258, R260): the offset and the entry of a hit. -/
def State.kvLookup (s : State) (sid i : Nat) (ar : Arena) (key : Nat) : Except KErr (State × Option (Nat × Nat)) :=
  match s.kvCached sid i key with
  | some h => .ok (s, some h)
  | none => do
    let w ← s.kvWalk sid i ar key
    match w.hit with
    | some (off, e) => .ok ({ s with kvBufs := ⟨sid / 16384, i, key, off, e⟩ :: s.kvBufs }, w.hit)
    | none => .ok (s, none)

/-- The entry that a command would find for a key as it issues, if it can be read. -/
def State.kvPeek (s : State) (sid i : Nat) (ar : Arena) (key : Nat) : Option Nat :=
  match s.kvCached sid i key with
  | some h => some h.2
  | none => match s.unspilled.kvWalk sid i ar key with
    | .ok w => w.hit.map (·.2)
    | .error _ => none

/-- The layout of a key's block fits its frame, by the precision code that its entry has as the command issues; of a key
that misses, by code 0 (19 R256; log 62). -/
def State.keyFits (s : State) (ar : Arena) (y key : Nat) : Bool :=
  codeFits y (match s.kvPeek s.me.id s.me.iface ar key with | some e => kePrec e | none => 0) ar.frameLog

/-- An entry written by the device, its reserved bits as zero (19 R257): at the map, and in the buffers of its die; those of
the package drop what they held of it, and so read it anew (19 R260). -/
def State.kvPut (s : State) (sid i : Nat) (ar : Arena) (off e' : Nat) : Except KErr State := do
  let e := e' % 2 ^ 124
  let t ← s.gwrite sid i (arenaCap ar.oid) off 16 e
  let bufs := t.kvBufs.filter fun b => !(b.iface == i && (b.off == off || b.key == keK e))
  .ok { t with kvBufs := if keV e && !keLink e then ⟨sid / 16384, i, keK e, off, e⟩ :: bufs else bufs }

/-- A place for a new entry (19 R259): an entry's offset, or a bucket of the pool after a valid entry. -/
inductive KvPlace where
  | at_ (off : Nat)
  | bucket (u off : Nat)
  deriving DecidableEq, Repr

/-- The place R259 gives after a walk that missed; none: the map is full. -/
def State.kvPlace (s : State) (i : Nat) (w : KvWalk) : Option KvPlace :=
  match w.free, w.last, (s.iface i).buckets with
  | some off, _, _ => some (.at_ off)
  | none, some off, u :: _ => some (.bucket u off)
  | _, _, _ => none

/-- An entry put at its place (19 R259). -/
def State.kvInsert (s : State) (sid i : Nat) (ar : Arena) (p : KvPlace) (e : Nat) : Except KErr State :=
  match p with
  | .at_ off => s.kvPut sid i ar off e
  | .bucket u off => do
    let old ← s.gread sid i (arenaCap ar.oid) off 16
    let f := s.iface i
    let a := s.setIface i { f with buckets := f.buckets.erase u }
    let b ← a.gwrite sid i (arenaCap ar.oid) (64 * u) 64 (old % 2 ^ 124 + e * 2 ^ 128)
    let c ← b.kvPut sid i ar off (2 ^ 123 + u % 2 ^ 40 * 2 ^ 56)
    let d ← c.kvPut sid i ar (64 * u) old
    d.kvPut sid i ar (64 * u + 16) e

/-- Every entry of the main table with the buckets behind a link, up to 64 of them. -/
def State.kvChain (s : State) (sid i : Nat) (ar : Arena) : Nat → Nat → Except KErr (List (Nat × Nat))
  | 0, _ => .ok []
  | fuel + 1, off => do
    let e ← s.gread sid i (arenaCap ar.oid) off 16
    if keLink e then
      let u := keFrame e
      let head ← foldE (fun l o => do
        let x ← s.gread sid i (arenaCap ar.oid) o 16
        .ok (l ++ [(o, x)])) [] (bucketOffs u |>.take 3)
      let rest ← s.kvChain sid i ar fuel (64 * u + 48)
      .ok (head ++ rest)
    else .ok [(off, e)]

/-- Every entry of the map. -/
def State.kvEntries (s : State) (sid i : Nat) (ar : Arena) : Except KErr (List (Nat × Nat)) :=
  foldE (fun l k => do
    let c ← s.kvChain sid i ar 65 (ar.entryOff k)
    .ok (l ++ c)) [] (List.range (2 ^ ar.mapLog))

/-! ### Counts and frames -/

/-- Where the count of a frame lies (19 R254). -/
def Arena.countOff (ar : Arena) (u : Nat) : Nat := ar.cntOff + 4 * (64 * u / 2 ^ ar.frameLog)

/-- The count of a frame. -/
def State.kvCount (s : State) (sid i : Nat) (ar : Arena) (u : Nat) : Except KErr Nat :=
  s.gread sid i (arenaCap ar.oid) (ar.countOff u) 4

/-- The count of a frame written. -/
def State.kvSetCount (s : State) (sid i : Nat) (ar : Arena) (u n : Nat) : Except KErr State :=
  s.gwrite sid i (arenaCap ar.oid) (ar.countOff u) 4 (n % 2 ^ 32)

/-- Jobs of the interface that have looked up the map. -/
def State.lookedUp (s : State) (i : Nat) : List Nat :=
  (s.pipes.filter fun p => p.planned && p.job.iface == i).map (·.job.op)

/-- A count falls by 1; at 0 the frame is freed and waits for its return to the pool (22 R293). -/
def State.kvDrop (s : State) (sid i : Nat) (ar : Arena) (u : Nat) : Except KErr State := do
  let c ← s.kvCount sid i ar u
  let n := (c + 2 ^ 32 - 1) % 2 ^ 32
  let t ← s.kvSetCount sid i ar u n
  .ok (if n = 0 then { t with freed := t.freed ++ [(⟨i, u, s.lookedUp i⟩ : Freed)] } else t)

/-- An entry invalidated, and its frame's count falls (22 R292, R295). -/
def State.kvKill (s : State) (sid i : Nat) (ar : Arena) (off e : Nat) : Except KErr State := do
  let t ← s.kvPut sid i ar off (setBits e 110 110 0)
  t.kvDrop sid i ar (keFrame e)

/-! ### Cuts -/

/-- The fields of a soft descriptor that a cut looks at (22 R278). -/
def Soft.seq (r : Soft) : Nat := bits r.desc.toNat 49 26
def Soft.ply (r : Soft) : Nat := bits r.desc.toNat 25 21
def Soft.spec (r : Soft) : Bool := r.desc.getLsbD 20

/-- A soft register that a cut clears (22 R295). -/
def Soft.cutBy (r : Soft) (seq k : Nat) : Bool := r.spec && r.seq == seq && decide (k ≤ r.ply)

/-- The soft register a command is still to write. -/
def Task.softDest : Task → Option (BitVec 3)
  | .smix d _ _ _ | .soft d _ _ _ | .sdig _ _ d _ | .slog d _ _ _ _ _ _ => some d
  | _ => none

/-- A cut at a slot (22 R295, R356). -/
def Slot.cut (sl : Slot) (i seq k : Nat) : Slot :=
  if sl.iface ≠ i then sl else
  { sl with
    ctx := { sl.ctx with s := sl.ctx.s.map fun r => if r.cutBy seq k then ⟨0, 0⟩ else r }
    ops := sl.ops.map fun o => match o.task.softDest with
      | some d => { o with cuts := o.cuts ++ [(seq, k, (vget sl.ctx.s d.toNat ⟨0, 0⟩).cutBy seq k)] }
      | none => o }

/-- An ATTN or KVAPP that a cut drops (19 R270, 22 R295). -/
def Op.cutBy (o : Op) (i seq k : Nat) : Bool :=
  o.iface == i && match o.task with
    | .attn q p => q == seq && decide (k ≤ p)
    | .kvapp _ d _ _ _ => bits d.toNat 37 37 == 1 && bits d.toNat 23 0 == seq && decide (k ≤ bits d.toNat 36 32)
    | _ => false

/-- A cut at the braid fabrics, the job queues and A-pipes, the pending appends with their elements in the spill queues, and
the soft registers (22 R295); `own` is the operation that makes it. -/
def State.cutUnits (s : State) (i seq k own : Nat) : State :=
  let dead (o : Op) : Bool := o.id != own && o.cutBy i seq k && !o.begun
  let ids := (s.allSlots.flatMap fun sl => (sl.ops.filter dead).map (·.id)) ++ (s.orphans.filter fun p => dead p.2).map (·.2.id)
  let t := { s with
    braids := s.braids.map fun (b : Braid) => b.cutBy i seq k
    jobs := s.jobs.filter fun j => !ids.contains j.op
    pipes := s.pipes.filter fun p => !ids.contains p.job.op
    orphans := s.orphans.filter fun p => !ids.contains p.2.id
    spills := s.spills.filter fun e => !ids.contains e.op }
  t.mapSlots fun sl => { sl.cut i seq k with ops := (sl.cut i seq k).ops.filter fun o => !ids.contains o.id }

/-- A cut at the KV map (22 R295). -/
def State.cutMap (s : State) (sid i : Nat) (ar : Arena) (seq k : Nat) : Except KErr State := do
  let es ← s.kvEntries sid i ar
  foldE (fun t p =>
    if keV p.2 && !keLink p.2 && keSpec p.2 && bits p.2 23 0 == seq && decide (k ≤ kePly p.2) then t.kvKill sid i ar p.1 p.2
    else .ok t) s es

/-- An append that a cut would drop has begun to write: the cut comes after it, and covers it (22 R295). -/
def State.appending (s : State) (i seq k own : Nat) : Bool :=
  let live (o : Op) : Bool := o.id != own && o.cutBy i seq k && o.begun
  s.allSlots.any (·.ops.any live) || s.orphans.any fun p => live p.2

/-- A PLYCUT's whole effect (22 R295). -/
def State.cut (s : State) (sid i : Nat) (ar : Arena) (seq k own : Nat) : Except KErr State :=
  if s.appending i seq k own then .error .busy else (s.cutUnits i seq k own).cutMap sid i ar seq k

/-! ### Frames from the pool -/

/-- Reclamation under pressure (19 R271): a cut at ply 1 for every sequence with a speculative entry, the PRESSURE event,
and the frames that no job holds return to the pool. -/
def State.kvReclaim (s : State) (sid : Nat) (o : Op) (ar : Arena) : Except KErr State := do
  let es ← s.kvEntries sid o.iface ar
  let seqs := ((es.filter fun p => keV p.2 && !keLink p.2 && keSpec p.2).map fun p => bits p.2 23 0).eraseDups
  let t ← foldE (fun t q => t.cut sid o.iface ar q 1 o.id) s seqs
  let u := t.postFault o.iface { unit := 5, cause := 32, cmd := o.word.toNat, lid := o.lid, slot := sid }
  let back := u.freed.filter fun f => f.iface == o.iface && f.jobs.all fun j => !u.outstanding j
  let f := u.iface o.iface
  .ok ({ u with freed := u.freed.filter fun f => !back.contains f }.setIface o.iface { f with kvPool := f.kvPool ++ back.map fun (f : Freed) => f.unit })

/-- The pool's first frame taken. -/
def State.popFrame (s : State) (i : Nat) : Option (State × Nat) :=
  match (s.iface i).kvPool with
  | u :: rest => some (s.setIface i { s.iface i with kvPool := rest }, u)
  | [] => none

/-- A frame for an insertion (19 R271), reclaimed if need be and written as zero. -/
def State.kvTake (s : State) (sid : Nat) (o : Op) (ar : Arena) : Except KErr (State × Nat) := do
  let t ← (if (s.iface o.iface).kvPool.isEmpty then s.kvReclaim sid o ar else .ok s)
  match t.popFrame o.iface with
  | none => .error (.stopAt t 5 0)
  | some (u, f) =>
    let v ← u.gwrite sid o.iface (arenaCap ar.oid) (64 * f) (2 ^ ar.frameLog) 0
    .ok (v, f)

/-- Copy-on-write of the entry about to be written (22 R294): the state and the entry as it then is. -/
def State.kvCow (s : State) (sid : Nat) (o : Op) (ar : Arena) (off e : Nat) : Except KErr (State × Nat) := do
  let c ← s.kvCount sid o.iface ar (keFrame e)
  if c ≤ 1 then .ok (s, e) else
  match s.popFrame o.iface with
  | none => .error .noFrame
  | some (t, g) =>
    let all ← t.gread sid o.iface (arenaCap ar.oid) (64 * keFrame e) (2 ^ ar.frameLog)
    let a ← t.gwrite sid o.iface (arenaCap ar.oid) (64 * g) (2 ^ ar.frameLog) all
    let e' := setBits e 95 56 g
    let b ← a.kvPut sid o.iface ar off e'
    let c ← b.kvSetCount sid o.iface ar g 1
    let d ← c.kvDrop sid o.iface ar (keFrame e)
    .ok (d, e')

/-- An action that may need a frame: without one it begins again after reclamation, and stops if there is still none. -/
def State.withFrames {α : Type} (s : State) (sid : Nat) (o : Op) (ar : Arena) (f : State → Except KErr α) : Except KErr α :=
  match f s with
  | .error .noFrame => do
    let t ← s.kvReclaim sid o ar
    match f t with
    | .error .noFrame => .error (.stopAt t 5 0)
    | r => r
  | r => r

/-- The outcome of a command's action at an object: it is done, it waits for a port or in a spill queue for a page, or it
stops (10 R152-R154). -/
def State.settle (s : State) (sid : Nat) (o : Op) (unit : Nat) : Except KErr State → State
  | .ok t => t.dropOp sid o.id
  | .error .busy => s
  | .error (.absent oid off) => s.divert sid o 0 oid off
  | .error (.bad k off) => (s.stopMessage sid o unit k off 0 0).dropOp sid o.id
  | .error .noFrame => (s.stopMessage sid o unit 5 0 0 0).dropOp sid o.id
  | .error (.stopAt t k off) => (t.stopMessage sid o unit k off 0 0).dropOp sid o.id

/-- What an element that waits in its turn comes to, for the spill queues. -/
def turnRes : Except KErr State → UnitRes Unit
  | .ok _ => .ok ()
  | .error (.absent oid off) => .absent oid off
  | .error _ => .bad 0 0

/-- The heads of a command at a KV frame performed in stream order (10 R153): from the first on, up to one that waits for a page,
when the later ones whose pages are not present are diverted meanwhile, or one that a port does not take. After an unresolvable
fault only those that wait in spill queues are performed (10 R154). `act` performs a head, `keep` is the task with those left. -/
def State.headsRun (s : State) (sid : Nat) (o : Op) (act : Op → State → Nat → Except KErr State) (keep : List Nat → Task) :
    List Nat → State
  | [] => s.dropOp sid o.id
  | g :: gs =>
    if s.skips sid o (g + 1) then s.headsRun sid o act keep gs else
    let wait := s.setTask sid o.id (keep (g :: gs)) false
    match s.taken sid o.id (g + 1) (act o · g) with
    | .ok t => ((t.undivert sid o.id (g + 1)).setTask sid o.id (keep gs) true).headsRun sid o act keep gs
    | .error (.bad k f) => ((s.undivert sid o.id (g + 1)).haltAs sid o 5 k f).headsRun sid { o with halted := true } act keep gs
    | .error (.absent _ _) => wait.divertEach sid o (((g :: gs).filter fun h => !s.skips sid o (h + 1)).map fun h =>
        (h + 1, turnRes (s.taken sid o.id (h + 1) (act o · h))))
    | .error _ => wait

/-- FRAME_RETURN (22 R293): a freed frame returns to its pool once the buffers have dropped it and the jobs that may have
looked it up have left class C. -/
def execFrameReturn (n : Nat) (s : State) : Out :=
  match s.freed[n]? with
  | none => .next s
  | some f =>
    if f.jobs.any s.outstanding then .next s else
    let g := s.iface f.iface
    .next ({ s with
      freed := s.freed.eraseIdx n
      kvBufs := s.kvBufs.filter fun b => !(b.iface == f.iface && keFrame b.val == f.unit) }.setIface f.iface
        { g with kvPool := g.kvPool ++ [f.unit] })

end Sys2Proof.Machine
end

