-- ==== Sys2Proof/Machine/Attn.lean ====
section
/-! DEFINITION. Attention pipelines and the KV instructions (19 R261-R277). -/

namespace Sys2Proof.Machine

/-! ### State arithmetic -/

/-- The bits of minus infinity and of the canonical NaN. -/
def ninf : Nat := 0xFF800000
def qnan : Nat := 0x7FC00000

/-- The state before any block (19 R268). -/
def SState.start (dh : Nat) : SState := ⟨ninf, 0, List.replicate dh 0⟩

/-- A field is a NaN. -/
def isNan32 (b : Nat) : Bool := (Num.of32 b).isNan

/-- Some field of a state is a NaN. -/
def SState.anyNan (x : SState) : Bool := isNan32 x.m || isNan32 x.l || x.o.any isNan32

/-- 2^(a - b), each operation rounded RNE (19 R264, R265). -/
def exp2Diff (a b : Nat) : Nat := Num.f32 0 (Num.exp2 (Num.of32 (Num.f32 0 (Num.add 0 (Num.of32 a) (Num.of32 b).negate))))

/-- The weight of a state under the greater maximum (19 R265). -/
def mergeWeight (mk m : Nat) : Nat :=
  if mk = ninf then 0 else if m = 0x7F800000 then (if mk = m then 0x3F800000 else 0) else exp2Diff mk m

/-- The greater of two FP32 values. -/
def max32 (a b : Nat) : Nat := Num.f32 0 (Num.maxV (Num.of32 a) (Num.of32 b))

/-- merge (19 R265); none is the NaN state. -/
def SState.merge (a b : Option SState) : Option SState :=
  match a, b with
  | some x, some y =>
    if x.anyNan || y.anyNan then none else
    let m := max32 x.m y.m
    let p := mergeWeight x.m m
    let q := mergeWeight y.m m
    let mix (u v : Nat) : Nat := Num.add32 (Num.mul32 p u) (Num.mul32 q v)
    let r : SState := ⟨m, mix x.l y.l, List.zipWith mix x.o y.o⟩
    if r.anyNan then none else some r
  | _, _ => none

/-- A record of a state array (19 R267): its state, and the flags EMPTY and FIN. -/
structure SRec where
  st    : Option SState
  empty : Bool
  fin   : Bool
  deriving DecidableEq, Repr

/-- Finalising (19 R266). -/
def SState.finalise (a : Option SState) : SRec :=
  match a with
  | none => ⟨none, false, true⟩
  | some x =>
    if x.l = 0 then ⟨some { x with o := x.o.map fun _ => 0 }, true, true⟩
    else ⟨some { x with o := x.o.map fun v => Num.f32 0 (Num.div (Num.of32 v) (Num.of32 x.l)) }, false, true⟩

/-- The words of a record (19 R267). -/
def SRec.words (dh : Nat) (r : SRec) : List Nat :=
  match r.st with
  | none => [qnan, qnan, 1 + (if r.empty then 2 else 0) + (if r.fin then 4 else 0), 0] ++ List.replicate dh qnan
  | some x => [x.m, x.l, (if r.empty then 2 else 0) + (if r.fin then 4 else 0), 0] ++ x.o

/-- The header of a state array (19 R267). -/
def arrayHeader (n dh : Nat) (fin nan empty miss : Bool) : Nat :=
  let b (p : Bool) (k : Nat) : Nat := if p then 2 ^ k else 0
  n % 2 ^ 32 + dh % 1024 * 2 ^ 32 + b fin 42 + b nan 43 + b empty 44 + b miss 46

/-- A state array (19 R267). -/
def stateArray (dh : Nat) (fin miss : Bool) (rs : List SRec) : Nat :=
  arrayHeader rs.length dh fin (rs.any fun r => r.st.isNone) (rs.any fun r => r.empty) miss + 2 ^ 512 * packWords 32 (rs.flatMap (·.words dh))

/-- The length of a record, and of a state array (19 R267). -/
def recLen (dh : Nat) : Nat := 16 + 4 * dh
def arrayLen (n dh : Nat) : Nat := 64 + n * recLen dh

/-- A record as it is read (19 R267); its NAN flag makes it the NaN state. -/
def readRec (r dh : Nat) : Option SState :=
  let x : SState := ⟨bits r 31 0, bits r 63 32, words32 dh (r / 2 ^ 128)⟩
  if r.testBit 64 then none else some x

/-! ### Scores -/

/-- A row of a block: its elements by 05 R70. -/
def rowElems (v w dh : Nat) : List Num.FV :=
  (List.range dh).map fun i => Num.readElem (v / 2 ^ (512 * (i / Num.perBlock w)) % 2 ^ 512) w (i % Num.perBlock w)

/-- A row of a frame read. -/
def State.kvRow (s : State) (sid i : Nat) (ar : Arena) (off nblk fmt dh : Nat) : Except KErr (List Num.FV) := do
  let v ← s.gread sid i (arenaCap ar.oid) off (64 * nblk)
  .ok (rowElems v ((Num.widthClass fmt).getD 0) dh)

/-- An exact inner product (19 R263, R264). -/
def dot (a b : List Num.FV) : Num.FV := (List.zipWith Num.mul a b).foldl (Num.add 0) (.fin true 0 0)

/-- A block partial (19 R264) from the usable rows' keys and values. -/
def blockPartial (qs : Nat) (q : List Num.FV) (rows : List (List Num.FV × List Num.FV)) (dh : Nat) : Option SState :=
  match rows.map fun r => Num.f32 0 (Num.mul (Num.of32 qs) (dot q r.1)) with
  | [] => some (SState.start dh)
  | s0 :: ss =>
    if isNan32 s0 || ss.any isNan32 || rows.any (fun r => r.2.any (·.isNan)) then none else
    let m := ss.foldl max32 s0
    if m = ninf then some (SState.start dh) else
    let r := (List.zip (s0 :: ss) rows).foldl (fun (a : Nat × List Nat) p =>
      let t := if m = 0x7F800000 then (if p.1 = m then 0x3F800000 else 0) else exp2Diff p.1 m
      (Num.add32 a.1 t, List.zipWith (fun o v => Num.add32 o (Num.f32 0 (Num.mul (Num.of32 t) v))) a.2 p.2.2))
      (0, List.replicate dh 0)
    some ⟨m, r.1, r.2⟩

/-- The head of a query row that the n-th record of a row uses, as values. -/
def queryOf (p : Pipe) (n : Nat) : List Num.FV :=
  let dh := lyDh p.job.layer.toNat
  ((p.query.drop (n * dh)).take dh).map Num.of32

/-! ### Which blocks take part -/

/-- A block that takes part (19 R261, R262): its number, its usable rows, and the generation expected of it. -/
structure Part where
  block : Nat
  rows  : List Nat
  gen   : Option Nat
  deriving DecidableEq, Repr

/-- The ring block r of a windowed layer in a pass over positions below P (19 R261). -/
def ringPart (w sk p r : Nat) : Option Part :=
  let top := p - 1
  let base := top - top % w
  let c0 : Int := base + 64 * r
  let c : Int := if c0 ≤ top then min (top : Int) (c0 + 63) else c0 - w + 63
  if c < sk then none else
  let g := c.toNat / w
  some ⟨r, (List.range 64).filter fun j => decide (sk ≤ g * w + 64 * r + j) && decide (g * w + 64 * r + j ≤ top), some (g % 4096)⟩

/-- The blocks that take part in a prefix pass, in increasing block number (19 R261). -/
def prefixParts (y p : Nat) : List Part :=
  if lyKind y = 0 then
    (List.range ((p + 63) / 64)).map fun b => ⟨b, (List.range 64).filter fun j => decide (64 * b + j < p), none⟩
  else
    let w := lyW y
    let lim := min (lyS y) p
    (if lyS y < p then (List.range (w / 64)).filterMap (ringPart w (lyS y) p) else []) ++
      (List.range ((lim + 63) / 64)).map fun b => ⟨w / 64 + b, (List.range 64).filter fun j => decide (64 * b + j < lim), none⟩

/-- The block that holds position P - 1 (19 R263). -/
def holdBlock (y p : Nat) : Nat :=
  if lyKind y = 0 then (p - 1) / 64
  else if p - 1 < lyS y then lyW y / 64 + (p - 1) / 64
  else (p - 1) % lyW y / 64

/-- A block that R263 forces. -/
def forcedBlock (y p b : Nat) : Bool := b == holdBlock y p || (lyKind y == 1 && decide (lyW y / 64 ≤ b))

/-- Tree position j and its ancestors (19 R262), with fuel. -/
def ancestors (desc : Nat) : Nat → Nat → List Nat
  | 0, _ => []
  | fuel + 1, j =>
    let p := bits desc (519 + 8 * j) (512 + 8 * j)
    if p < j then ancestors desc fuel p ++ [j] else [j]

/-- Fields of a job record (19 R272). -/
def jbSeq (d : Nat) : Nat := bits d 23 0
def jbLayer (d : Nat) : Nat := bits d 31 24
def jbMode (d : Nat) : Nat := bits d 33 32
def jbFin (d : Nat) : Bool := bits d 34 34 == 1
def jbK (d : Nat) : Nat := bits d 42 36
def jbQn (d : Nat) : Nat := bits d 49 43
def jbQfmt (d : Nat) : Nat := bits d 51 50
def jbPly (d : Nat) : Nat := bits d 56 52
def jbP (d : Nat) : Nat := bits d 103 64

/-- The blocks that take part in a job (19 R261, R262). -/
def jobParts (y d : Nat) : List Part := if jbMode d = 1 then [⟨treeBlock, [], none⟩] else prefixParts y (jbP d)

/-- The layout of every block that takes part in a job fits its frame, and so does the layer's own (19 R256, R272; log 62);
a reserved code needs no layout to be read. -/
def State.jobFits (s : State) (ar : Arena) (y d : Nat) : Bool :=
  codeFits y 0 ar.frameLog && (jobParts y d).all fun p =>
    match s.kvPeek s.me.id s.me.iface ar (kvKey (jbSeq d) (jbLayer d) p.block) with
    | some e => decide (3 ≤ kePrec e) || codeFits y (kePrec e) ar.frameLog
    | none => true

/-- A block that takes part, with the entry its lookup hit. -/
structure Found where
  part  : Part
  entry : Nat
  deriving DecidableEq, Repr

/-- The blocks of a job that its lookups leave, and whether one missed (19 R261, R262). -/
def State.findParts (s : State) (sid : Nat) (j : Job) (parts : List Part) : Except KErr (State × List Found × Bool) :=
  foldE (fun (a : State × List Found × Bool) p => do
    let r ← a.1.kvLookup sid j.iface j.arena (kvKey (jbSeq j.desc.toNat) (jbLayer j.desc.toNat) p.block)
    match r.2 with
    | none => .ok (r.1, a.2.1, true)
    | some (_, e) =>
      if jbMode j.desc.toNat = 0 ∧ keSpec e then .ok (r.1, a.2.1, true)
      else if p.gen = none ∨ p.gen = some (keGen e) then .ok (r.1, a.2.1 ++ [⟨p, e⟩], a.2.2)
      else .ok (r.1, a.2.1, a.2.2)) (s, [], false) parts

/-- The summary score of a block for a query row (19 R263): none where some head's value is a NaN, as every element of a block
with a reserved precision code is (19 R256). -/
def State.summaryScore (s : State) (sid : Nat) (p : Pipe) (e row : Nat) : Except KErr (Option Num.FV) :=
  if 3 ≤ kePrec e then .ok none else
  let y := p.job.layer.toNat
  let f := frameOf y (kePrec e)
  let h := lyH y
  foldE (fun (best : Option Num.FV) k => do
    let g := k / (h / lyG y)
    let off := 64 * keFrame e + f.meanRow g
    let mu ← s.kvRow sid p.job.iface p.job.arena off f.rbs (lySfmt y) (lyDh y)
    let al ← s.kvRow sid p.job.iface p.job.arena (off + 64 * f.rbs) f.rbs (lySfmt y) (lyDh y)
    let q := queryOf p (row * h + k)
    let v := Num.of32 (Num.f32 0 (Num.mul (Num.of32 (lyQs y)) (Num.add 0 (dot q mu) (dot (q.map (·.abs)) al))))
    .ok (match best with
      | some b => if v.isNan then none else some (Num.maxV b v)
      | none => none)) (some (.inf true)) (List.range h)

/-- The order of scored blocks (19 R263): by score descending, ties to the lower block number, NaN last. -/
def ranksBefore (a b : Option Num.FV × Found) : Bool :=
  match a.1, b.1 with
  | some x, some y => Num.lt y x || (!Num.lt x y && decide (a.2.part.block < b.2.part.block))
  | some _, none => true
  | none, some _ => false
  | none, none => decide (a.2.part.block < b.2.part.block)

/-- A block put where it ranks. -/
def rankIn (a : Option Num.FV × Found) : List (Option Num.FV × Found) → List (Option Num.FV × Found)
  | [] => [a]
  | b :: bs => if ranksBefore a b then a :: b :: bs else b :: rankIn a bs

/-- The blocks selected for a query row, in selection order (19 R263). -/
def State.select (s : State) (sid : Nat) (p : Pipe) (found : List Found) (row : Nat) : Except KErr (List Found) :=
  let d := p.job.desc.toNat
  let y := p.job.layer.toNat
  if jbMode d = 1 ∨ jbK d = 0 then .ok found else do
    let forced := (found.filter fun f => forcedBlock y (jbP d) f.part.block).take (jbK d)
    let scored ← foldE (fun l f => do
      let v ← s.summaryScore sid p f.entry row
      .ok (rankIn (v, f) l)) [] (found.filter fun f => !forced.contains f)
    .ok ((forced ++ scored.map (·.2)).take (jbK d))

/-- The blocks of a job as they are to be merged. -/
def jobBlocks (p : Pipe) (row : Nat) (fs : List Found) : List JobBlock :=
  fs.map fun f =>
    let rows := if jbMode p.job.desc.toNat = 1 then ancestors p.job.desc.toNat 64 row else f.part.rows
    ⟨row, f.part.block, keFrame f.entry, kePrec f.entry, rows, keT f.entry, keT f.entry⟩

/-- A job's plan (19 R261-R263): its query is read, its blocks are looked up and selected. -/
def State.plan (s : State) (sid : Nat) (p : Pipe) : Except KErr (State × Pipe) := do
  let j := p.job
  let d := j.desc.toNat
  let y := j.layer.toNat
  let n := jbQn d * lyH y * lyDh y
  let w := if jbQfmt d = 0 then 32 else 16
  let raw ← s.gread sid j.iface j.qry j.qry.off (n * (w / 8))
  let q := (List.range n).map fun i => bits raw (w * i + w - 1) (w * i) * 2 ^ (32 - w)
  let (t, found, miss) ← s.findParts sid j (jobParts y d)
  let p' := { p with query := q, planned := true, miss := miss }
  let bs ← foldE (fun l row => do
    let fs ← t.select sid p' found row
    .ok (l ++ jobBlocks p' row fs)) [] (List.range (jbQn d))
  .ok (t, { p' with blocks := bs, states := List.replicate (jbQn d * lyH y) (some (SState.start (lyDh y))) })

/-! ### The pipes -/

/-- The job of a die's queue that comes first (02 R18). -/
def State.firstJob (s : State) (die : Nat) : Option Job := s.jobs.find? (·.die == die)

/-- The name of a block in a spill queue; 0 names the accesses of the job's plan and of its end. -/
def JobBlock.key (b : JobBlock) : Nat := 1 + b.block * 64 + b.row

/-- A pipe's state put back. -/
def State.setPipe (s : State) (p : Pipe) : State :=
  { s with pipes := s.pipes.map fun x => if x.die == p.die && x.pipe == p.pipe then p else x }

/-- A pipe freed. -/
def State.dropPipe (s : State) (p : Pipe) : State := { s with pipes := s.pipes.filter fun x => !(x.die == p.die && x.pipe == p.pipe) }

/-- What an action of a pipe comes to: it waits in a spill queue for a page, or its job stops and its command leaves once its
elements in flight are done (10 R152, R154, 19 R269). -/
def State.pipeFails (s : State) (p : Pipe) (key : Nat) : KErr → State
  | .absent oid off => match s.findOp p.job.slot p.job.op with
    | some (o, _) => s.divert p.job.slot o key oid off
    | none => s
  | .bad k off => match s.findOp p.job.slot p.job.op with
    | some (o, _) => (((s.undivert p.job.slot p.job.op key).dropPipe p).stopMessage p.job.slot o 3 k off 0 0).stopOp p.job.slot p.job.op
    | none => s.dropPipe p
  | _ => s

/-- A pipe with a job plans it, once. -/
def State.planPipe (s : State) (p : Pipe) : State :=
  match s.asTaken p.job.slot p.job.op 0 fun t => t.plan p.job.slot p with
  | .ok (t, q) => (t.undivert p.job.slot p.job.op 0).setPipe q
  | .error e => s.pipeFails p 0 e

/-- APIPE_JOB_TAKE (02 R18): a free pipe takes the oldest job of its die, unless the engine's hold withholds it
(02 R25); a pipe whose job waits for a page of its plan goes on with it. -/
def execApipeJobTake (die pipe : Nat) (s : State) : Out :=
  match s.pipes.find? fun p => p.die == die && p.pipe == pipe with
  | some p => .next (if p.planned then s else s.planPipe p)
  | none => match s.firstJob die with
    | none => .next s
    | some j =>
      if 12 ≤ pipe ∨ s.engHeld die then .next s else
      let p : Pipe := ⟨die, pipe, j, false, [], [], [], false⟩
      .next ({ s with jobs := s.jobs.erase j, pipes := s.pipes ++ [p] }.planPipe p)

/-- A page of a frame brought to HBM (19 R269, 13 R198): whether it is there. -/
def State.pageIn (s : State) (i oid off : Nat) : Except KErr (State × Bool) :=
  match s.objEntry i oid with
  | none => .error (.bad 4 off)
  | some e => match s.walk e off with
    | .absent => .error (.absent oid off)
    | .bad => .error (.bad 4 off)
    | .leaf l leafPa _ =>
      let ps := off / lfSize l * lfSize l
      match s.useLeaf e l off 1 false with
      | .bad k => .error (.bad k off)
      | _ =>
        if !lfT l then .ok (s, true)
        else if lfM l || s.moves.any (fun g => g.iface == i && g.oid == oid && g.off == ps) then .ok (s, false)
        else match s.freeFrame i 9 (lfSize l) with
          | none => .error (.bad 5 off)
          | some frame => .ok (s.beginMove i oid e l leafPa ps 9 frame none, false)

/-- Every page of a frame asked into HBM: whether all are there (19 R269). -/
def State.frameIn (s : State) (p : Pipe) (b : JobBlock) : Except KErr (State × Bool) :=
  let ar := p.job.arena
  foldE (fun (a : State × Bool) k => do
    let r ← a.1.pageIn p.job.iface ar.oid (64 * b.frame + 65536 * k)
    .ok (r.1, a.2 && r.2)) (s, true) (List.range ((2 ^ ar.frameLog + 65535) / 65536))

/-- A block fetched and merged into the states of its query row (19 R264, R265); one whose entry has since got a code that
does not fit its frame stops the job (log 62). -/
def State.mergeBlock (s : State) (p : Pipe) (b : JobBlock) : Except KErr Pipe := do
  let j := p.job
  let y := j.layer.toNat
  let f := frameOf y b.prec
  let dh := lyDh y
  if b.prec < 3 ∧ !codeFits y b.prec j.arena.frameLog then .error (.bad 2 (64 * b.frame)) else do
  let nan := List.replicate dh (Num.FV.nan qnan)
  let rowsOf (g : Nat) : Except KErr (List (List Num.FV × List Num.FV)) :=
    foldE (fun l r => do
      if 3 ≤ b.prec then .ok (l ++ [(nan, nan)]) else
        let k ← s.kvRow j.slot j.iface j.arena (64 * b.frame + f.keyRow g r) f.rbk f.kf dh
        let v ← s.kvRow j.slot j.iface j.arena (64 * b.frame + f.valRow g r) f.rbv f.vf dh
        .ok (l ++ [(k, v)])) [] b.usable
  let states ← foldE (fun (l : List (Option SState)) h => do
    let rows ← rowsOf (h / (lyH y / lyG y))
    let n := b.row * lyH y + h
    .ok (l.set n (SState.merge (l.getD n none) (blockPartial (lyQs y) (queryOf p n) rows dh)))) p.states (List.range (lyH y))
  .ok { p with states := states, blocks := p.blocks.erase b }

/-- The block may be merged now (19 R268): a diverted one when it arrives, another when no undiverted block of its row
was selected before it. -/
def Pipe.mayMerge (p : Pipe) (n : Nat) (b : JobBlock) : Bool :=
  b.diverted || (p.blocks.take n).all fun c => c.row != b.row || c.diverted

/-- The port takes the block's elements (10 R152). -/
def State.blockAccepted (s : State) (p : Pipe) (b : JobBlock) : Bool :=
  match s.findOp p.job.slot p.job.op with
  | some (o, _) => s.accepts p.job.slot o b.key (arenaCap p.job.arena.oid) (64 * b.frame)
  | none => true

/-- A block of a pipe replaced. -/
def Pipe.setBlock (p : Pipe) (n : Nat) (b : JobBlock) : Pipe := { p with blocks := p.blocks.set n b }

/-- Block n of a pipe is taken up (19 R268, R269): its frame is brought to HBM, it is merged, or it waits for a page. -/
def State.mergeStep (s : State) (p : Pipe) (n : Nat) : State :=
  match p.blocks[n]? with
  | none => s
  | some b =>
    if !p.planned || !p.mayMerge n b || !s.blockAccepted p b then s
    else if b.tier then
      match s.frameIn p b with
      | .ok (t, true) => t.setPipe (p.setBlock n { b with tier := false })
      | .ok (t, false) => t
      | .error e => s.pipeFails p b.key e
    else match (s.roomFor p.job.slot p.job.op b.key).mergeBlock p b with
      | .ok q => (s.undivert p.job.slot p.job.op b.key).setPipe q
      | .error (.absent oid off) =>
        let t := s.pipeFails p b.key (.absent oid off)
        if t.diverted p.job.slot p.job.op b.key then t.setPipe (p.setBlock n { b with diverted := true }) else t
      | .error e => s.pipeFails p b.key e

/-- APIPE_BLOCK_MERGE (19 R268, R269). -/
def execApipeBlockMerge (die pipe n : Nat) (s : State) : Out :=
  match s.pipes.find? fun p => p.die == die && p.pipe == pipe with
  | none => .next s
  | some p => .next (s.mergeStep p n)

/-! ### Issue -/

/-- A 128-bit field of a record read through a capability, with its granule's tag as CLD reads it (13 R184). -/
def State.fieldCap (s : State) (c : Cap) (segs : List Seg) (k : Nat) : Cap :=
  let g := sliceSegs segs (16 * k) 16
  ⟨.ofNat 128 (s.readNat g), c.cl && c.kind != 2 && s.mem.tag (segsPa s g)⟩

/-- A job record's own limits (19 R272), whatever its layer is. -/
def jobOk (d : Nat) : Bool :=
  bits d 127 104 == 0 && bits d 63 57 == 0 && bits d 35 35 == 0 && decide (jbMode d ≤ 1) && decide (jbQfmt d ≤ 1) &&
  decide (1 ≤ jbQn d) && decide (jbQn d ≤ 64) && decide (jbK d ≤ 64) &&
  (jbMode d != 1 || (List.range (jbQn d)).all fun j =>
    let p := bits d (519 + 8 * j) (512 + 8 * j)
    p == 0xFF || decide (p < j))

/-- ATTN (19 R272). The arena comes first, with its descriptor's limits (19 R253, R254), then the record's own: illegal
instruction ranks above what its fields then fail (07 R107). -/
def attn (c : BitVec 4) (s : State) : Res := do
  s.computeOnly
  s.room .C
  let ar ← s.arena
  let cap := s.rc c
  let segs ← s.access cap { rd := true } cap.off 128 64 [] false
  let d := s.readNat segs
  require (jobOk d) s.illegal
  let y ← s.layer ar (jbLayer d)
  require (s.jobFits ar y d) s.illegal
  let qry := s.fieldCap cap segs 1
  let dest := s.fieldCap cap segs 2
  let bc := s.fieldCap cap segs 3
  s.checkRange qry { rd := true } qry.off (jbQn d * lyH y * lyDh y * (if jbQfmt d = 0 then 4 else 2))
  s.checkRange dest { wr := true } dest.off (arrayLen (jbQn d * lyH y) (lyDh y))
  let sp := spRange qry qry.off (jbQn d * lyH y * lyDh y * (if jbQfmt d = 0 then 4 else 2)) false ++
    spRange dest dest.off (arrayLen (jbQn d * lyH y) (lyDh y)) true
  let bar ← if bc.tag then (do
      s.checkRange bc rmwRights bc.off 16
      let g ← s.barObject bc rmwRights bc.off
      .ok (some g)) else .ok none
  s.boardRoom sp.length
  let t := s.issueOp .C (.attn (jbSeq d) (jbPly d)) sp
  .ok { t with jobs := t.jobs ++ [(⟨s.me.id, s.nextOp, s.me.iface, s.myDie, .ofNat 1024 d, qry, dest, bar, ar, .ofNat 128 y⟩ : Job)] }

/-- ATTN (19 R272). -/
def execAttn (c : BitVec 4) (s : State) : Out := finish s (attn c s)

/-- The header of a state array, read at issue (19 R273). -/
def State.arrayHead (s : State) (c : Cap) : Except Stop Nat := do
  s.checkCap c { rd := true } c.off 64
  let g ← s.translate c c.off 64 false c.off
  s.syncCommand
  s.board c c.off 64 false
  .ok (s.readNat g)

/-- The headers of AMERGE's arrays, as far as they can be read (19 R273): a header with FIN = 1 makes the word illegal, which
ranks above the other's capability trap (07 R107); one that is not there yet is waited for before either traps. -/
def headsOf (bad : Stop) (x y : Except Stop Nat) : Except Stop (Nat × Nat) :=
  let fin (e : Except Stop Nat) : Bool := match e with | .ok v => bits v 42 42 == 1 | .error _ => false
  if fin x || fin y then .error bad else
  match x, y with
  | .error (.park b), _ => .error (.park b)
  | _, .error (.park b) => .error (.park b)
  | .error e, _ => .error e
  | _, .error e => .error e
  | .ok a, .ok b => .ok (a, b)

/-- AMERGE (19 R273). -/
def amerge (d a b : BitVec 4) (s : State) : Res := do
  s.computeOnly
  s.room .C
  let ca := s.rc a
  let cd := s.rc d
  let (ha, hb) ← headsOf s.illegal (s.arrayHead ca) (if b = 0 then .ok 0 else s.arrayHead (s.rc b))
  let n := bits ha 31 0
  let dh := bits ha 41 32
  require (b == 0 || (bits hb 31 0 == n && bits hb 41 32 == dh)) s.illegal
  s.checkCap ca { rd := true } ca.off (arrayLen n dh)
  if b != 0 then s.checkCap (s.rc b) { rd := true } (s.rc b).off (arrayLen n dh)
  s.checkCap cd { wr := true } cd.off (arrayLen n dh)
  let sp := spRange ca ca.off (arrayLen n dh) false ++ (if b = 0 then [] else spRange (s.rc b) (s.rc b).off (arrayLen n dh) false) ++
    spRange cd cd.off (arrayLen n dh) true
  s.boardRoom sp.length
  .ok (s.issueOp .C (.amerge cd ca (if b = 0 then none else some (s.rc b)) n dh (bits ha 46 46 == 1 || bits hb 46 46 == 1) ⟨0, [], false, false, false⟩) sp)

/-- AMERGE (19 R273). -/
def execAmerge (d a b : BitVec 4) (s : State) : Out := finish s (amerge d a b s)

/-- The barrier object of SUMM: at the capability's offset; field 0 names none (19 R274). -/
def State.barAt (s : State) (c : BitVec 4) : Except Stop Bar :=
  if c = 0 then .ok none else do
    let g ← s.barObject (s.rc c) rmwRights (s.rc c).off
    .ok (some g)

/-- SUMM (19 R274). -/
def execSumm (c : BitVec 4) (x : BitVec 6) (s : State) : Out := finish s (do
  s.computeOnly
  s.room .C
  let ar ← s.arena
  let v := (s.rx x).toNat
  let y ← s.layer ar (bits v 31 24)
  require (s.keyFits ar y (bits v 55 0)) s.illegal
  let bar ← s.barAt c
  .ok (s.issueOp .C (.summ (bits v 55 0) (bits v 62 56 + 1) bar ar (.ofNat 128 y) none) []))

/-- Fields of a KVAPP descriptor (19 R275). -/
def apPos (d : Nat) : Nat := bits d 103 64
def apSpec (d : Nat) : Bool := bits d 37 37 == 1
def apPly (d : Nat) : Nat := bits d 36 32
def apLayer (d : Nat) : Nat := bits d 31 24
def apSeq (d : Nat) : Nat := bits d 23 0

/-- The block, the row and, in a windowed layer's ring, the generation of a KVAPP (19 R261, R275). -/
def apBlock (y d : Nat) : Nat × Nat × Option Nat :=
  let p := apPos d
  if apSpec d then (treeBlock, p % 64, none)
  else if lyKind y = 0 then (p / 64, p % 64, none)
  else if p < lyS y then (lyW y / 64 + p / 64, p % 64, none)
  else (p % lyW y / 64, p % 64, some (p / lyW y % 4096))

/-- A KVAPP descriptor's own limits, whatever its layer is (19 R275). -/
def apForm (d : Nat) : Bool :=
  bits d 255 240 == 0 && bits d 191 176 == 0 && bits d 127 104 == 0 && bits d 63 38 == 0 && (!apSpec d || decide (apPos d < 64))

/-- A KVAPP descriptor within its limits (19 R257, R275). -/
def apOk (y d : Nat) : Bool := apForm d && (apSpec d || decide ((apBlock y d).1 < 0xFFFF00))

/-- KVAPP (19 R275): the index is not scaled; the offsets count from the capability's own, log 32. -/
def execKvapp (c : BitVec 4) (x : BitVec 6) (s : State) : Out := finish s (do
  s.computeOnly
  s.room .C
  let ar ← s.arena
  let cap := s.rc c
  let segs ← s.access cap { rd := true } (cap.off + (s.rx x).toInt) 32 32 [] false
  let d := s.readNat segs
  require (apForm d) s.illegal
  let y ← s.layer ar (apLayer d)
  require (apOk y d && s.keyFits ar y (kvKey (apSeq d) (apLayer d) (apBlock y d).1)) s.illegal
  let n := 4 * lyG y * lyDh y
  s.checkCap cap { rd := true } (cap.off + bits d 175 128 : Nat) n
  s.checkCap cap { rd := true } (cap.off + bits d 239 192 : Nat) n
  let sp := spRange cap (cap.off + bits d 175 128) n false ++ spRange cap (cap.off + bits d 239 192) n false
  s.boardRoom sp.length
  .ok (s.issueOp .C (.kvapp cap (.ofNat 256 d) ar (.ofNat 128 y) none) sp))

/-- KVMAP (19 R276). -/
def execKvmap (d a : BitVec 6) (s : State) : Out := finish s (do
  s.computeOnly
  s.room .C
  let ar ← s.arena
  .ok (s.issueOp .C (.kvmap d (bits (s.rx a).toNat 55 0) ar) []))

/-- KVSHOOT (19 R277). -/
def execKvshoot (a b : BitVec 6) (s : State) : Out := finish s (do
  s.computeOnly
  s.room .C
  let _ ← s.arena
  .ok (s.issueOp .C (.kvshoot (bits (s.rx a).toNat 23 0) (bits (s.rx b).toNat 23 0) (bits (s.rx b).toNat 47 24)) []))

/-! ### What they do when they are performed -/

/-- An ATTN whose blocks have all been merged writes its state array (19 R268, R272). A barrier object whose frame is lost stops
it (28 R334). -/
def State.performAttn (s : State) (o : Op) (p : Pipe) : State :=
  let j := p.job
  let y := j.layer.toNat
  let fin := jbFin j.desc.toNat
  let rs := p.states.map fun x => if fin then SState.finalise x else ⟨x, false, false⟩
  let n := arrayLen rs.length (lyDh y)
  if !s.accepts j.slot o 0 j.dest j.dest.off then s else
  match s.withBar j.bar (s.segsOf j.slot j.iface j.dest j.dest.off n true) with
  | .ok g => (((s.writeSegs g (bytesOf n (stateArray (lyDh y) fin p.miss rs))).countInto j.bar n).dropPipe p).dropOp j.slot o.id
  | .absent oid off => s.divert j.slot o 0 oid off
  | .bad k off => s.pipeFails p 0 (.bad k off)

/-- Record k of an AMERGE (19 R273): merged, or finalised, and written. -/
def State.mergeRec (s : State) (sid i : Nat) (d a : Cap) (b : Option Cap) (dh k : Nat) : Except KErr (State × SRec) := do
  let off := arrayLen k dh
  let x ← s.gread sid i a (a.off + off) (recLen dh)
  let y ← match b with | some c => s.gread sid i c (c.off + off) (recLen dh) | none => .ok 0
  let r : SRec := match b with
    | some _ => ⟨SState.merge (readRec x dh) (readRec y dh), false, false⟩
    | none => SState.finalise (readRec x dh)
  let t ← s.gwrite sid i d (d.off + off) (recLen dh) (packWords 32 (r.words dh))
  .ok (t, r)

/-- Record k of an AMERGE taken up: merged, diverted for a page, or the command stops there (10 R152-R154); whether the next
may be taken up. -/
def State.mergeAt (s : State) (sid : Nat) (o : Op) (d a : Cap) (b : Option Cap) (dh k : Nat) (w : Merge) : State × Merge × Bool :=
  match s.asTaken sid o.id (k + 1) fun t => t.mergeRec sid o.iface d a b dh k with
  | .ok (t, r) =>
    ((t.undivert sid o.id (k + 1)).onOp sid o.id fun x => { x with begun := true },
      { w with nan := w.nan || r.st.isNone, empty := w.empty || r.empty }, true)
  | .error (.absent oid off) =>
    let t := s.divert sid o (k + 1) oid off
    if t.diverted sid o.id (k + 1) then (t, { w with late := w.late ++ [k] }, true) else (t, w, false)
  | .error (.bad c off) =>
    let t := s.undivert sid o.id (k + 1)
    (if w.stopped then t else t.stopMessage sid o 3 c off 0 0, { w with stopped := true }, true)
  | .error _ => (s, w, false)

/-- The records diverted so far, taken up again (10 R153). -/
def State.mergeLate (s : State) (sid : Nat) (o : Op) (d a : Cap) (b : Option Cap) (dh : Nat) (w : Merge) : State × Merge :=
  w.late.foldl (fun p k =>
    let r := p.1.mergeAt sid o d a b dh k p.2
    (r.1, if r.2.2 then r.2.1 else { r.2.1 with late := r.2.1.late ++ [k] })) (s, { w with late := [] })

/-- The records from the next on, up to one that a port does not take or at which the command stops; with fuel for them. -/
def State.mergeNext (s : State) (sid : Nat) (o : Op) (d a : Cap) (b : Option Cap) (dh : Nat) : Nat → Merge → State × Merge
  | 0, w => (s, w)
  | fuel + 1, w =>
    if w.stopped then (s, w) else
    let r := s.mergeAt sid o d a b dh w.next w
    if r.2.2 then r.1.mergeNext sid o d a b dh fuel { r.2.1 with next := w.next + 1 } else (r.1, r.2.1)

/-- AMERGE performed (19 R273): record by record, those that wait for a page when they arrive (10 R153), and the header last. A
command that has stopped leaves once its diverted records are done (10 R154). -/
def State.amergeRun (s : State) (sid : Nat) (o : Op) (d a : Cap) (b : Option Cap) (n dh : Nat) (miss : Bool) (w : Merge) : State :=
  let p := s.mergeLate sid o d a b dh w
  let (t, u) := p.1.mergeNext sid o d a b dh (n - w.next) p.2
  let wait := t.setTask sid o.id (.amerge d a b n dh miss u) false
  if u.late ≠ [] then wait
  else if u.stopped then t.dropOp sid o.id
  else if u.next < n then wait
  else match t.taken sid o.id 0 fun x => x.gwrite sid o.iface d d.off 64 (arrayHeader n dh b.isNone u.nan u.empty miss) with
    | .ok v => v.dropOp sid o.id
    | .error (.absent oid off) => wait.divert sid o 0 oid off
    | .error (.bad c off) => (t.dropOp sid o.id).stopMessage sid o 3 c off 0 0
    | .error _ => wait

/-- Values as the blocks of a row (19 R256). -/
def rowOf (fmt ty rm : Nat) (sat : Bool) (nblk : Nat) (vs : List Num.FV) : Nat :=
  let p := Num.perBlock ((Num.widthClass fmt).getD 0)
  packWords 512 ((List.range nblk).map fun b => Num.encodeBlock fmt ty rm sat ((vs.drop (b * p)).take p))

/-- The mean and the magnitude of a column (19 R274). -/
def summaryOf (col : List Num.FV) : Num.FV × Num.FV :=
  if col.any (·.isNan) then (.nan qnan, .nan qnan)
  else
    let sum := match col with | v :: vs => vs.foldl (Num.add 0) v | [] => .fin false 0 0
    (Num.div sum (.fin false col.length 0), col.foldl (fun m v => Num.maxV m v.abs) (.fin false 0 0))

/-- The heads of a command at a KV frame are begun: the map entry is found, and the frame that is to be written is its own. -/
def State.beginHeads (s t : State) (sid : Nat) (o : Op) (task : Task) : State :=
  (t.undivert sid o.id 0).setTask sid o.id task (decide (t.mem ≠ s.mem))

/-- The entry of the block that SUMM writes in (19 R274), with its frame unshared (22 R294); none where the key misses. -/
def State.summEntry (s : State) (sid : Nat) (o : Op) (key : Nat) (ar : Arena) (y : Nat) : Except KErr (State × Option Nat) := do
  let (t, hit) ← s.kvLookup sid o.iface ar key
  match hit with
  | none => .ok (t, none)
  | some (off, e0) => do
    if !codeFits y (kePrec e0) ar.frameLog then .error (.bad 2 (64 * keFrame e0)) else do
    let (u, e) ← t.kvCow sid o ar off e0
    .ok (u, some e)

/-- The summary rows of head g of a block (19 R274). -/
def State.summRows (s : State) (sid i count : Nat) (ar : Arena) (y e g : Nat) : Except KErr State := do
  let f := frameOf y (kePrec e)
  let dh := lyDh y
  let rows ← foldE (fun l r => do
    let k ← if 3 ≤ kePrec e then .ok (List.replicate dh (Num.FV.nan qnan))
      else s.kvRow sid i ar (64 * keFrame e + f.keyRow g r) f.rbk f.kf dh
    .ok (l ++ [k])) [] (List.range count)
  let cols := (List.range dh).map fun i => summaryOf (rows.map fun r => r.getD i (.fin false 0 0))
  let base := 64 * keFrame e + f.meanRow g
  let a ← s.gwrite sid i (arenaCap ar.oid) base (64 * f.rbs) (rowOf (lySfmt y) 0 0 false f.rbs (cols.map (·.1)))
  a.gwrite sid i (arenaCap ar.oid) (base + 64 * f.rbs) (64 * f.rbs) (rowOf (lySfmt y) 0 2 false f.rbs (cols.map (·.2)))

/-- A head of SUMM: its rows are counted as they are written, unless it has stopped (19 R274, 10 R154). A barrier object whose
frame is lost stops it (28 R334). -/
def State.summHead (s : State) (sid : Nat) (o : Op) (count : Nat) (bar : Bar) (ar : Arena) (y e g : Nat) : Except KErr State := do
  let b := if o.halted then none else bar
  match s.barLost b with
  | some off => .error (.bad 11 off)
  | none => do
    let t ← s.summRows sid o.iface count ar y e g
    .ok (t.countInto b (2 * 64 * (frameOf y (kePrec e)).rbs))

/-- The heads of SUMM (19 R274). -/
def State.summHeads (s : State) (sid : Nat) (o : Op) (key count : Nat) (bar : Bar) (ar : Arena) (y : BitVec 128) (e : Nat) (gs : List Nat) : State :=
  s.headsRun sid o (fun p t g => t.summHead sid p count bar ar y.toNat e g) (fun hs => .summ key count bar ar y (some (e, hs))) gs

/-- SUMM performed (19 R274): its entry, and then its heads. -/
def State.summRun (s : State) (sid : Nat) (o : Op) (key count : Nat) (bar : Bar) (ar : Arena) (y : BitVec 128)
    (at_ : Option (Nat × List Nat)) : State :=
  match at_ with
  | some (e, gs) => s.summHeads sid o key count bar ar y e gs
  | none => match s.asTaken sid o.id 0 fun t => t.withFrames sid o ar fun t => t.summEntry sid o key ar y.toNat with
    | .ok (t, none) => t.dropOp sid o.id
    | .ok (t, some e) =>
      let gs := List.range (lyG y.toNat)
      (s.beginHeads t sid o (.summ key count bar ar y (some (e, gs)))).summHeads sid o key count bar ar y e gs
    | .error e => s.settle sid o 5 (.error e)

/-- The entry a KVAPP writes to, found or inserted (19 R275). -/
def State.kvappEntry (s : State) (sid : Nat) (o : Op) (d : Nat) (ar : Arena) (y : Nat) : Except KErr (State × Nat) := do
  let (blk, _, gen) := apBlock y d
  let key := kvKey (apSeq d) (apLayer d) blk
  let (t, hit) ← s.kvLookup sid o.iface ar key
  match hit with
  | some (off, e0) => do
    let e1 := match gen with | some g => setBits e0 107 96 g | none => e0
    let e2 := if apSpec d then setBits e1 118 111 (min (kePly e1) (apPly d)) else e1
    let u ← if e2 = e0 then .ok t else t.kvPut sid o.iface ar off e2
    u.kvCow sid o ar off e2
  | none => do
    let w ← t.kvWalk sid o.iface ar key
    match t.kvPlace o.iface w with
    | none => .error (.stopAt t 6 0)
    | some pl => do
      let (u, f) ← t.kvTake sid o ar
      let e := key + f % 2 ^ 40 * 2 ^ 56 + gen.getD 0 % 4096 * 2 ^ 96 + (if apSpec d then 2 ^ 109 else 0) + 2 ^ 110 + apPly d * 2 ^ 111
      let v ← u.kvInsert sid o.iface ar pl e
      let z ← v.kvSetCount sid o.iface ar f 1
      .ok (z, e)

/-- The entry that a KVAPP writes under, whose precision code fits the frame (19 R256, R275; log 62). -/
def State.kvappPlace (s : State) (sid : Nat) (o : Op) (d : Nat) (ar : Arena) (y : Nat) : Except KErr (State × Nat) := do
  let (t, e) ← s.kvappEntry sid o d ar y
  if !codeFits y (kePrec e) ar.frameLog then .error (.bad 2 (64 * keFrame e)) else .ok (t, e)

/-- Head g of a KVAPP (19 R275): its key row and its value row written in their blocks. They are read as plain FP32, whatever
the pages' D bits (log 58). -/
def State.kvappHead (s : State) (sid i : Nat) (cap : Cap) (d : Nat) (ar : Arena) (y e g : Nat) : Except KErr State := do
  let dh := lyDh y
  let f := frameOf y (kePrec e)
  let row := (apBlock y d).2.1
  let k ← s.gread sid i cap (cap.off + bits d 175 128 + 4 * dh * g) (4 * dh)
  let v ← s.gread sid i cap (cap.off + bits d 239 192 + 4 * dh * g) (4 * dh)
  let a ← s.gwrite sid i (arenaCap ar.oid) (64 * keFrame e + f.keyRow g row) (64 * f.rbk)
    (rowOf f.kf f.kt 0 true f.rbk ((words32 dh k).map Num.of32))
  a.gwrite sid i (arenaCap ar.oid) (64 * keFrame e + f.valRow g row) (64 * f.rbv)
    (rowOf f.vf f.vt 0 true f.rbv ((words32 dh v).map Num.of32))

/-- The heads of KVAPP (19 R275). -/
def State.kvappHeads (s : State) (sid : Nat) (o : Op) (cap : Cap) (d : BitVec 256) (ar : Arena) (y : BitVec 128) (e : Nat) (gs : List Nat) : State :=
  s.headsRun sid o (fun p t g => t.kvappHead sid p.iface cap d.toNat ar y.toNat e g) (fun hs => .kvapp cap d ar y (some (e, hs))) gs

/-- KVAPP performed (19 R275, 22 R294): its entry, found or inserted, and then its heads. -/
def State.kvappRun (s : State) (sid : Nat) (o : Op) (cap : Cap) (d : BitVec 256) (ar : Arena) (y : BitVec 128)
    (at_ : Option (Nat × List Nat)) : State :=
  match at_ with
  | some (e, gs) => s.kvappHeads sid o cap d ar y e gs
  | none => match s.asTaken sid o.id 0 fun t => t.withFrames sid o ar fun t => t.kvappPlace sid o d.toNat ar y.toNat with
    | .ok (t, e) =>
      let gs := List.range (lyG y.toNat)
      (s.beginHeads t sid o (.kvapp cap d ar y (some (e, gs)))).kvappHeads sid o cap d ar y e gs
    | .error e => s.settle sid o 5 (.error e)

/-- KVMAP's value (19 R276). -/
def kvmapVal (e : Nat) : Nat :=
  2 ^ 63 + (if keSpec e then 2 ^ 53 else 0) + (if keT e then 2 ^ 52 else 0) + kePrec e * 2 ^ 48 + kePly e * 2 ^ 40 + keFrame e

/-- KVMAP performed. -/
def State.kvmapRun (s : State) (sid : Nat) (o : Op) (live : Bool) (d : BitVec 6) (key : Nat) (ar : Arena) : Except KErr State := do
  let (t, hit) ← s.kvLookup sid o.iface ar key
  .ok (t.deposit sid live (.x d (.ofNat 64 (match hit with | some (_, e) => kvmapVal e | none => 0))))

/-- KVSHOOT performed: the named entries leave every buffer (19 R277). -/
def State.shoot (s : State) (i seq block count : Nat) : State :=
  { s with kvBufs := s.kvBufs.filter fun b =>
      !(b.iface == i && bits b.key 23 0 == seq &&
        (count == 0 || (decide (block ≤ bits b.key 55 32) && decide (bits b.key 55 32 < block + count)))) }

/-- KVSHOOT waits for the slot's earlier stores and atomics (19 R277). -/
def shootWaits (o : Op) : Bool :=
  match o.cls with
  | .S => true
  | .L => (match o.task with | .amo _ _ _ _ _ _ => true | .cas _ _ _ _ _ _ _ => true | _ => false)
  | _ => false

/-- An operation of major 0x7A other than ATTN performed. -/
def State.performAttention (s : State) (sid : Nat) (o : Op) (live : Bool) : State :=
  match o.task with
  | .amerge d a b n dh miss w => s.amergeRun sid o d a b n dh miss w
  | .summ key count bar ar y at_ => s.summRun sid o key count bar ar y at_
  | .kvapp cap d ar y at_ => s.kvappRun sid o cap d ar y at_
  | .kvmap d key ar => s.settle sid o 5 (s.taken sid o.id 0 fun t => t.kvmapRun sid o live d key ar)
  | .kvshoot seq block count => (s.shoot o.iface seq block count).dropOp sid o.id
  | _ => s

end Sys2Proof.Machine
end

