-- ==== Sys2Proof/Machine/Keccak.lean ====
section
/-! DEFINITION. SHAKE256 (22 R284, 31 R353), of the sponge over Keccak-f[1600] that FIPS 202 defines; log 33. -/

namespace Sys2Proof.Keccak

/-- The state: five planes, by y, of five lanes, by x. -/
abbrev Cube := Vector (Vector (BitVec 64) 5) 5

/-- The lane of column x and row y, both modulo 5. -/
def Cube.at (c : Cube) (x y : Nat) : BitVec 64 := vget (vget c (y % 5) (Vector.replicate 5 0)) (x % 5) 0

/-- The cube whose lanes a function gives. -/
def Cube.of (f : Nat → Nat → BitVec 64) : Cube := Vector.ofFn fun y => Vector.ofFn fun x => f x.val y.val

/-- Each column's parity goes into the columns beside it. -/
def theta (c : Cube) : Cube :=
  let parity : Vector (BitVec 64) 5 := Vector.ofFn fun x => (List.range 5).foldl (fun p y => p ^^^ c.at x.val y) 0
  let mix : Vector (BitVec 64) 5 := Vector.ofFn fun x =>
    vget parity ((x.val + 4) % 5) 0 ^^^ (vget parity ((x.val + 1) % 5) 0).rotateLeft 1
  .of fun x y => c.at x y ^^^ vget mix x 0

/-- The walk over the lanes other than (0, 0): the k-th step stands at a lane whose rotation is the k-th triangular number. -/
def rotationFrom (x y : Nat) : Nat → Nat → Nat → Nat → Nat
  | 0, _, _, _ => 0
  | fuel + 1, k, u, v =>
    if u = x ∧ v = y then k * (k + 1) / 2 % 64 else rotationFrom x y fuel (k + 1) v ((2 * u + 3 * v) % 5)

/-- The rotation of a lane. -/
def rotation (x y : Nat) : Nat := if x = 0 ∧ y = 0 then 0 else rotationFrom x y 24 1 1 0

/-- Each lane is rotated, and put at its place in the next arrangement. -/
def rhoPi (c : Cube) : Cube := .of fun x y => (c.at (x + 3 * y) x).rotateLeft (rotation ((x + 3 * y) % 5) (x % 5))

/-- The only step that is not linear. -/
def chi (c : Cube) : Cube := .of fun x y => c.at x y ^^^ (~~~(c.at (x + 1) y) &&& c.at (x + 2) y)

/-- The shift register that the round constants are drawn from, moved on by one. -/
def shift (r : Nat) : Nat := if 128 ≤ r then (2 * r - 256) ^^^ 0x71 else 2 * r

/-- The constant of a round, from the register as it stands before it: bits 0, 1, 3, 7, 15, 31 and 63 in turn. -/
def constant (r : Nat) : Nat × BitVec 64 :=
  (List.range 7).foldl (fun p j => (shift p.1, p.2 ||| (BitVec.ofNat 64 (p.1 % 2) <<< (2 ^ j - 1)))) (r, 0)

/-- A round, with the register. -/
def roundStep (p : Cube × Nat) : Cube × Nat :=
  let k := constant p.2
  let c := chi (rhoPi (theta p.1))
  (.of fun x y => if x = 0 ∧ y = 0 then c.at 0 0 ^^^ k.2 else c.at x y, k.1)

/-- The permutation: 24 rounds. -/
def permute (c : Cube) : Cube := ((List.range 24).foldl (fun p _ => roundStep p) (c, 1)).1

/-- A block of 136 bytes, as a number, taken in. -/
def absorb (c : Cube) (block : Nat) : Cube :=
  permute (.of fun x y => c.at x y ^^^ .ofNat 64 (block / 2 ^ (64 * (x + 5 * y)) % 2 ^ 64))

/-- The bytes that a state gives out: those of its first 17 lanes. -/
def output (c : Cube) : List Byte := (List.range 17).flatMap fun i => bytesOf 8 (c.at i (i / 5)).toNat

/-- k blocks given out. -/
def squeeze : Nat → Cube → List Byte
  | 0, _ => []
  | k + 1, c => output c ++ squeeze k (permute c)

/-- The first n bytes of SHAKE256 of a message: domain bits 1111, then the padding, in blocks of 136 bytes. -/
def shake256 (n : Nat) (msg : List Byte) : List Byte :=
  let len := msg.length
  let blocks := len / 136 + 1
  let m := natOfBytes msg + 0x1F * 2 ^ (8 * len) + 0x80 * 2 ^ (8 * (blocks * 136 - 1))
  let c := (List.range blocks).foldl (fun c i => absorb c (m / 2 ^ (1088 * i) % 2 ^ 1088)) (Cube.of fun _ _ => 0)
  (squeeze (n / 136 + 1) c).take n

end Sys2Proof.Keccak
end

