-- ==== Sys2Proof/Machine/Soft.lean ====
section
/-! DEFINITION. Soft registers, the position log, the splice tree and PLYCUT (22 R278-R297). -/

namespace Sys2Proof.Machine

/-! ### Descriptors -/

/-- Fields of a soft descriptor (22 R278). -/
def sfTok (d : Nat) : Nat := bits d 127 96
def sfLen (d : Nat) : Nat := bits d 95 80
def sfFmt (d : Nat) : Nat := bits d 79 72
def sfOff (d : Nat) : Nat := bits d 71 50
def sfSeq (d : Nat) : Nat := bits d 49 26
def sfPly (d : Nat) : Nat := bits d 25 21
def sfSpec (d : Nat) : Nat := bits d 20 20
def sfDv (d : Nat) : Nat := bits d 19 19
def sfCol (d : Nat) : Nat := bits d 18 18
def sfKind (d : Nat) : Nat := bits d 1 0

/-- A descriptor from its fields (22 R278). -/
def softDesc (tok len fmt off seq ply spec dv col kind : Nat) : BitVec 128 :=
  .ofNat 128 (tok % 2 ^ 32 * 2 ^ 96 + len % 2 ^ 16 * 2 ^ 80 + fmt % 256 * 2 ^ 72 + off % 2 ^ 22 * 2 ^ 50 + seq % 2 ^ 24 * 2 ^ 26 +
    ply % 32 * 2 ^ 21 + spec % 2 * 2 ^ 20 + dv % 2 * 2 ^ 19 + col % 2 * 2 ^ 18 + kind % 4)

/-- The end of the scratchpad that soft vectors and key lists may use (22 R278, R288). -/
def softLimit : Nat := 0x300000

/-- The bytes of a soft vector (22 R278). -/
def sfBytes (d : Nat) : Nat :=
  if sfKind d = 2 then sfLen d * sfmtSize (sfFmt d) else if sfKind d = 3 then 8 * sfLen d else 0

/-- A descriptor is well formed (22 R278). -/
def softOk (d : Nat) : Bool :=
  bits d 17 2 == 0 && (sfKind d == 1 || (sfTok d == 0 && sfCol d == 0)) && (decide (2 ≤ sfKind d) || sfDv d == 0) &&
  (if sfKind d = 0 then sfLen d == 0 && sfFmt d == 0 && sfSeq d == 0 && sfPly d == 0 && sfSpec d == 0
   else if sfKind d = 1 then true
   else
    sfOff d % 64 == 0 && decide (sfOff d + sfBytes d ≤ softLimit) &&
    (if sfKind d = 2 then sfmtSize (sfFmt d) != 0 && decide (1 ≤ sfLen d) && decide (sfLen d ≤ 4096)
     else sfFmt d == 0 && decide (sfLen d ≤ 16)))

/-! ### Scratchpad and interlocks -/

/-- A piece of a core's scratchpad, addressed without a capability (22 R278). -/
def padSeg (cid off n : Nat) : Seg := ⟨scratchPa cid off, n, 1, false, 0, off⟩

/-- A soft register that an instruction reads waits for the command that is to write it (15 R226, 22 R279). -/
def State.softReady (s : State) (r : BitVec 3) : Except Stop Unit :=
  let ids := (s.me.ops.filter fun o => o.task.softDest == some r).map (·.id)
  require ids.isEmpty (.park (.ops ids))

/-- The soft register that an operation of major 0x7C reads, by its word (07 R105, 22 R279). -/
def softSource (w : Word) : Option (BitVec 3) :=
  if bits w.toNat 28 22 ≠ 0x7C then none else
  match decode7C w.toNat with
  | some (.sst a _) | some (.smix a _ _) | some (.semb _ a _) | some (.scollMax _ a) | some (.scollSmp _ a _) | some (.sdig _ a)
  | some (.slog a _ _) => some a
  | _ => none

/-- A soft register that an instruction writes waits for the operations that are to write it or read it (15 R226, 22 R279). -/
def State.softFree (s : State) (r : BitVec 3) : Except Stop Unit :=
  let ids := (s.me.ops.filter fun o => o.task.softDest == some r || softSource o.word == some r).map (·.id)
  require ids.isEmpty (.park (.ops ids))

/-- Bytes of the slot's scratchpad that a command reads at issue (12 R178). -/
def State.padRead (s : State) (off n : Nat) : Except Stop Nat := do
  if n = 0 then .ok 0 else do
    s.syncCommand
    .ok (s.readNat [padSeg (s.me.id / 128) off n])

/-- A soft command issues with its scratchpad ranges (22 R279, 10 R161). -/
def State.issueSoft (s : State) (k : Cls) (t : Task) (sp : List (Nat × Nat × Bool)) : Res := do
  let sp' := sp.filter fun r => r.2.1 != 0
  s.boardRoom sp'.length
  .ok (s.issueOp k t sp')

/-! ### SLDH, SST, SMIX -/

/-- SLDH (22 R280). -/
def execSldh (d : BitVec 3) (c : BitVec 4) (s : State) : Out := finish s (do
  s.computeOnly
  s.softFree d
  let cap := s.rc c
  let segs ← s.access cap { rd := true } cap.off 32 32 [] false
  s.syncAccess segs false
  let v := s.readNat segs
  require (softOk (v % 2 ^ 128)) s.illegal
  let t := s.issued
  .ok { t with me := { t.me with ctx := { t.me.ctx with s := vset t.me.ctx.s d.toNat ⟨.ofNat 128 v, .ofNat 64 (bits v 191 128)⟩ } } })

/-- SST (22 R280). -/
def execSst (a : BitVec 3) (c : BitVec 4) (s : State) : Out := finish s (do
  s.computeOnly
  s.softReady a
  s.room .S
  let cap := s.rc c
  let segs ← s.access cap { wr := true } cap.off 32 32 [] false
  let r := s.rs a
  .ok (s.issueOp .S (.store segs (bytesOf 32 (r.desc.toNat + r.dig.toNat * 2 ^ 128)) false) []))

/-- The pairs of a MIX (22 R278): IDs and weights as FP32 bits. -/
def mixPairs (len v : Nat) : List (Nat × Nat) := (List.range len).map fun j => (bits v (64 * j + 31) (64 * j), bits v (64 * j + 63) (64 * j + 32))

/-- The index of the first element that meets a test. -/
def indexWhere {α : Type} (p : α → Bool) : List α → Option Nat
  | [] => none
  | a :: as => if p a then some 0 else (indexWhere p as).map (· + 1)

/-- SMIX (22 R281). -/
def smix (d : BitVec 3) (a b : BitVec 6) (s : State) : Res := do
  s.computeOnly
  s.softFree d
  s.room .S
  let r := s.rs d
  let q := r.desc.toNat
  require (sfKind q == 3) s.illegal
  let g := padSeg (s.me.id / 128) (sfOff q) (8 * sfLen q)
  s.syncAccess [g] false
  let ps := mixPairs (sfLen q) (s.readNat [g])
  let id := bits (s.rx a).toNat 31 0
  let w := bits (s.rx b).toNat 31 0
  let put (j len w' : Nat) : Res :=
    s.issueSoft .S (.smix d ⟨softDesc (sfTok q) len (sfFmt q) (sfOff q) (sfSeq q) (sfPly q) (sfSpec q) 0 (sfCol q) 3, r.dig⟩
      (sfOff q + 8 * j) (bytesOf 8 (id + w' * 2 ^ 32))) [(sfOff q, 8 * len, true)]
  match indexWhere (fun p => p.1 == id) ps with
  | some j => put j (sfLen q) (Num.add32 (ps.getD j (0, 0)).2 w)
  | none => do
    require (sfLen q != 16) s.illegal
    require (decide (sfOff q + 8 * (sfLen q + 1) ≤ softLimit)) (capTrap subBounds (sfOff q + 8 * sfLen q))
    put (sfLen q) (sfLen q + 1) w

/-- SMIX (22 R281). -/
def execSmix (d : BitVec 3) (a b : BitVec 6) (s : State) : Out := finish s (smix d a b s)

/-! ### SEMB, SCOLL, SDIG -/

/-- An embedding table's header within its limits (22 R282). -/
def embOk (h : Nat) : Bool :=
  bits h 63 56 == 0 && bits h 511 128 == 0 && decide (1 ≤ bits h 47 32) && decide (bits h 47 32 ≤ 4096) &&
  sfmtSize (bits h 55 48) != 0 && decide (bits h 47 32 * sfmtSize (bits h 55 48) ≤ bits h 127 64)

/-- The rows' weighted sum, one rounding per pair (22 R282). -/
def embed (fmt dim : Nat) (rows : List (Nat × Nat)) : List Nat :=
  let f := ofmtOf fmt
  rows.foldl (fun o p => List.zipWith (fun a c => Num.f32 0 (Num.add 0 (Num.of32 a) (Num.mul (Num.of32 p.1) (Num.decode f c)))) o
    (entries p.2 0 f.width dim)) (List.replicate dim 0)

/-- SEMB (22 R282). -/
def semb (d a : BitVec 3) (c : BitVec 4) (s : State) : Res := do
  s.computeOnly
  s.softReady a
  s.softFree d
  s.room .C
  let q := (s.rs a).desc.toNat
  require (sfKind q == 1 || sfKind q == 3) s.illegal
  let cap := s.rc c
  let hs ← s.access cap { rd := true } cap.off 64 64 [] false
  s.syncCommand
  let h := s.readNat hs
  require (embOk h) s.illegal
  let dim := bits h 47 32
  let size := sfmtSize (bits h 55 48)
  let v ← s.padRead (sfOff q) (if sfKind q = 3 then 8 * sfLen q else 0)
  let ps := if sfKind q = 1 then [(sfTok q, 0x3F800000)] else mixPairs (sfLen q) v
  foldE (fun _ (p : Nat × Nat) => require (decide (p.1 < bits h 31 0)) (capTrap subBounds p.1)) () ps
  let rows ← foldE (fun l (p : Nat × Nat) => do
    let g ← s.access cap { rd := true } (cap.off + 64 + p.1 * bits h 127 64 : Nat) (dim * size) 1 [] false
    .ok (l ++ [(p.2, s.readNat g)])) [] ps
  let off := sfOff (s.rs d).desc.toNat
  require (off % 64 == 0) (capTrap subAlign off)
  require (decide (off + 4 * dim ≤ softLimit)) (capTrap subBounds (max off softLimit))
  s.issueSoft .C (.soft d ⟨softDesc 0 dim 0x40 off (sfSeq q) (sfPly q) (sfSpec q) 0 0 2, 0⟩ off
    (bytesOf (4 * dim) (packWords 32 (embed (bits h 55 48) dim rows))))
    ([(sfOff q, if sfKind q = 3 then 8 * sfLen q else 0, false), (off, 4 * dim, true)] ++ spRange cap cap.off 64 false ++
      ps.flatMap fun p => spRange cap (cap.off + 64 + p.1 * bits h 127 64) (dim * size) false)

/-- SEMB (22 R282). -/
def execSemb (d a : BitVec 3) (c : BitVec 4) (s : State) : Out := finish s (semb d a c s)

/-- Pairs in order of ID, those of one ID in pair order (22 R283). -/
def byId : List (Nat × Nat) → List (Nat × Nat)
  | [] => []
  | p :: ps => ins p (byId ps)
where
  ins (p : Nat × Nat) : List (Nat × Nat) → List (Nat × Nat)
    | [] => [p]
    | q :: qs => if q.1 < p.1 then q :: ins p qs else p :: q :: qs

/-- SCOLL.max's choice among pairs ordered by ID (22 R283). -/
def collMax (ps : List (Nat × Nat)) : Nat :=
  let best := ps.foldl (fun (b : Option (Nat × Nat)) p =>
    if isNan32 p.2 then b else match b with
      | some q => if Num.lt (Num.of32 q.2) (Num.of32 p.2) then some p else b
      | none => some p) none
  match best, ps with
  | some p, _ => p.1
  | none, p :: _ => p.1
  | none, [] => 0

/-- The first pair whose running sum reaches t, with the sum so far. -/
def collReach (t : Nat) : Nat → List (Nat × Nat) → Option Nat
  | _, [] => none
  | c, p :: ps =>
    let c' := Num.add32 c p.2
    if Num.lt (Num.of32 c') (Num.of32 t) then collReach t c' ps else some p.1

/-- SCOLL.smp's choice among pairs ordered by ID (22 R283). -/
def collSmp (u : Nat) (ps : List (Nat × Nat)) : Nat :=
  let part := ps.filter fun p => Num.lt (.fin false 0 0) (Num.of32 p.2)
  let w := part.foldl (fun c p => Num.add32 c p.2) 0
  let u' := if isNan32 u || Num.lt (Num.of32 u) (.fin false 0 0) then 0 else if Num.lt (.fin false 1 0) (Num.of32 u) then 0x3F800000 else u
  let t := Num.mul32 u' w
  let t' := if isNan32 t then 0 else t
  match collReach t' 0 part, ps with
  | some id, _ => id
  | none, p :: _ => p.1
  | none, [] => 0

/-- SCOLL (22 R283): f chooses among the pairs ordered by ID. -/
def scoll (d a : BitVec 3) (f : List (Nat × Nat) → Nat) (s : State) : Res := do
  s.computeOnly
  s.softReady a
  s.softFree d
  s.room .C
  let q := (s.rs a).desc.toNat
  let off := sfOff (s.rs d).desc.toNat
  let text (tok col : Nat) : Soft := ⟨softDesc tok 1 0 off (sfSeq q) (sfPly q) (sfSpec q) 0 col 1, 0⟩
  if sfKind q = 1 then s.issueSoft .C (.soft d (text (sfTok q) (sfCol q)) 0 []) []
  else do
    require (sfKind q == 3 && sfLen q != 0) s.illegal
    let v ← s.padRead (sfOff q) (8 * sfLen q)
    s.issueSoft .C (.soft d (text (f (byId (mixPairs (sfLen q) v))) 1) 0 []) [(sfOff q, 8 * sfLen q, false)]

/-- SCOLL.max (22 R283). -/
def execScollMax (d a : BitVec 3) (s : State) : Out := finish s (scoll d a collMax s)
/-- SCOLL.smp (22 R283). -/
def execScollSmp (d a : BitVec 3) (u : BitVec 6) (s : State) : Out := finish s (scoll d a (collSmp (bits (s.rx u).toNat 31 0)) s)

/-- The digest of a soft vector's bytes (22 R284). -/
def softDigest (fmt : Nat) (bytes : List Byte) : Nat := natOfBytes (Keccak.shake256 8 (.ofNat 8 fmt :: bytes))

/-- The descriptor with DV set. -/
def setDv (d : BitVec 128) : BitVec 128 := d ||| (1#128 <<< 19)

/-- SDIG (22 R284). -/
def execSdig (d : BitVec 6) (a : BitVec 3) (s : State) : Out := finish s (do
  s.computeOnly
  s.softFree a
  s.room .C
  let r := s.rs a
  let q := r.desc.toNat
  require (sfKind q != 0) s.illegal
  if sfKind q = 1 then s.issueSoft .C (.sdig d (.ofNat 64 (sfTok q)) a r) []
  else do
    let v ← s.padRead (sfOff q) (sfBytes q)
    let g := softDigest (if sfKind q = 2 then sfFmt q else 0) (bytesOf (sfBytes q) v)
    s.issueSoft .C (.sdig d (.ofNat 64 g) a ⟨setDv r.desc, .ofNat 64 g⟩) [(sfOff q, sfBytes q, false)])

/-! ### The position log -/

/-- ABASE (22 R285). -/
def logBase (limit : Nat) : Nat := (64 + 32 * limit + 63) / 64 * 64

/-- The kinds a log capability may not have (22 R285). -/
def logKinds : List Nat := [1, 2, 5]

/-- The header of a log, with its fields (22 R285). -/
structure LogHead where
  next   : Nat
  limit  : Nat
  used   : Nat
  alimit : Nat

/-- The fields of a log's header. -/
def logHead (h : Nat) : LogHead := ⟨bits h 63 0, bits h 127 64, bits h 191 128, bits h 255 192⟩

/-- A log record (22 R285). -/
def logRecord (count aoff fmt token pos kind ply spec : Nat) : Nat :=
  count % 2 ^ 32 * 2 ^ 192 + aoff % 2 ^ 48 * 2 ^ 144 + fmt % 256 * 2 ^ 136 + token % 2 ^ 64 * 2 ^ 64 + pos % 2 ^ 40 * 2 ^ 24 +
    kind % 16 * 2 ^ 20 + ply % 256 * 2 ^ 12 + spec % 2

/-- SLOG (22 R286): the reservation is made while the slot stalls, the header's reserved bits written as zero (00 R8); the
bytes and the record follow. -/
def slog (a : BitVec 3) (c : BitVec 4) (x : BitVec 6) (s : State) : Res := do
  s.computeOnly
  s.softFree a
  s.room .C
  let r := s.rs a
  let q := r.desc.toNat
  require (sfKind q != 0) s.illegal
  let cap := s.rc c
  let hs ← s.access cap rmwRights cap.off 64 64 logKinds true
  s.syncCommand
  let h := logHead (s.readNat hs)
  let b := sfBytes q
  let ao := (h.used + 63) / 64 * 64
  require (h.next != h.limit && decide (ao + b ≤ h.alimit)) (capTrap subBounds cap.off)
  let at_ := logBase h.limit + ao
  s.checkCap cap rmwRights (cap.off + 64 + 32 * h.next : Nat) 32
  if b != 0 then s.checkCap cap rmwRights (cap.off + at_ : Nat) b
  let v ← s.padRead (sfOff q) b
  let bytes := bytesOf b v
  let fresh := decide (2 ≤ sfKind q) && sfDv q == 0
  let g := if fresh then softDigest (if sfKind q = 2 then sfFmt q else 0) bytes else r.dig.toNat
  let r' : Soft := if fresh then ⟨setDv r.desc, .ofNat 64 g⟩ else r
  let text := sfKind q == 1
  let record := logRecord (if text then 1 else sfLen q) (if text then 0 else at_) (if sfKind q = 2 then sfFmt q else 0)
    (if text then sfTok q else g) (bits (s.rx x).toNat 39 0) (if text && sfCol q == 1 then 4 else sfKind q) (sfPly q) (sfSpec q)
  let t ← s.issueSoft .C (.slog a r' cap at_ h.next bytes (bytesOf 32 record)) [(sfOff q, b, false)]
  .ok (t.writeSegs hs (bytesOf 64 (setBits (setBits (s.readNat hs % 2 ^ 256) 63 0 (h.next + 1)) 191 128 (ao + b))))

/-- SLOG (22 R286). -/
def execSlog (a : BitVec 3) (c : BitVec 4) (x : BitVec 6) (s : State) : Out := finish s (slog a c x s)

/-- Fields of a log record (22 R285). -/
def lrKind (r : Nat) : Nat := bits r 23 20
def lrPly (r : Nat) : Nat := bits r 19 12
def lrTok (r : Nat) : Nat := bits r 127 64
def lrFmt (r : Nat) : Nat := bits r 143 136
def lrAoff (r : Nat) : Nat := bits r 191 144
def lrCount (r : Nat) : Nat := bits r 223 192

/-- The stored bytes of a record (22 R287). -/
def lrBytes (r : Nat) : Nat := if lrKind r = 2 then lrCount r * sfmtSize (lrFmt r) else if lrKind r = 3 then 8 * lrCount r else 0

/-- A record that SREPLAY accepts, its stored bytes within the arena (22 R287). -/
def lrOk (h : LogHead) (r : Nat) : Bool :=
  decide (1 ≤ lrKind r) && decide (lrKind r ≤ 4) && decide (lrPly r ≤ 31) &&
  (if lrKind r = 1 ∨ lrKind r = 4 then bits r 127 96 == 0
   else
    (if lrKind r = 2 then sfmtSize (lrFmt r) != 0 && decide (1 ≤ lrCount r) && decide (lrCount r ≤ 4096) else decide (lrCount r ≤ 16)) &&
    decide (logBase h.limit ≤ lrAoff r) && decide (lrAoff r + lrBytes r ≤ logBase h.limit + h.alimit))

/-- A replay trap (22 R287). -/
def replayTrap (n : Nat) : Stop := .trap 6 0 (.ofNat 64 n)

/-- SREPLAY (22 R287). -/
def sreplay (d : BitVec 3) (c : BitVec 4) (x : BitVec 6) (s : State) : Res := do
  s.computeOnly
  s.softFree d
  s.room .C
  let cap := s.rc c
  let n := bits (s.rx x).toNat 31 0
  let hs ← s.access cap { rd := true } cap.off 64 64 logKinds false
  s.syncCommand
  let h := logHead (s.readNat hs)
  require (decide (n < h.next)) (capTrap subBounds n)
  let rs ← s.access cap { rd := true } (cap.off + 64 + 32 * n : Nat) 32 1 [] false
  let r := s.readNat rs
  require (lrOk h r) (replayTrap n)
  let q := (s.rs d).desc.toNat
  if lrKind r = 1 ∨ lrKind r = 4 then
    s.issueSoft .C (.soft d ⟨softDesc (lrTok r) 1 0 (sfOff q) (sfSeq q) (lrPly r) (r % 2) 0 (if lrKind r = 4 then 1 else 0) 1, 0⟩ 0 []) []
  else do
    let b := lrBytes r
    let bytes ← if b = 0 then .ok [] else (do
      let g ← s.access cap { rd := true } (cap.off + lrAoff r : Nat) b 1 [] false
      .ok (s.readSegs g))
    require (softDigest (if lrKind r = 2 then lrFmt r else 0) bytes == lrTok r) (replayTrap n)
    require (sfOff q % 64 == 0 && decide (sfOff q + b ≤ softLimit)) (replayTrap n)
    s.issueSoft .C (.soft d ⟨softDesc 0 (lrCount r) (lrFmt r) (sfOff q) (sfSeq q) (lrPly r) (r % 2) 1 0 (lrKind r), .ofNat 64 (lrTok r)⟩ (sfOff q) bytes)
      [(sfOff q, b, true)]

/-- SREPLAY (22 R287). -/
def execSreplay (d : BitVec 3) (c : BitVec 4) (x : BitVec 6) (s : State) : Out := finish s (sreplay d c x s)

/-! ### The splice tree -/

/-- A key list operand checked (22 R288): its offset and its count. -/
def keyList (x : XWord) : Except Stop (Nat × Nat) := do
  let p := bits x.toNat 21 0
  let n := bits x.toNat 47 32
  require (p % 8 == 0) (capTrap subAlign p)
  require (decide (1 ≤ n) && decide (n ≤ 4096)) (capTrap subBounds n)
  require (decide (p + 8 * n ≤ softLimit)) (capTrap subBounds p)
  .ok (p, n)

/-- No node (22 R289). -/
def noNode : Nat := 0xFFFFFFFF

/-- Where node i lies (22 R289). -/
def nodeOff (i : Nat) : Nat := 64 + 576 * i

/-- Bytes of a tree read, within its capability. -/
def State.treeRead (s : State) (sid i : Nat) (c : Cap) (off n : Nat) : Except KErr Nat :=
  if inBounds c (c.off + off : Nat) n then s.gread sid i c (c.off + off) n else .error (.bad 2 (c.off + off))

/-- Bytes of a tree written, within its capability. -/
def State.treeWrite (s : State) (sid i : Nat) (c : Cap) (off n v : Nat) : Except KErr State :=
  if inBounds c (c.off + off : Nat) n then s.gwrite sid i c (c.off + off) n v else .error (.bad 2 (c.off + off))

/-- The head of node k; a link at or above NNODES stops the command (22 R289). -/
def State.nodeHead (s : State) (sid i : Nat) (c : Cap) (nn k : Nat) : Except KErr Nat :=
  if nn ≤ k then .error (.bad 7 (c.off + nodeOff k)) else s.treeRead sid i c (nodeOff k) 64

/-- Fields of a node's head (22 R289). -/
def nhChild (h : Nat) : Nat := bits h 63 32
def nhNext (h : Nat) : Nat := bits h 95 64
def nhFill (h : Nat) : Nat := bits h 102 96
def nhSeq (h : Nat) : Nat := bits h 151 128
def nhBlk (h : Nat) : Nat := bits h 175 152

/-- A tree's header and a node's head as they are written: reserved bits are zero (00 R8). -/
def treeHeader (h : Nat) : Nat := h % 2 ^ 96
def nodeHeader (h : Nat) : Nat := bits h 102 0 + bits h 175 128 * 2 ^ 128

/-- Leading entries that agree. -/
def agree : List Nat → List Nat → Nat
  | a :: as, b :: bs => if a = b then agree as bs + 1 else 0
  | _, _ => 0

/-- Where a walk stands or stopped (22 R290): the position, the handles, the parent, and the best child so far with its
count of equal keys and its head. -/
structure TreeWalk where
  pos     : Nat
  handles : List Nat
  cur     : Option Nat
  best    : Option (Nat × Nat × Nat)

/-- A node's handle as R290 writes it. -/
def handleWord (bl h : Nat) : Nat := bl % 128 * 2 ^ 48 + nhBlk h * 2 ^ 24 + nhSeq h

/-- The walk of R290 at node k, with fuel for the links that may be followed (22 R289). -/
def State.treeSteps (s : State) (sid i : Nat) (c : Cap) (nn : Nat) (keys : List Nat) : Nat → Nat → TreeWalk → Except KErr TreeWalk
  | 0, k, _ => .error (.bad 7 (c.off + nodeOff k))
  | fuel + 1, k, w => do
    let h ← s.nodeHead sid i c nn k
    let m := min (nhFill h) (keys.length - w.pos)
    let v ← if m = 0 then .ok 0 else s.treeRead sid i c (nodeOff k + 64) (8 * m)
    let l := agree (entries v 0 64 m) (keys.drop w.pos)
    let old := match w.best with | some b => b.2.1 | none => 0
    let w' := if old < l then { w with best := some (k, l, h) } else w
    if nhNext h ≠ noNode then s.treeSteps sid i c nn keys fuel (nhNext h) w'
    else match w'.best with
      | none => .ok w'
      | some (b, bl, bh) =>
        let u : TreeWalk := { w' with pos := w'.pos + bl, handles := w'.handles ++ [handleWord bl bh] }
        if bl < 64 then .ok u
        else if nhChild bh = noNode then .ok { u with cur := some b, best := none }
        else s.treeSteps sid i c nn keys fuel (nhChild bh) { u with cur := some b, best := none }

/-- The walk of a key list from the root (22 R290). -/
def State.treeWalk (s : State) (sid i : Nat) (c : Cap) (hdr : Nat) (keys : List Nat) : Except KErr TreeWalk :=
  let w : TreeWalk := ⟨0, [], none, none⟩
  if bits hdr 63 32 = noNode then .ok w else s.treeSteps sid i c (bits hdr 31 0) keys (bits hdr 31 0) (bits hdr 63 32) w

/-- The kinds a tree capability may not have (22 R289). -/
def treeKinds : List Nat := [1, 2, 3, 5]

/-- A command that stops while it issues (10 R154). -/
def State.issueStopped (s : State) (unit cause off : Nat) : State :=
  let t := s.issueOp .C (.stopped [] []) []
  match t.me.ops.getLast? with
  | some o => t.stopMessage s.me.id o unit cause off 0 0
  | none => t

/-- SPLFIND (22 R290). -/
def splfind (d : BitVec 6) (c : BitVec 4) (x : BitVec 6) (s : State) : Res := do
  s.computeOnly
  s.room .C
  let (p, n) ← keyList (s.rx x)
  let cap := s.rc c
  let hs ← s.access cap { rd := true } cap.off 64 64 treeKinds false
  s.syncCommand
  let kv ← s.padRead p (8 * n)
  match s.unspilled.treeWalk s.me.id s.me.iface cap (s.readNat hs) (entries kv 0 64 n) with
  | .ok w => do
    let k := w.handles.length
    require (decide (p + 8 * n + 8 * k ≤ softLimit)) (capTrap subBounds p)
    s.issueSoft .C (.splfind d (p + 8 * n) (bytesOf (8 * k) (packWords 64 w.handles)) w.pos) [(p, 8 * n, false), (p + 8 * n, 8 * k, true)]
  | .error (.absent oid off) => .error (.park (.page s.me.iface oid off (.ofNat 64 off)))
  | .error (.bad k off) => .ok (s.issueStopped 6 k off)
  | .error _ => .ok (s.issueStopped 6 4 cap.off)

/-- SPLFIND (22 R290). -/
def execSplfind (d : BitVec 6) (c : BitVec 4) (x : BitVec 6) (s : State) : Out := finish s (splfind d c x s)

/-- SPLINS (22 R291). -/
def execSplins (c : BitVec 4) (a b : BitVec 6) (s : State) : Out := finish s (do
  s.computeOnly
  s.room .C
  let (p, n) ← keyList (s.rx a)
  let cap := s.rc c
  let _ ← s.access cap ⟨true, true, false, false⟩ cap.off 64 64 treeKinds false
  s.syncCommand
  let _ ← s.padRead p (8 * n)
  s.issueSoft .C (.splins cap p n (bits (s.rx b).toNat 23 0) (bits (s.rx b).toNat 47 24)) [(p, 8 * n, false)])

/-- An unresolvable fault of a step stops the command with what it has done. -/
def keepDone {α : Type} (s : State) : Except KErr α → Except KErr α
  | .error (.bad k off) => .error (.stopAt s k off)
  | r => r

/-- The last child of a list found, and the new node linked after it (22 R291); fuel for the links. -/
def State.linkLast (s : State) (sid i : Nat) (c : Cap) (nn node : Nat) : Nat → Nat → Except KErr State
  | 0, k => .error (.bad 7 (c.off + nodeOff k))
  | fuel + 1, k => do
    let h ← s.nodeHead sid i c nn k
    if nhNext h = noNode then s.treeWrite sid i c (nodeOff k) 64 (nodeHeader (setBits h 95 64 node))
    else s.linkLast sid i c nn node fuel (nhNext h)

/-- A node linked at the end of a parent's child list (22 R291 step 3). -/
def State.linkNode (s : State) (sid i : Nat) (c : Cap) (nn : Nat) (cur : Option Nat) (node : Nat) : Except KErr State :=
  match cur with
  | none => do
    let hdr ← s.treeRead sid i c 0 64
    if bits hdr 63 32 = noNode then s.treeWrite sid i c 0 64 (treeHeader (setBits hdr 63 32 node))
    else s.linkLast sid i c nn node nn (bits hdr 63 32)
  | some k => do
    let h ← s.nodeHead sid i c nn k
    if nhChild h = noNode then s.treeWrite sid i c (nodeOff k) 64 (nodeHeader (setBits h 63 32 node))
    else s.linkLast sid i c nn node nn (nhChild h)

/-- New nodes for the keys from q on (22 R291 steps 3 and 4), with fuel for their number. -/
def State.addNodes (s : State) (sid i : Nat) (c : Cap) (nn seq block : Nat) (keys : List Nat) : Nat → Option Nat → Nat → Except KErr State
  | 0, _, _ => .ok s
  | fuel + 1, cur, q =>
    if keys.length ≤ q then .ok s else do
      let t ← keepDone s (do
        let hdr ← s.treeRead sid i c 0 64
        let f := bits hdr 95 64
        if f = noNode then .error (.bad 8 c.off) else do
          let fh ← s.nodeHead sid i c nn f
          let ks := (keys.drop q).take 64
          let a ← s.treeWrite sid i c 0 64 (treeHeader (setBits hdr 95 64 (nhNext fh)))
          let head := cur.getD noNode + noNode * 2 ^ 32 + noNode * 2 ^ 64 + ks.length * 2 ^ 96 + seq * 2 ^ 128 + (block + q / 64) % 2 ^ 24 * 2 ^ 152
          let b ← a.treeWrite sid i c (nodeOff f) 64 head
          let d ← b.treeWrite sid i c (nodeOff f + 64) (8 * ks.length) (packWords 64 ks)
          let e ← d.linkNode sid i c nn cur f
          .ok (e, f))
      t.1.addNodes sid i c nn seq block keys fuel (some t.2) (q + 64)

/-- SPLINS performed (22 R291). -/
def State.splinsRun (s : State) (sid i : Nat) (c : Cap) (p n seq block : Nat) : Except KErr State := do
  let keys := entries (s.readNat [padSeg (sid / 128) p (8 * n)]) 0 64 n
  let hdr ← s.treeRead sid i c 0 64
  let nn := bits hdr 31 0
  let w ← s.treeWalk sid i c hdr keys
  if w.pos = n then .ok s else
  match w.best with
  | some (k, bl, h) =>
    if bl = nhFill h ∧ bl < 64 ∧ nhSeq h = seq ∧ nhBlk h = (block + w.pos / 64) % 2 ^ 24 then do
      let ks := (keys.drop w.pos).take (64 - bl)
      let a ← s.treeWrite sid i c (nodeOff k + 64 + 8 * bl) (8 * ks.length) (packWords 64 ks)
      let b ← a.treeWrite sid i c (nodeOff k) 64 (nodeHeader (setBits h 102 96 (bl + ks.length)))
      b.addNodes sid i c nn seq block keys 65 (some k) (w.pos + ks.length)
    else s.addNodes sid i c nn seq block keys 65 w.cur (64 * (w.pos / 64))
  | none => s.addNodes sid i c nn seq block keys 65 w.cur (64 * (w.pos / 64))

/-- SPLREF (22 R292). -/
def execSplref (a b : BitVec 6) (s : State) : Out := finish s (do
  s.computeOnly
  s.room .C
  let ar ← s.arena
  let t := (s.rx a).toNat
  let h := (s.rx b).toNat
  .ok (s.issueOp .C (.splref (bits t 23 0) (bits t 47 24) (bits t 63 63 == 1) (bits h 23 0) (bits h 47 24) ar) []))

/-- SPLREF's action for a layer (22 R292). -/
def State.splrefLayer (s : State) (sid : Nat) (o : Op) (seq block : Nat) (release : Bool) (hseq hblk : Nat) (ar : Arena) (l : Nat) :
    Except KErr State := do
  let key := kvKey seq l block
  let (t, hit) ← s.kvLookup sid o.iface ar key
  if release then
    match hit with
    | some (off, e) => t.kvKill sid o.iface ar off e
    | none => .ok t
  else do
    let (u, src) ← t.kvLookup sid o.iface ar (kvKey hseq l hblk)
    match hit, src with
    | none, some (_, e) => do
      let w ← u.kvWalk sid o.iface ar key
      match u.kvPlace o.iface w with
      | none => .error (.bad 6 0)
      | some pl => do
        let n := key + keFrame e * 2 ^ 56 + keGen e * 2 ^ 96 + bitNat (keT e) * 2 ^ 108 + 2 ^ 110 + kePrec e * 2 ^ 119
        let x ← u.kvInsert sid o.iface ar pl n
        let c ← x.kvCount sid o.iface ar (keFrame e)
        x.kvSetCount sid o.iface ar (keFrame e) (c + 1)
    | _, _ => .ok u

/-- SPLREF performed: the layers in turn; those done before a stop stay done (22 R292). -/
def State.splrefRun (s : State) (sid : Nat) (o : Op) (seq block : Nat) (release : Bool) (hseq hblk : Nat) (ar : Arena) : Except KErr State :=
  foldE (fun (t : State) l => keepDone t (t.splrefLayer sid o seq block release hseq hblk ar l)) s (List.range 256)

/-! ### PLYCUT -/

/-- PLYCUT (22 R295). -/
def execPlycut (a : BitVec 6) (k : BitVec 5) (s : State) : Out := finish s (do
  s.computeOnly
  s.room .C
  .ok (s.issueOp .C (.plycut (bits (s.rx a).toNat 23 0) k.toNat) []))

/-- The arena that a cut acts on: none where the interface has none within the limits. -/
def State.cutArena (s : State) (sid i : Nat) : Except KErr (Option Arena) :=
  match s.arenaOid i with
  | none => .ok none
  | some oid => match s.gread sid i (arenaCap oid) 0 64 with
    | .ok v => .ok (if arenaOk v then some (arenaFields oid v) else none)
    | .error (.absent a b) => .error (.absent a b)
    | .error .busy => .error .busy
    | .error _ => .ok none

/-- PLYCUT performed (22 R295). -/
def State.plycutRun (s : State) (sid : Nat) (o : Op) (seq k : Nat) : Except KErr State := do
  let ar ← s.cutArena sid o.iface
  match ar with
  | none => if s.appending o.iface seq k o.id then .error .busy else .ok (s.cutUnits o.iface seq k o.id)
  | some a => s.cut sid o.iface a seq k o.id

/-! ### What they do when they are performed -/

/-- A soft-register result (22 R279, R356). -/
def State.softResult (s : State) (sid : Nat) (o : Op) (live : Bool) (d : BitVec 3) (r : Soft) : State :=
  if !live then s else
  let r' : Soft := if o.cuts.any fun c => c.2.2 || r.cutBy c.1 c.2.1 then ⟨0, 0⟩ else r
  s.onSlot sid fun sl => { sl with ctx := { sl.ctx with s := vset sl.ctx.s d.toNat r' } }

/-- Bytes of a core's scratchpad written. -/
def State.padWrite (s : State) (sid off : Nat) (bytes : List Byte) : State := s.writeSegs [padSeg (sid / 128) off bytes.length] bytes

/-- SLOG's bytes and record written (22 R286); bytes that are written stay so where the record meets an unresolvable fault
(10 R154). -/
def State.slogRun (s : State) (sid : Nat) (o : Op) (live : Bool) (a : BitVec 3) (r : Soft) (log : Cap) (aoff n : Nat)
    (bytes record : List Byte) : Except KErr State := do
  let t ← if bytes.isEmpty then .ok s else s.gwrite sid o.iface log (log.off + aoff) bytes.length (natOfBytes bytes)
  let u ← keepDone t (t.gwrite sid o.iface log (log.off + 64 + 32 * n) 32 (natOfBytes record))
  .ok (u.softResult sid o live a r)

/-- An operation of major 0x7C performed. -/
def State.performSoft (s : State) (sid : Nat) (o : Op) (live : Bool) : State :=
  match o.task with
  | .smix d r off bytes => ((s.padWrite sid off bytes).softResult sid o live d r).dropOp sid o.id
  | .soft d r off bytes => ((s.padWrite sid off bytes).softResult sid o live d r).dropOp sid o.id
  | .sdig d v a r => ((s.deposit sid live (.x d v)).softResult sid o live a r).dropOp sid o.id
  | .slog a r log aoff n bytes record => s.settle sid o 1 (s.taken sid o.id 0 fun t => t.slogRun sid o live a r log aoff n bytes record)
  | .splfind d off bytes pos => ((s.padWrite sid off bytes).deposit sid live (.x d (.ofNat 64 pos))).dropOp sid o.id
  | .splins c p n seq block => s.settle sid o 6 (s.taken sid o.id 0 fun t => t.splinsRun sid o.iface c p n seq block)
  | .splref seq block release hseq hblk ar => s.settle sid o 5 (s.taken sid o.id 0 fun t => t.splrefRun sid o seq block release hseq hblk ar)
  | .plycut seq k => s.settle sid o 5 (s.taken sid o.id 0 fun t => t.plycutRun sid o seq k)
  | _ => s

end Sys2Proof.Machine
end

