-- ==== Sys2Proof/Machine/Sys.lean ====
section
/-! DEFINITION. The system instructions of major 0x7E and the words that are no instruction (26 R305-R322, 07 R92, R107). -/

namespace Sys2Proof.Machine

/-- TRAP (26 R317): cause 9; TPC is the next word. -/
def execTrap (i : BitVec 16) (s : State) : Out := .next (s.takeTrap s.me.id ⟨9, 0, i.zeroExtend 64, s.me.ctx.pc + 4, false⟩)

/-- BRK (26 R317): cause 8; TPC is its own word. -/
def execBrk (i : BitVec 16) (s : State) : Out := finish s (.error (.trap 8 0 (i.zeroExtend 64)))

/-- A word that decodes to no instruction (07 R107). -/
def execIllegalWord (w : Word) (s : State) : Out := finish s (.error (.trap 1 0 (w.zeroExtend 64)))

/-- ERET (26 R318): once the level's counts are zero and its results are visible; one that restarts the continuation waits
while the ring of its queue is full (03 R40, 26 R313). -/
def execEret (s : State) : Out := finish s (do
  require (!s.task) s.privilege
  require (s.me.quiet && s.me.pend.isEmpty) (.park .eret)
  let die := s.me.id / 16384
  let prio := s.me.restart.prio
  require (!s.me.bank.wd || s.me.steward.isSome || !s.ringFull die prio) (.park (.ring die prio))
  .ok ((s.issuedTo s.me.ctx.pc).eret s.me.id))

/-- SLOTID (02 R20). -/
def State.slotId (s : State) : XWord :=
  .ofNat 64 (s.me.id + (if s.module.dom then 2 ^ 26 + s.module.dev % 1024 * 2 ^ 16 else 0))

/-- A register that task mode may not reach (26 R307). -/
def superReg (r : Nat) : Bool := r != 0 && r != 1 && r != 0x13

/-- The value of a system register (07 R92, 26 R306); none for a number that names none. -/
def State.sysReg (s : State) (r : Nat) : Option XWord :=
  let b := s.me.bank
  if r = 0 then some s.slotId
  else if r = 1 then some (.ofNat 64 s.time)
  else if r = 0x10 then some (b.tpc.zeroExtend 64)
  else if r = 0x11 then some (b.cause.zeroExtend 64)
  else if r = 0x12 then some b.val
  else if r = 0x13 then some s.me.tstat
  else if r = 0x14 then some (s.iface s.me.iface).tbase
  else if 0x18 ≤ r ∧ r ≤ 0x1B then some (vget s.me.tk (r - 0x18) 0)
  else none

/-- The bank of the current level replaced. -/
def Slot.setBank (sl : Slot) (b : Bank) : Slot := if 2 ≤ sl.lvl then { sl with bank2 := b } else { sl with bank1 := b }

/-- A write to a system register (26 R306, R319): reserved bits are discarded. -/
def State.writeSys (s : State) (r : Nat) (v : XWord) : State :=
  let sl := s.me
  let b := sl.bank
  if r = 0x10 then { s with me := sl.setBank { b with tpc := v.truncate 48 } }
  else if r = 0x11 then { s with me := sl.setBank { b with cause := v.truncate 12 } }
  else if r = 0x12 then { s with me := sl.setBank { b with val := v } }
  else if r = 0x13 then { s with me := sl.writeTstat v }
  else if r = 0x14 then s.setIface sl.iface { s.iface sl.iface with tbase := v &&& 0xFFFFFFFFFC00 }
  else { s with me := { sl with tk := vset sl.tk (r - 0x18) v } }

/-- MFS (26 R319): a 2-cycle result without a push. -/
def execMfs (d : BitVec 6) (r : BitVec 12) (s : State) : Out := finish s (do
  match s.sysReg r.toNat with
  | none => .error s.illegal
  | some v => do
    require (!(s.task && superReg r.toNat)) s.privilege
    .ok (s.produce 2 (.x d v) false))

/-- MTS (26 R319): it applies to the next instruction that issues. -/
def execMts (a : BitVec 6) (r : BitVec 12) (s : State) : Out := finish s (do
  require (decide (2 ≤ r.toNat) && (s.sysReg r.toNat).isSome) s.illegal
  require (!(s.task && superReg r.toNat)) s.privilege
  .ok (s.issued.writeSys r.toNat (s.rx a)))

/-- IDLE (26 R320): parked for 64 cycles of the core's clock or until a pre-emption request. -/
def execIdle (s : State) : Out := .next (s.issuedPark (.idle (s.clockOf s.core.id + 64)))

/-- The object a register names for OTINV and TLBINV (26 R321); none: every object of the interface. -/
def objectArg (x : XWord) : Option Nat := if x.getLsbD 63 then none else some (bits x.toNat 31 0)

/-- OTINV (26 R321). -/
def execOtinv (a : BitVec 6) (s : State) : Out := finish s (do
  require (!s.task) s.privilege
  s.room .C
  .ok (s.issueOp .C (.otinv (objectArg (s.rx a))) []))

/-- TLBINV (26 R322): die or package scope. -/
def execTlbinv (a : BitVec 6) (p : BitVec 3) (s : State) : Out := finish s (do
  require (p == 1 || p == 2) s.illegal
  require (!s.task) s.privilege
  s.room .C
  .ok (s.issueOp .C (.tlbinv (objectArg (s.rx a)) (p == 2)) []))

/-- OTINV performed: cached entries are dropped at every port (26 R321). -/
def State.dropObjects (s : State) (i : Nat) (oid : Option Nat) : State :=
  { s with objects := s.objects.filter fun p => !(p.1 / 2 ^ 32 == i && (match oid with | some o => p.1 % 2 ^ 32 == o | none => true)) }

/-- TLBINV performed (26 R322). -/
def State.dropTlb (s : State) (i die : Nat) (oid : Option Nat) (pkg : Bool) : State :=
  { s with tlb := s.tlb.filter fun t =>
      !(t.iface == i && (pkg || t.die == die) && (match oid with | some o => t.oid == o | none => true)) }

end Sys2Proof.Machine
end

