-- ==== Sys2Proof/Machine/Perform.lean ====
section
/-! DEFINITION. The completion of long operations (03 R58). -/

namespace Sys2Proof.Machine

/-- The operation leaves its class with a register result (03 R58). -/
def State.finishReg (s : State) (sid : Nat) (o : Op) (live : Bool) (w : RegWrite) : State := (s.deposit sid live w).dropOp sid o.id

/-- The run that a BGRUN armed is over (17 R243, R250). -/
def State.runOver (s : State) (sid id : Nat) : Bool :=
  s.braids.all fun b => match b.run with
    | some r => !(r.slot == sid && r.op == id) || r.over
    | none => true

/-- BGFREE ends with the run: the braid's slots are free (17 R251). -/
def State.performBgfree (s : State) (sid : Nat) (o : Op) : State :=
  match s.braids.find? fun b => b.freeing == some (sid, o.id) with
  | none => s.dropOp sid o.id
  | some b =>
    if b.armed then s else
    ({ s with
      braids := s.braids.filter fun x => x.freeing != some (sid, o.id)
      gone := s.gone ++ [(b.die, b.handle, b.iface)] } : State).dropOp sid o.id

/-- A vector command or a tile command of class T performed (15 R222-R237). TZERO zeroes the whole tile, rows and block
positions beyond its TC's too (log 88). -/
def State.performTile (s : State) (sid : Nat) (o : Op) (live : Bool) : State :=
  match o.task with
  | .tld c t tc rows => s.performTld sid o live c t tc rows
  | .tst c t tc rows => s.storeRows sid o live c t tc rows
  | .tldn _ _ n _ => if n.armed then s else s.dropOp sid o.id
  | .tgemm _ _ _ _ _ n _ => if n.armed then s else s.dropOp sid o.id
  | .tmma a ta tb tca tcb => (s.setAcc sid a (mma (s.acc sid a) (s.tile sid ta) (s.tile sid tb) tca tcb)).dropOp sid o.id
  | .tarith fn d a b td ta tb rm sat =>
    (s.setTile sid d (tarithTile fn (s.tile sid d) (s.tile sid a) (s.tile sid b) td ta tb rm.toNat sat)).dropOp sid o.id
  | .tzero t _ => (s.setTile sid t Tile.zero).dropOp sid o.id
  | .azero a => (s.setAcc sid a Acc.zero).dropOp sid o.id
  | .tclaim a => (s.setAcc sid a Acc.zero).dropOp sid o.id
  | .rowmax v a => s.finishReg sid o live (.v v (ofLanes 16 ((List.range 128).map (rowMaxLane (s.acc sid a)))))
  | .rowsum v a =>
    (s.deposit sid live (.v v (ofLanes 32 ((List.range 64).map (rowSum (s.acc sid a)))))).finishReg sid o live
      (.v (v + 1) (ofLanes 32 ((List.range 64).map fun r => rowSum (s.acc sid a) (64 + r))))
  | .movv v a row => s.finishReg sid o live (.v v (vget (s.acc sid a).rows row 0))
  | .drain a route dest bar row => s.performDrain sid o live a route dest bar row
  | .tsave c ts tcs as left => s.performTsave sid o c ts tcs as left
  | .trest c ts as => s.performTrest sid o live c ts as
  | _ => s

/-- A command of class C performed, or its last unit found done. -/
def State.performCommand (s : State) (sid : Nat) (o : Op) (live : Bool) : State :=
  match o.task with
  | .launch lid => if s.startReady lid then (s.dropOp sid o.id).startLaunch lid sid else s
  | .copy _ _ todo stops _ _ => if todo.isEmpty && stops.isEmpty then s.dropOp sid o.id else s
  | .copyn n _ pts todo stop => if todo.isEmpty && (if stop.isSome then stop.all (·.sent) else !n.armed && pts.isEmpty) then s.dropOp sid o.id else s
  | .move _ _ _ todo stop _ => if todo.isEmpty && stop.all (·.sent) then s.dropOp sid o.id else s
  | .cred _ _ _ _ _ todo _ _ => if todo.isEmpty then s.dropOp sid o.id else s
  | .bgload d v => s.finishReg sid o live (.x d v)
  | .bgrun _ _ => if s.runOver sid o.id then s.dropOp sid o.id else s
  | .bgfree _ => s.performBgfree sid o
  | .bgstat h d => s.finishReg sid o live (.x d (.ofNat 64 (s.bgstatVal (sid / 16384) o.iface h)))
  | .attn _ _ => match s.pipes.find? fun p => p.job.slot == sid && p.job.op == o.id with
    | some p => if p.planned && p.blocks.isEmpty then s.performAttn o p else s
    | none => s
  | .otinv oid => (s.dropObjects o.iface oid).dropOp sid o.id
  | .tlbinv oid pkg => (s.dropTlb o.iface (tlbDie sid) oid pkg).dropOp sid o.id
  | _ => s

/-- What kind of work an operation is. -/
inductive Work where
  | access | vload | reduce | tile | command | attention | soft | gather | scatter | value | stopped | never
  deriving DecidableEq, Repr

/-- The work of a task. -/
def Task.work : Task → Work
  | .value _ _ => .value
  | .load _ _ _ _ | .loadCap _ _ _ | .store _ _ _ | .storeCap _ _ | .amo _ _ _ _ _ _ | .cas _ _ _ _ _ _ _
  | .binit _ _ | .barr _ _ => .access
  | .loadVec _ _ _ _ => .vload
  | .red _ _ _ _ => .reduce
  | .gather _ _ _ _ => .gather
  | .scatter _ _ _ _ _ => .scatter
  | .launchWait _ => .never
  | .launch _ | .copy _ _ _ _ _ _ | .copyn _ _ _ _ _ | .move _ _ _ _ _ _ | .cred _ _ _ _ _ _ _ _ | .bgload _ _ | .bgrun _ _ | .bgfree _
  | .bgstat _ _ | .attn _ _ | .otinv _ | .tlbinv _ _ => .command
  | .tld _ _ _ _ | .tst _ _ _ _ | .tldn _ _ _ _ | .tgemm _ _ _ _ _ _ _ | .tmma _ _ _ _ _ | .tarith _ _ _ _ _ _ _ _ _ | .tzero _ _
  | .azero _ | .tclaim _ | .rowmax _ _ | .rowsum _ _ | .movv _ _ _ | .drain _ _ _ _ _ | .tsave _ _ _ _ _ | .trest _ _ _ => .tile
  | .amerge _ _ _ _ _ _ _ | .summ _ _ _ _ _ _ | .kvapp _ _ _ _ _ | .kvmap _ _ _ | .kvshoot _ _ _ => .attention
  | .smix _ _ _ _ | .soft _ _ _ _ | .sdig _ _ _ _ | .slog _ _ _ _ _ _ _ | .splfind _ _ _ _ | .splins _ _ _ _ _ | .splref _ _ _ _ _ _
  | .plycut _ _ => .soft
  | .stopped _ _ => .stopped

/-- KVSHOOT, OTINV and TLBINV wait for the slot's earlier stores, KVSHOOT for atomics too (19 R277, 26 R321, R322). -/
def State.storesDone (s : State) (sid : Nat) (o : Op) (live : Bool) : Bool :=
  let before := opsBefore o.id (s.opsOf sid live)
  match o.task with
  | .kvshoot _ _ _ => !before.any shootWaits
  | .otinv _ | .tlbinv _ _ => !before.any fun x => x.cls == .S
  | _ => true

/-- An operation performed: its effect, and it leaves its class; one that is not ready stays as it is. An access translated
before its frame was lost with a port fails, with a message (28 R334; log 65). -/
def State.perform (s : State) (sid : Nat) (o : Op) (live : Bool) : State :=
  match o.task.work with
  | .access => match s.lost o.task.segs with
    | none => (s.performAccess sid live o.task).dropOp sid o.id
    | some off => (s.dropOp sid o.id).stopMessage sid o 1 11 off 0 0
  | .vload => match o.task with | .loadVec c off segs v => s.performVld sid o live c off segs v | _ => s
  | .reduce => match o.task with | .red c op ord vs => s.redRun sid o c op ord [] vs | _ => s
  | .gather => match o.task with | .gather c offs et v => s.performGather sid o live c offs et v | _ => s
  | .scatter => match o.task with | .scatter c es et add part => s.scatterRun sid o live c et add part es | _ => s
  | .value => match o.task with | .value d v => s.finishReg sid o live (.x d v) | _ => s
  | .tile => s.performTile sid o live
  | .command => s.performCommand sid o live
  | .attention => s.performAttention sid o live
  | .soft => s.performSoft sid o live
  | .stopped => s.stopOp sid o.id
  | .never => s

/-- The element of a stream that is read in stream order which a name names, as it is read now: its value and the D bit of its
page (10 R152, R153). None for another operation. -/
def State.streamRead (s : State) (sid : Nat) (o : Op) (key : Nat) : Option (UnitRes (Bool × Nat)) :=
  let elem (els : List Elem) : Option (UnitRes (Bool × Nat)) := (els.find? (·.key == key)).map (s.readElem sid o.iface)
  let nest (rows : List NestRow) : Option (UnitRes (Bool × Nat)) := (rows.find? (·.key == key)).map (s.readNest sid o.iface)
  match o.task with
  | .loadVec c off _ _ => elem (vldElems c off)
  | .gather c offs et _ => elem (gatherElems c offs et)
  | .tld c _ tc rows => elem (tldElems c tc rows)
  | .tldn _ tc n p => nest (tldnRows tc n p)
  | .tgemm _ _ _ ta tb n _ => nest (sweepRows ta tb n)
  | .trest c ts as => elem (areaElems c (pages c.off (saveSize ts.length as.length)))
  | _ => none

/-- An operation goes on from an element whose page is present: it performs that element and those after it that it can. -/
def State.resume (s : State) (e : Spill) (o : Op) (live : Bool) : State :=
  if s.present e.slot o.iface e.oid e.off && s.storesDone e.slot o live then (s.settleDue e.slot).perform e.slot o live else s

/-- An element in a spill queue performed (10 R152, R153). A unit of a copy-group command and an element of a braid or an A-pipe
is performed by itself; one that its consumer receives in stream order has been read, and is kept until its turn; any other is
performed in its operation's own order. -/
def State.spillElement (s : State) (e : Spill) (o : Op) (live : Bool) : State :=
  let unit (todo : List Piece) (f : Nat → State) : State :=
    match indexWhere (fun p => p.key == e.key) todo with | some i => f i | none => s
  match o.task with
  | .copy _ _ todo _ _ _ => unit todo (s.copyChunk e.slot o)
  | .copyn _ _ _ todo _ => unit todo (s.copynChunk e.slot o)
  | .move _ _ _ todo _ _ => unit todo (s.movePage e.slot o)
  | .cred _ _ _ _ _ todo _ _ => match indexWhere (fun g => g.g == e.key / 32) todo with
    | some i => if e.key % 32 = 30 then s.credResidual e.slot o i else s.credUnit e.slot o i
    | none => s
  | .bgrun _ _ => s.braidElement e.slot e.op e.key
  | .attn _ _ => match s.pipes.find? fun p => p.job.slot == e.slot && p.job.op == e.op with
    | none => s
    | some p =>
      if e.key ≠ 0 then (match indexWhere (fun b => b.key == e.key) p.blocks with | some i => s.mergeStep p i | none => s)
      else if p.planned then s.resume e o live
      else s.planPipe p
  | .stopped _ _ => if s.present e.slot o.iface e.oid e.off then s.undivert e.slot e.op e.key else s
  | _ => match s.streamRead e.slot o e.key with
    | some (.ok v) => s.holdVal e.slot e.op e.key v
    | some (.absent oid off) => s.requestPage (s.tableOf o.iface oid) oid off
    | some (.bad _ _) => s
    | none => s.resume e o live

/-- SPILL_ELEMENT_PERFORM (10 R152): the n-th entry of a port's queue. -/
def execSpillElementPerform (port n : Nat) (s : State) : Out :=
  match (s.spillQueue port)[n]? with
  | none => .next s
  | some e => match s.findOp e.slot e.op with
    | none => .next s
    | some (o, live) => if s.mayGo e.slot o live then .next (s.spillElement e o live) else .next s

/-- LONG_OP_COMPLETE (03 R58): an operation of a slot completes, once those it must follow have been performed. -/
def execLongOpComplete (slot op : Nat) (s : State) : Out :=
  match s.findOp slot op with
  | none => .next s
  | some (o, live) =>
    if s.mayGo slot o live && s.storesDone slot o live then .next ((s.settleDue slot).perform slot o live) else .next s

end Sys2Proof.Machine
end

