-- ==== Sys2Proof/Machine/Events.lean ====
section
/-! DEFINITION. Events at slots, pages and cores: results, walks, pre-emption, the watchdog, errors, holds and retirement
(02 R21-R25, 10 R150, R151, 26 R310-R320, 31 R355). -/

namespace Sys2Proof.Machine

/-- RESULT_VISIBLE (03 R56): the results due at the slot's core's cycle are applied. -/
def execResultVisible (slot : Nat) (s : State) : Out := .next (s.settleDue slot)

/-! ### Walks -/

/-- A stall ends. -/
def State.unblock (s : State) (sid : Nat) : State := s.onSlot sid fun sl => { sl with block := none }

/-- A stalled word's translation is unresolvable (10 R151): the trap is taken at it. -/
def State.walkTrap (s : State) (sid : Nat) (val : XWord) : State :=
  let t := s.unblock sid
  t.takeTrap sid ⟨4, 0, val, (t.slot sid).ctx.pc, false⟩

/-- A page request that has been served leaves the queue. -/
def State.clearRequest (s : State) (i oid off : Nat) : State :=
  if (s.iface i).requests.contains (oid, off) then
    s.setIface i { s.iface i with requests := (s.iface i).requests.erase (oid, off) }
  else s

/-- The object's entry is cached at the memory ports (10 R146). -/
def State.cacheObject (s : State) (i oid : Nat) (e : BitVec 256) : State :=
  { s with objects := mset s.objects (objKey i oid) e }

/-- A slot's stall goes on from what its walk finds (10 R150, R151): a leaf fills the TLB; a page that is not present is
asked for; anything else traps. -/
def State.walkSlot (s : State) (sid i oid off : Nat) (val : XWord) (e : BitVec 256) : State :=
  match s.walk e off with
  | .leaf l _ page =>
    (((s.cacheObject i oid e).tlbFill ⟨tlbDie sid, i, oid, page, l⟩).clearRequest i oid off).unblock sid
  | .absent => (s.onSlot sid fun sl => { sl with block := some (.page i oid off val) }).requestPage i oid off
  | .bad => s.walkTrap sid val

/-- The home device's answer to a kind-3 access (28 R331): the access is made again with the answer. -/
def State.homeAnswer (s : State) (sid oid off : Nat) (e : BitVec 256) : State :=
  match s.remote e oid off 1 false with
  | .absent => s.requestPage (oeRif e) oid off
  | _ => s.onSlot sid fun sl => { sl with block := none, grant := some (oid, off) }

/-- PAGE_WALK_RETURN (10 R150). -/
def execPageWalkReturn (slot : Nat) (s : State) : Out :=
  match (s.slot slot).block with
  | some (.walk i oid off val) => match s.objEntry i oid with
    | none => .next (s.walkTrap slot val)
    | some e =>
      if oeKind e = 3 then .next (s.homeAnswer slot oid off e)
      else .next (s.walkSlot slot i oid off val e)
  | _ => .next s

/-- PAGE_PRESENT_RESUME (10 R151). -/
def execPagePresentResume (slot : Nat) (s : State) : Out :=
  match (s.slot slot).block with
  | some (.page i oid off val) => match s.objEntry i oid with
    | none => .next (s.walkTrap slot val)
    | some e => match s.walk e off with
      | .absent => .next s
      | _ => .next (s.walkSlot slot i oid off val e)
  | _ => .next s

/-! ### Pre-emption and the watchdog -/

/-- The interface's watchdog interval in cycles of TIME: 1,400 in a microsecond (02 R24, 26 R312). -/
def State.dogInterval (s : State) (i : Nat) : Nat := s.dogUs i * 1400

/-- PREEMPTION_REQUEST (26 R312); one already pending stays as it is, and a slot that only keeps a restart state has no
continuation to be asked. -/
def execPreemptionRequest (slot : Nat) (s : State) : Out :=
  let sl := s.slot slot
  if sl.busy && sl.steward.isNone && !sl.pre && sl.block != some .restart then .next (s.onSlot slot fun sl => { sl with pre := true, dog := some (s.time + s.dogInterval sl.iface) })
  else .next s

/-- A COMMIT of the slot is ready to retire, and so it retires (26 R315): the expiry comes too late. -/
def State.retiring (s : State) (sid : Nat) : Bool :=
  let sl := (s.slot sid).deliver (s.coreAt (sid / 128)).cycle
  (match sl.block with | some (.commit _) => true | _ => false) && s.commitReady sl && sl.trapPend.isNone

/-- WATCHDOG_EXPIRY (26 R313): in a handler it is held for the return to level 0, and the second interval begins; at level 0 it
takes effect at once, and a trap that waits there for its drain gives way to the cause-10 trap (log 43). -/
def execWatchdogExpiry (slot : Nat) (s : State) : Out :=
  let sl := s.slot slot
  match sl.dog with
  | none => .next s
  | some t =>
    if s.time < t ∨ !sl.busy ∨ s.retiring slot then .next s else
    let u := s.onSlot slot fun sl => { sl with dog := none }
    if 1 ≤ sl.lvl then
      .next (u.onSlot slot fun sl => { sl with dogHeld := true, dogHand := some (s.time + s.dogInterval sl.iface) })
    else .next (u.expire slot)

/-- WATCHDOG_HANDLER_TIMEOUT (26 R313). -/
def execWatchdogHandlerTimeout (slot : Nat) (s : State) : Out :=
  let sl := s.slot slot
  match sl.dogHand with
  | none => .next s
  | some t => if s.time < t ∨ !sl.busy then .next s else .next (s.stewardRestart slot 18)

/-- MACHINE_ERROR (26 R310). -/
def execMachineError (slot : Nat) (s : State) : Out :=
  if (s.slot slot).busy then .next (s.stewardRestart slot 17) else .next s

/-- IDLE_WAKE (26 R320). -/
def execIdleWake (slot : Nat) (s : State) : Out :=
  let sl := s.slot slot
  match sl.block with
  | some (.idle n) => if sl.pre || decide (n < s.clockOf (slot / 128)) then .next (s.unblock slot) else .next s
  | _ => .next s

/-! ### Cores -/

/-- A continuation of a retired core begins again on the spare (02 R21). -/
def State.replace (s : State) (sid : Nat) : State :=
  let sl := s.slot sid
  let t := (s.leaveGroups sid).freeSlot sid
  match sl.restart with
  | .fresh r => t.place sid r sl.spawnj true
  | .saved v => t.placeSaved sid v sl.spawnj true

/-- The busy slots of a core. -/
def State.busySlots (s : State) (cid : Nat) : List Nat := (coreSids cid).filter fun k => (s.slot k).busy

/-- A spare's own storage: its scratchpad, tiles and accumulators. The current slot and the Y mark of the retired core stay
under its number; log 34. -/
def State.clearCore (s : State) (cid : Nat) : State :=
  let lo := scratchPa cid 0
  let t := s.setCore { s.coreAt cid with tiles := Vector.replicate 16 Tile.zero, accs := Vector.replicate 4 Acc.zero, hold := 0 }
  { t with mem := t.mem.without fun a => decide (lo ≤ a) && decide (a < lo + 2 ^ 22) }

/-- The first k records of a core's deque go to its die's queues, from the head on, as far as the rings have room (02 R22,
03 R40). -/
def State.handOver (s : State) (cid : Nat) : Nat → State
  | 0 => s
  | k + 1 => match (s.coreAt cid).deque with
    | [] => s
    | r :: rest => if s.ringFull (cid / 128) r.prio.toNat then s else
      ((s.setCore { s.coreAt cid with deque := rest }).enqueue (cid / 128) r.prio.toNat (.one r) [] false).handOver cid k

/-- A core that has no spare left (02 R22). Its running continuations are restarted first, in the order of its slots, and its
deque is handed over after them (log 79). -/
def State.dropCore (s : State) (cid : Nat) : State :=
  let t := (s.busySlots cid).foldl State.restart s
  (t.setCore { t.coreAt cid with absent := true }).handOver cid (t.coreAt cid).deque.length

/-- CORE_RETIRE (02 R21, R22): of a compute die; the capability list changes (28 R326). -/
def execCoreRetire (die core : Nat) (s : State) : Out :=
  let cid := die * 128 + core
  if 2 ≤ die ∨ 96 ≤ core ∨ (s.coreAt cid).absent then .next s
  else if vget s.module.spares die 0 = 0 then .next ((s.dropCore cid).note true)
  else
    let t := { s with module := { s.module with spares := vset s.module.spares die (vget s.module.spares die 0 - 1) } }
    .next (((t.busySlots cid).foldl State.replace (t.clearCore cid)).note true)

/-- The cores that exist (02 R13). -/
def coreOk (cid : Nat) : Bool := decide (cid / 128 < 3) && (dieCores (cid / 128)).contains cid

/-- POWER_HOLD (02 R25): a core issues nothing, and its die's A-pipes and fabric accept nothing, for whole cycles. -/
def execPowerHold (core cycles : Nat) (s : State) : Out :=
  if !coreOk core then .next s else
  let t := s.setCore { s.coreAt core with hold := (s.coreAt core).hold + cycles }
  .next { t with module := { t.module with
    engHold := vset t.module.engHold (core / 128) (max (vget t.module.engHold (core / 128) 0) (s.time + cycles)) } }

/-- THERMAL_HOLD (31 R355): a die above 105 degrees C gets holds on all its cores. -/
def execThermalHold (die cycles : Nat) (s : State) : Out :=
  if 3 ≤ die then .next s else
  let t := (dieCores die).foldl (fun u k => u.setCore { u.coreAt k with hold := (u.coreAt k).hold + cycles }) s
  .next { t with module := { t.module with
    hot := if t.module.hot.contains die then t.module.hot else t.module.hot ++ [die]
    engHold := vset t.module.engHold die (max (vget t.module.engHold die 0) (s.time + cycles)) } }

/-- DIE_TEMPERATURE_FALL (31 R355): no thermal holds are added any more. -/
def execDieTemperatureFall (die : Nat) (s : State) : Out :=
  .next { s with module := { s.module with hot := s.module.hot.filter (· != die) } }

/-- THERMAL_SHUTDOWN (31 R355): every interface stops, cause 17 goes to each fault ring, the dies are powered down. -/
def execThermalShutdown (s : State) : Out :=
  let ids := (s.ifaces.filter fun p => p.2.cfg.isSome).map (·.1)
  let t := ids.foldl (fun (u : State) i => (u.postFault i { unit := 7, cause := 17 }).setIface i
    { (u.postFault i { unit := 7, cause := 17 }).iface i with stopped := true }) s
  .next { t with module := { t.module with boot := .off } }

end Sys2Proof.Machine
end

