-- ==== Sys2Proof/Machine/Host.lean ====
section
/-! DEFINITION. The host's window and mailbox, links and tiers, module reset, firmware, attestation (28 R323-R334, 31 R353,
R354), and the loader (31 R348-R352). -/

namespace Sys2Proof.Machine

/-- An interface answers: its number exists, the module is up, and it has not been stopped (28 R323, 31 R353, R355). -/
def State.answers (s : State) (i : Nat) : Bool := decide (i < 128) && decide (s.module.boot = .open_) && !(s.iface i).stopped

/-- No launch of an interface is in progress (28 R324). -/
def State.launchFree (s : State) (i : Nat) : Bool :=
  !s.launches.any (fun p => p.2.iface == i) && !s.waiting.any (fun w => w.iface == i)

/-! ### Interfaces -/

/-- A configuration within the limits of 28 R324. -/
def cfgOk (c : IfaceCfg) : Bool :=
  decide (c.ceiling ≤ 15) && decide (10 ≤ c.watchdogUs) && decide (c.watchdogUs ≤ 100000) && decide (4096 ≤ c.joinCap) &&
  decide (c.joinCap ≤ 1048576) && decide (c.keyLo ≤ c.keyHi) && decide (c.keyHi < 4096) &&
  (!c.superCode.tag || c.superCode.ok) && (!c.superData.tag || c.superData.ok)

/-- The active cores of a compute die (02 R22). -/
def State.activeCores (s : State) (die : Nat) : Nat := ((dieCores die).filter fun k => !(s.coreAt k).absent).length

/-- The mask of the CXL ports that are up (28 R326). -/
def State.portMask (s : State) : Nat := ((List.range 16).filter fun p => !s.module.cxlDown.contains p).foldl (fun a p => a + 2 ^ p) 0

/-- Body 0x0001 of the capability list (28 R326), with the inlet temperature of 31 R355 in bytes 4-7; log 64. -/
def State.coresBody (s : State) : BitVec 128 :=
  .ofNat 128 (s.activeCores 0 + s.activeCores 1 * 2 ^ 8 + vget s.module.spares 0 0 * 2 ^ 16 + vget s.module.spares 1 0 * 2 ^ 24 +
    s.module.inlet % 2 ^ 32 * 2 ^ 32)

/-- Body 0x0002: the device ID and the lanes of each port, in nibbles. -/
def State.ndoedBody (s : State) : BitVec 128 :=
  .ofNat 128 ((if s.module.dom then s.module.dev % 2 ^ 16 else 0) +
    (List.range 18).foldl (fun a p => a + vget s.module.lanes p 0 % 16 * 2 ^ (16 + 4 * p)) 0)

/-- Body 0x0003: the CXL ports up and the second tier's capacity. -/
def State.cxlBody (s : State) : BitVec 128 := .ofNat 128 (s.portMask + s.module.cxlGiB % 2 ^ 32 * 2 ^ 32)

/-- Body 0x0004, an interface's own: its ceiling, its watchdog interval, its join table, each by default where it has not been
configured (28 R324, 03 R48; log 64), and the messages discarded. -/
def State.ifaceBody (s : State) (i : Nat) : BitVec 128 :=
  .ofNat 128 (s.ceiling i % 2 ^ 8 + s.dogUs i % 2 ^ 32 * 2 ^ 32 + s.joinCap i % 2 ^ 32 * 2 ^ 64 + (s.iface i).discarded.toNat * 2 ^ 96)

/-- A header of the capability list (28 R326): the feature, version 1, a body of one 16-byte unit, the next header. -/
def listHeader (id : Nat) : Nat := id + 2 ^ 16 + 2 ^ 24 + (if id < 4 then 0x100 + 32 * id else 0) * 2 ^ 32

/-- The capability list in BAR0, from 0x0100 on (28 R326). -/
def State.listBytes (s : State) (i : Nat) : List Byte :=
  ([s.coresBody, s.ndoedBody, s.cxlBody, s.ifaceBody i].zip [1, 2, 3, 4]).flatMap fun p =>
    bytesOf 16 (listHeader p.2) ++ bytesOf 16 p.1.toNat

/-- The changes of the capability list announced: for each, MSI-X vector 0 of each of the 128 interfaces (28 R326). -/
def State.publish (s : State) : State :=
  { s with module := { s.module with raised0 := s.module.raised0 + s.module.changes, changes := 0 } }

/-- CAPABILITY_LIST_UPDATE (28 R326): vector 0 of each interface is raised after every change of a body. -/
def execCapabilityListUpdate (s : State) : Out := .next s.publish

/-- An interface with a configuration; its body of the capability list may change with it (28 R326). -/
def State.configure (s : State) (i : Nat) (cfg : IfaceCfg) : State :=
  let t := s.setIface i { s.iface i with cfg := some cfg }
  t.note (t.ifaceBody i != s.ifaceBody i)

/-- INTERFACE_CONFIGURE (28 R324): only while the interface has no launch in progress. -/
def execInterfaceConfigure (iface : Nat) (cfg : IfaceCfg) (s : State) : Out :=
  if s.answers iface && s.launchFree iface && cfgOk cfg then .next (s.configure iface cfg) else .next s

/-- INTERFACE_RESET (03 R48): the join-table entries of waiting records are freed. -/
def execInterfaceReset (iface : Nat) (s : State) : Out :=
  .next { s with joins := s.joins.filter (·.iface != iface), gone := s.gone.filter fun g => g.2.2 != iface }

/-! ### BAR0 and BAR2 -/

/-- A byte of an interface's BAR0 as the host reads it (28 R323): the launch register is write-only and reads 0 (00 R7), and
so does what holds nothing. -/
def State.bar0Byte (s : State) (i off : Nat) : Byte :=
  if off < 0x40 then 0
  else if off < 0x48 then (bytesOf 8 (s.launchStatus i)).getD (off - 0x40) 0
  else if off < 0x100 then 0
  else if off < 0x1000 then (s.listBytes i).getD (off - 0x100) 0
  else if off < 0x1080 then (bytesOf 128 (s.iface i).msixTable.toNat).getD (off - 0x1000) 0
  else 0

/-- The host's answer to a read. -/
def State.answer (s : State) (i v : Nat) : State := s.setIface i { s.iface i with reads := v :: (s.iface i).reads }

/-- The host reads n bytes of BAR0. -/
def State.bar0Read (s : State) (i off n : Nat) : State :=
  if s.answers i then s.answer i (natOfBytes ((List.range n).map fun k => s.bar0Byte i (off + k))) else s

/-- The MSI-X table with bytes written from an offset of BAR0 on (28 R323). -/
def msixWrite (t : Nat) (off : Nat) (bytes : List Byte) : BitVec 1024 :=
  .ofNat 1024 (natOfBytes ((List.range 128).map fun k =>
    if off ≤ 0x1000 + k then bytes.getD (0x1000 + k - off) ((bytesOf 128 t).getD k 0) else (bytesOf 128 t).getD k 0))

/-- The host window object of an interface, of kind 0 (28 R324). -/
def State.windowCap (s : State) (i : Nat) : Option Cap :=
  match s.cfg i with
  | some c => match c.window with
    | some oid => let w := s.objCap i oid; if w.tag && w.kind == 0 then some w else none
    | none => none
  | none => none

/-- An access through BAR2 performed at the window object (28 R324), or the page, by object and offset, that is not present
and that it waits for. One that fails unresolvably has no effect (log 45). -/
def State.windowAccess (s : State) (i : Nat) (a : HostAccess) : Except (Nat × Nat) State :=
  match s.windowCap i with
  | none => .ok s
  | some c =>
    match s.stream 0 i c a.off (if a.data.isEmpty then a.n else a.data.length) (!a.data.isEmpty) with
    | .ok g => .ok (if a.data.isEmpty then s.answer i (s.readNat g) else s.writeSegs g a.data)
    | .error (f, .absent) => .error (c.obj, f)
    | .error _ => .ok s

/-- A host access performed: through BAR2, at the launch register, or at the MSI-X table (28 R323, R324, 03 R29). -/
def State.hostAccess (s : State) (i : Nat) (a : HostAccess) : Except (Nat × Nat) State :=
  match a.target with
  | .window => s.windowAccess i a
  | .register => .ok (s.registerWrite i a.off a.data)
  | .table => .ok (s.setIface i { s.iface i with msixTable := msixWrite (s.iface i).msixTable.toNat a.off a.data })

/-- The accesses of an interface performed in the order in which they arrived, up to one that waits for a page, which is
asked for (28 R324). -/
def State.hostRun (s : State) (i : Nat) : List HostAccess → State
  | [] => s.setIface i { s.iface i with posted := [] }
  | a :: as => match s.hostAccess i a with
    | .ok t => t.hostRun i as
    | .error p => (s.setIface i { s.iface i with posted := a :: as }).requestPage (s.tableOf i p.1) p.1 p.2

/-- A host access arrives, after the interface's earlier ones. -/
def State.hostArrive (s : State) (i : Nat) (a : HostAccess) : State :=
  if !s.answers i then s else s.hostRun i ((s.iface i).posted ++ [a])

/-- HOST_WINDOW_WRITE (28 R324). -/
def execHostWindowWrite (iface off : Nat) (bytes : List Byte) (s : State) : Out :=
  if bytes.isEmpty then .next s else .next (s.hostArrive iface ⟨.window, off, bytes, 0⟩)

/-- HOST_WINDOW_READ (28 R324): the answer's value. -/
def execHostWindowRead (iface off size : Nat) (s : State) : Out := .next (s.hostArrive iface ⟨.window, off, [], size⟩)

/-- The host writes bytes of BAR0: the launch register, else the MSI-X table; the rest is read-only (28 R323). -/
def State.bar0Write (s : State) (i off : Nat) (bytes : List Byte) : State :=
  s.hostArrive i ⟨if off < 0x40 then .register else .table, off, bytes, 0⟩

/-! ### Links and tiers -/

/-- NDOED_LANE_FAIL (28 R330). -/
def execNdoedLaneFail (port : Nat) (s : State) : Out :=
  let t := { s with module := { s.module with lanes := vset s.module.lanes port (vget s.module.lanes port 0 - 1) } }
  .next (t.note (t.ndoedBody != s.ndoedBody))

/-- DOMAIN_BRING_UP (02 R19, R20): device IDs 0-899; the others are reserved. -/
def execDomainBringUp (dev : Nat) (s : State) : Out :=
  let t := { s with module := { s.module with dom := true, dev := dev } }
  if s.module.boot = .open_ ∧ dev < 900 then .next (t.note (t.ndoedBody != s.ndoedBody)) else .next s

/-- The bytes that a remote access touches. -/
def remoteSize : RemoteOp → Nat
  | .load n => n
  | .store bs => bs.length
  | .loadCap | .storeCap _ | .binit _ | .barr _ => 16
  | .amo _ _ | .cas _ _ => 8
  | .red op _ => if op = 9 then 4 else 8
  | .cred _ n _ => 4 * n
  | .join | .arrive | .leave _ | .withdraw => 64
  | .joinDec => 8

/-- A remote access that writes. -/
def remoteWrites : RemoteOp → Bool
  | .load _ | .loadCap => false
  | _ => true

/-- A remote access lies where its instruction may go: its alignment, a contribution's by its element, and no UN page for an
atomic, a barrier object, a group object or a join counter (13 R182, R184, R189-R191, R193, 10 R157, 03 R46, 08 R140). -/
def remotePlaced (r : RemoteOp) (off : Nat) (g : List Seg) : Bool :=
  match r with
  | .load _ | .store _ => true
  | .loadCap | .storeCap _ => off % 16 == 0
  | .binit _ | .barr _ => off % 16 == 0 && !g.any (·.ord == 2)
  | .amo _ _ | .cas _ _ => off % 8 == 0 && !g.any (·.ord == 2)
  | .red op _ => off % (if op = 9 then 4 else 8) == 0
  | .cred _ _ _ => true
  | .join | .arrive | .leave _ | .withdraw => off % 64 == 0 && !g.any (·.ord == 2)
  | .joinDec => off % 8 == 0 && !g.any (·.ord == 2)

/-- The elements of an encoded block added to FP32 words (05 R70, 13 R200). -/
def addBlock (fmt n : Nat) (block : BitVec 512) (old : List Nat) : List Nat :=
  List.zipWith (fun o k => Num.f32 0 (Num.add 0 (Num.of32 o) (Num.of32 (Num.f32 0 (Num.readElem block.toNat (if 3 ≤ fmt then 0 else 1) k)))))
    old (List.range n)

/-- An update of a group object for a slot of another device; the answer is PHASE before it (03 R51). -/
def State.remoteGroup (s : State) (g : List Seg) (f : State → Seg → State) : State × Option Nat :=
  match g with
  | [b] => let c := { b with pa := s.canon b.pa }; (f s c, some (s.group c).phase)
  | _ => (s, none)

/-- A remote access performed at its place here (28 R331, R332); its answer, if it has one. A contribution is applied by itself
as it arrives, and joins no combination tree here (log 80). A decrement that would enqueue a record on a full ring waits
(03 R40). -/
def State.remotePerform (s : State) (g : List Seg) : RemoteOp → State × Option Nat
  | .load _ => (s, some (s.readNat g))
  | .store bs => (s.writeSegs g bs, none)
  | .loadCap => (s, some (s.readNat g + bitNat (s.mem.tag (segsPa s g)) * 2 ^ 128))
  | .storeCap v => (s.putCap g v, none)
  | .binit n => (match g with | [b] => s.initBarrier b (n % 2 ^ 40) | _ => s, none)
  | .barr n => (match g with | [b] => s.arriveUnits b (n % 2 ^ 40) | _ => s, none)
  | .amo op v => let r := s.rmw g op v; (r.1, some r.2.toNat)
  | .cas exp new =>
    let old : XWord := .ofNat 64 (s.readNat g)
    (if old = exp then s.writeSegs g (bytesOf 8 new.toNat) else s, some old.toNat)
  | .red op v => ((s.rmw g op v).1, none)
  | .cred fmt n block => (s.writeSegs g (bytesOf (4 * n) (packWords 32 (addBlock fmt n block (words32 n (s.readNat g))))), none)
  | .join => s.remoteGroup g State.joinGroup
  | .arrive => s.remoteGroup g State.arriveGroup
  | .leave a => s.remoteGroup g fun t b => t.quitGroup b a
  | .withdraw => s.remoteGroup g State.withdrawGroup
  | .joinDec => (if (s.releaseFull g).isSome then s else s.decJoin g, none)

/-- REMOTE_REQUEST (28 R331, R332): an access of another device, carried in over a port that is up (28 R330) and performed
here; an answer is put with the host reads. -/
def execRemoteRequest (r : RemoteReq) (s : State) : Out :=
  if !(s.module.dom && s.answers r.iface && s.linked) then .next s else
  match s.objEntry r.iface r.oid with
  | none => .next s
  | some e =>
    if !(oeAdmits e (oeKind e) r.off (remoteSize r.op) && (oeKind e == 0 || oeKind e == 4 || oeKind e == 5)) then .next s else
    let c : Cap := ⟨.ofNat 128 (r.oid * 2 ^ 96 + oeKind e * 2 ^ 12), true⟩
    match s.stream 0 r.iface c r.off (remoteSize r.op) (remoteWrites r.op) with
    | .error (o, .absent) => .next (s.requestPage r.iface r.oid o)
    | .error _ => .next s
    | .ok g => if !remotePlaced r.op r.off g then .next s else match s.remotePerform g r.op with
      | (t, some v) => .next (t.answer r.iface v)
      | (t, none) => .next t

/-- A capability to an object of another device (10 R147). -/
def State.far (s : State) (iface : Nat) (c : Cap) : Bool :=
  c.kind == 3 && (match s.objEntry iface c.obj with
    | some e => oeKind e == 3 && !(s.module.dom && oeHome e == s.module.dev)
    | none => false)

/-- The capabilities that a command streams through, but for those of a copy-group command with units. -/
def Task.streamCaps : Task → List Cap
  | .gather c _ _ _ | .scatter c _ _ _ _ | .tld c _ _ _ | .tst c _ _ _ | .tsave c _ _ _ _ | .trest c _ _ | .kvapp c _ _ _ _
  | .slog _ _ c _ _ _ _ | .drain _ _ c _ _ => [c]
  | .tldn _ _ n _ | .tgemm _ _ _ _ _ n _ => n.caps.toList
  | .amerge d a b _ _ _ _ => d :: a :: b.toList
  | _ => []

/-- The machine as the elements of a command find it whose home device cannot be reached: no Ndoed port is up, so that each
fails with cause 10 (28 R330, R331). -/
def State.cutOff (s : State) : State := { s with module := { s.module with lanes := Vector.replicate 18 0 } }

/-- The links of a machine put back. -/
def State.relink (t s : State) : State := { t with module := { t.module with lanes := s.module.lanes } }

/-- The next state of an outcome. -/
def nextOr (s : State) : Out → State
  | .next t => t
  | _ => s

/-- The first unit of a command that cannot reach its home device. -/
def farUnit (outcome : Piece → UnitRes (List Seg × List Seg)) (todo : List Piece) : Option Nat :=
  indexWhere (fun p => match outcome p with | .bad 10 _ => true | _ => false) todo

/-- A CRED with a group put first at a destination that cannot be reached, and the group's place. -/
def State.credFar (s : State) (o : Op) : Option (Op × Nat) :=
  match o.task with
  | .cred src res dsts f n todo stop bar =>
    let away (d : Nat) : Bool := s.far o.iface (dsts.getD d Cap.null)
    match indexWhere (fun g : Group8 => (!g.left.isEmpty && g.vals = [] && s.far o.iface src) || g.left.any away) todo with
    | none => none
    | some i =>
      let turned := todo.map fun g => if g.vals = [] && s.far o.iface src then g else { g with left := g.left.filter away ++ g.left.filter (!away ·) }
      some ({ o with task := .cred src res dsts f n turned stop bar }, i)
  | _ => none

/-- What the elements of a command do that no home device answers: `s` is cut off. They are performed as they come, and the
first that fails stops the command there, as any unresolvable fault does (10 R154). -/
def State.unanswered (s : State) (sid : Nat) (o : Op) (live : Bool) : State :=
  match o.task with
  | .copy src dsts todo _ _ bar => match farUnit (s.pieceSegs sid o.iface src dsts bar) todo with
    | some n => s.copyChunk sid o n
    | none => s
  | .copyn n bar pts todo _ => match farUnit (s.pointSegs sid o.iface n bar pts) todo with
    | some i => s.copynChunk sid o i
    | none => s
  | .cred _ _ _ _ _ _ _ _ => match s.credFar o with
    | some (x, i) => s.credUnit sid x i
    | none => s
  | .bgrun h _ => match s.braids.find? fun b => b.die == sid / 16384 && b.handle == h with
    | some b => match b.run with
      | some r =>
        if !(r.slot == sid && r.op == o.id) then s
        else if r.src.any fun x => s.far o.iface x.1 then s.braidElement sid o.id 0
        else if rtKind r.route.toNat = 1 ∧ s.far o.iface r.dest then s.braidElement sid o.id 1
        else s
      | none => s
    | none => s
  | .attn _ _ => match s.pipes.find? fun p => p.job.slot == sid && p.job.op == o.id with
    | some p =>
      if !p.planned && s.far o.iface p.job.qry then s.planPipe p
      else if p.planned && p.blocks.isEmpty && s.far o.iface p.job.dest then s.performAttn o p
      else s
    | none => s
  | .tldn _ _ _ _ | .tgemm _ _ _ _ _ _ _ =>
    if o.task.streamCaps.any (s.far o.iface) then nextOr s (execMacroStep sid o.id s) else s
  | t => if t.streamCaps.any (s.far o.iface) then s.perform sid o live else s

/-- The elements of an operation in flight to another device have not been answered within 10 ms (28 R331). -/
def State.timeOut (s : State) (sid : Nat) (o : Op) (live : Bool) : State :=
  if s.mayGo sid o live then (s.cutOff.unanswered sid o live).relink s else s

/-- The TVAL of a thread access that waits for the home device of a kind-3 object. -/
def State.waitsFar (s : State) (slot : Nat) : Option XWord :=
  match (s.slot slot).block with
  | some (.walk i oid _ val) => if s.far i ⟨.ofNat 128 (oid * 2 ^ 96 + 3 * 2 ^ 12), true⟩ then some val else none
  | _ => none

/-- REMOTE_ACCESS_TIMEOUT (28 R331): the thread access that waits for its home device traps; a command stops with cause
10 at the element that is not answered. -/
def execRemoteAccessTimeout (slot op : Nat) (s : State) : Out :=
  match s.waitsFar slot with
  | some val => .next (s.walkTrap slot val)
  | none => match s.findOp slot op with
    | none => .next s
    | some (o, live) => .next (s.timeOut slot o live)

/-- Memory without the data of the frames of the second tier that are lost, 64 KiB by 64 KiB: it is not recovered (28 R334). -/
def State.memLeft (s : State) : Memory :=
  s.mem.without fun a => decide (cxlBase ≤ a) && decide (a < encryptedEnd) && s.frameLost ((a - cxlBase) / 65536 * 65536) 65536

/-- CXL_PORT_FAIL (28 R334): the frames with a granule behind it leave every free pool, and their data is lost; the capacity
falls by the port's share (log 65). -/
def execCxlPortFail (port : Nat) (s : State) : Out :=
  if 16 ≤ port ∨ s.module.cxlDown.contains port then .next s else
  let up := 16 - s.module.cxlDown.length
  let t := { s with module := { s.module with
    cxlDown := s.module.cxlDown ++ [port]
    cxlGiB := s.module.cxlGiB * (up - 1) / up } }
  .next (({ t with
    mem := t.memLeft
    ifaces := s.ifaces.map fun p => (p.1, { p.2 with cxlPool := p.2.cxlPool.filter fun f => !t.frameLost f.1 f.2 }) } : State).note
      (t.cxlBody != s.cxlBody))

/-! ### Reset and firmware -/

/-- The machine after a module reset (31 R353): as State.reset, with the memory's bytes that are not lost, what is left of each
unit, and the agenda; log 5. -/
def State.moduleReset (s : State) : State :=
  { State.reset with
    agenda := s.agenda
    mem := s.memLeft
    cores := (((if s.core.absent then [(s.core.id, s.core)] else []) ++ s.cores.filter fun p => p.2.absent).filter (·.1 != 0)).foldl
      (fun m p => mset m p.1 { Core.idle p.1 with absent := true }) []
    core := { Core.idle 0 with absent := (s.coreAt 0).absent }
    module := { Module.zero with
      spares := s.module.spares, lanes := s.module.lanes, cxlDown := s.module.cxlDown, cxlGiB := s.module.cxlGiB
      inlet := s.module.inlet, keyFills := s.module.keyFills, keyBase := s.module.keyBase, keyAlt := s.module.keyAlt } }

/-- MODULE_RESET (31 R353). -/
def execModuleReset (s : State) : Out := .next s.moduleReset

/-- Every key slot filled (10 R162, 31 R353). -/
def State.fillKeys (s : State) : State :=
  { s with module := { s.module with keyBase := s.module.keyFills, keyAlt := [], keyFills := s.module.keyFills + 1 } }

/-- Steward firmware fills one key slot anew (10 R162). -/
def State.fillKey (s : State) (slot : Nat) : State :=
  { s with module := { s.module with keyAlt := mset s.module.keyAlt slot s.module.keyFills, keyFills := s.module.keyFills + 1 } }

/-- The free pool of each tier built for an interface (31 R353): frames behind a failed port are none. -/
def State.buildPools (s : State) (i : Nat) : State :=
  s.setIface i { s.iface i with
    hbmPool := Config.framePool i false, cxlPool := (Config.framePool i true).filter fun f => !s.frameLost f.1 f.2 }

/-- Firmware brought up (31 R353 steps 3 and 4): the ports that train, the key slots, the free pools, the capability list,
the interfaces open. -/
def State.bringUp (s : State) (digest : List Byte) : State :=
  let t := { s with module := { s.module with
    boot := .open_, digest := digest, cxlPorts := (List.range 16).filter fun p => !s.module.cxlDown.contains p } }
  let u := (List.range 128).foldl State.buildPools t.fillKeys
  { u with module := { u.module with changes := 0 } }

/-- FIRMWARE_IMAGE_LOAD (31 R353): refused while any interface has a launch in progress; in the boot ROM the image is
verified, and otherwise a fresh module reset comes first. -/
def execFirmwareImageLoad (image sig : List Byte) (s : State) : Out :=
  if !s.launches.isEmpty || !s.waiting.isEmpty then .next s else
  let t := if s.module.boot = .rom then s else s.moduleReset
  let digest := Keccak.shake256 32 image
  if Config.falconAccepts digest sig then .next (t.bringUp digest)
  else .next { t with module := { t.module with boot := .recovery } }

/-- The configuration of an interface that has none set: the defaults of 28 R324 and 03 R48, and no object (log 64). -/
def defaultCfg : IfaceCfg :=
  { objBase := 0, objCount := 0, keyLo := 0, keyHi := 4095, ceiling := 15, watchdogUs := 2000, superCode := Cap.null,
    superData := Cap.null, arena := none, window := none, faultRing := none, joinCap := 65536 }

/-- The configuration that firmware holds of an interface (28 R324). -/
def State.configOf (s : State) (i : Nat) : IfaceCfg := (s.cfg i).getD defaultCfg

/-- ATTESTATION_REQUEST (31 R354): the report in the order R354 lists its parts, with the configuration digest of each of the
128 interfaces in the order of their numbers, signed. -/
def execAttestationRequest (nonce : List Byte) (s : State) : Out :=
  if s.module.boot ≠ .open_ ∨ nonce.length ≠ 32 then .next s else
  let cfgs := (List.range 128).flatMap fun i => Keccak.shake256 32 (Config.configBytes (s.configOf i))
  let counts := bytesOf 1 (s.activeCores 0) ++ bytesOf 1 (s.activeCores 1) ++ bytesOf 1 (vget s.module.spares 0 0) ++ bytesOf 1 (vget s.module.spares 1 0)
  let body := nonce ++ s.module.digest ++ cfgs ++ counts ++ bytesOf 2 (if s.module.dom then s.module.dev else 0)
  let report := body ++ Config.falconSign s.module.reports.length body
  .next { s with module := { s.module with reports := report :: s.module.reports } }

/-! ### The container -/

/-- A number in a file. -/
def fileNat (file : List Byte) (off n : Nat) : Nat := natOfBytes ((file.drop off).take n)

/-- A section: its ID, its offset and its length (31 R348). -/
structure Section where
  id  : Nat
  off : Nat
  len : Nat
  deriving DecidableEq, Repr

/-- The section IDs as numbers, byte 0 first (31 R349). -/
def idCode : Nat := 0x45444F43
def idData : Nat := 0x41544144
def idBraid : Nat := 0x49415242
def idLayr : Nat := 0x5259414C
def idBind : Nat := 0x444E4942
def idSeq : Nat := 0x00514553

/-- The sections of a file whose HEAD and table are well formed (31 R348). -/
def sectionsOf (file : List Byte) : Option (List Section) :=
  let h := fileNat file 0 64
  let n := bits h 63 48
  if bits h 511 192 = 0 ∧ bits h 127 64 = 0 ∧ bits h 47 32 = 1 ∧ bits h 31 0 = 0x31584241 ∧ 1 ≤ n ∧ n ≤ 16 ∧
      bits h 191 128 = file.length ∧ 64 + 32 * n ≤ file.length then
    let es := (List.range n).map fun i => fileNat file (64 + 32 * i) 32
    if es.all fun e => bits e 255 192 == 0 && bits e 63 32 == 0 && bits e 127 64 % 64 == 0 then
      some (es.map fun e => ⟨bits e 31 0, bits e 127 64, bits e 191 128⟩)
    else none
  else none

/-- Two sections share a byte. -/
def Section.overlaps (a b : Section) : Bool := meets a.off a.len b.off b.len

/-- The section of an ID. -/
def sectionOf (ss : List Section) (id : Nat) : Option Section := ss.find? (·.id == id)

/-- The offsets of the braid images in the BRAID section (31 R349): the table's entries up to its first zero, or up to
the first image; log 35. -/
def braidTable (file : List Byte) (b : Section) : List Nat :=
  let first := fileNat file b.off 8
  ((List.range (min first b.len / 8)).map fun i => fileNat file (b.off + 8 * i) 8).takeWhile (· != 0)

/-- An image of the BRAID section lies in it, behind the table, 64-aligned (31 R349, 17 R239). -/
def imageOk (file : List Byte) (b : Section) (n o : Nat) : Bool :=
  o % 64 == 0 && decide (8 * n ≤ o) && decide (o + 64 ≤ b.len) && decide (o + bhLen (fileNat file (b.off + o) 64) ≤ b.len)

/-- The sections are those of 31 R349, each once, within the file and apart from one another, and of a form that fits what
they hold. -/
def sectionsOk (file : List Byte) (ss : List Section) : Bool :=
  ss.all (fun x => [idCode, idData, idBraid, idLayr, idBind, idSeq].contains x.id && decide (x.off + x.len ≤ file.length)) &&
  decide (ss.Pairwise fun a b => a.id ≠ b.id ∧ a.overlaps b = false) &&
  (match sectionOf ss idCode, sectionOf ss idBind, sectionOf ss idSeq with
   | some _, some b, some q => b.len % 32 == 0 && q.len % 16 == 0 &&
     (List.range (q.len / 16)).all fun k => bits (fileNat file (q.off + 16 * k) 16) 47 9 == 0
   | _, _, _ => false) &&
  (match sectionOf ss idBraid with
   | some b => (braidTable file b).all (imageOk file b (braidTable file b).length)
   | none => true) &&
  (match sectionOf ss idLayr with
   | some l => l.len % 16 == 0
   | none => true)

/-- A length as a capability's mantissa and exponent; none where it is no such number. -/
def capLenFields : Nat → Nat → Option (Nat × Nat)
  | 0, n => if n < 2 ^ 18 then some (n, 0) else none
  | k + 1, n => if n < 2 ^ 18 then some (n, 0) else if n % 2 = 0 then (capLenFields k (n / 2)).map fun p => (p.1, p.2 + 1) else none

/-- Fields of a binding entry (31 R350). -/
def bdOff (e : Nat) : Nat := bits e 207 160
def bdLen (e : Nat) : Nat := bits e 159 112
def bdFmt (e : Nat) : Nat := bits e 111 104
def bdRights (e : Nat) : Nat := bits e 103 96
def bdObj (e : Nat) : Nat := bits e 95 64
def bdRef (e : Nat) : Nat := bits e 63 32
def bdKind (e : Nat) : Nat := bits e 7 0

/-- The object an entry names (31 R350). -/
def bindObject (a : LoadArgs) (n : Nat) : Option Cap := if n = 0 then some a.codeCap else if n = 1 then some a.dataCap else a.objects[n - 2]?

/-- The capability an entry makes of its object's; none where it would exceed it (31 R351). -/
def bindCap (a : LoadArgs) (e : Nat) : Option Cap :=
  match bindObject a (bdObj e), capLenFields 48 (bdLen e) with
  | some o, some (m, k) =>
    let r := bits o.raw.toNat 23 16
    if o.len < bdLen e ∨ bdRights e &&& r ≠ bdRights e then none
    else
      let v : Cap := ⟨.ofNat 128 (setBits (setBits (setBits (setBits o.raw.toNat 95 48 (if bdKind e = 1 then bdRef e else o.off)) 47 30 m) 29 24 k) 23 16 (bdRights e)), true⟩
      if v.ok then some v else none
  | _, _ => none

/-- A binding entry passes (31 R351). -/
def bindOk (file : List Byte) (a : LoadArgs) (images : List Nat) (e : Nat) : Bool :=
  bits e 255 208 == 0 && bits e 31 9 == 0 && (bindObject a (bdObj e)).isSome &&
  (if bdKind e = 1 ∨ bdKind e = 2 then
     bdOff e % 16 == 0 && decide (bdOff e + 16 ≤ a.dataCap.len) && (bindCap a e).isSome
   else if bdKind e = 3 then
     match images[bdRef e]? with
     | none => false
     | some io =>
       let h := fileNat file io 64
       if bits e 8 8 = 0 then
         sfmtSize (bdFmt e) != 0 &&
           (entries (fileNat file (io + bhP h) (2 * bhNin h)) 0 16 (bhNin h)).all fun k => decide (k < bdLen e / sfmtSize (bdFmt e))
       else bdFmt e == bhOfmt h
   else false)

/-- Bytes put into an object from its byte 0 on, as the loader places them: a page's write bits do not hold it back. -/
def State.placeBytes (s : State) (i : Nat) (c : Cap) (off : Nat) (bytes : List Byte) : Except KErr State := do
  if bytes.isEmpty then .ok s else do
    let g ← (s.segsOf 0 i c off bytes.length false).toE
    .ok (s.writeSegs g bytes)

/-- The place of n bytes of the data object, which lies on RC pages (31 R349). -/
def State.dataSegs (s : State) (i : Nat) (d : Cap) (off n : Nat) : Except KErr (List Seg) := do
  let g ← (s.segsOf 0 i d off n false).toE
  if g.all (·.ord == 1) then .ok g else .error (.bad 4 off)

/-- DATA put into the data object (31 R349). -/
def State.placeData (s : State) (i : Nat) (d : Cap) (bytes : List Byte) : Except KErr State := do
  if bytes.isEmpty then .ok s else do
    let g ← s.dataSegs i d 0 bytes.length
    .ok (s.writeSegs g bytes)

/-- A tagged capability written into DATA (31 R351). -/
def State.placeCap (s : State) (i : Nat) (d : Cap) (off : Nat) (c : Cap) : Except KErr State := do
  let g ← s.dataSegs i d off 16
  .ok (s.putCap g c)

/-- The bytes of a section. -/
def sectionBytes (file : List Byte) (x : Option Section) : List Byte :=
  match x with | some b => (file.drop b.off).take b.len | none => []

/-- The sections placed and the bindings applied (31 R349, R351). -/
def State.placeFile (s : State) (a : LoadArgs) (file : List Byte) (ss : List Section) (binds : List Nat) : Except KErr State := do
  let b ← s.placeBytes a.iface a.codeCap 0 (sectionBytes file (sectionOf ss idCode))
  let c ← b.placeData a.iface a.dataCap (sectionBytes file (sectionOf ss idData))
  let d ← c.placeBytes a.iface a.stageCap 0 (sectionBytes file (sectionOf ss idBraid))
  let l := sectionBytes file (sectionOf ss idLayr)
  let f ← match l, s.arenaOid a.iface with
    | [], _ => .ok d
    | _, none => .error (.bad 4 0)
    | _, some oid => do
      let v ← d.gread 0 a.iface (arenaCap oid) 0 64
      d.placeBytes a.iface (arenaCap oid) (arenaFields oid v).layOff l
  foldE (fun (t : State) e => match bindCap a e with
    | some k => if bdKind e = 3 then .ok t else t.placeCap a.iface a.dataCap (bdOff e) k
    | none => .ok t) f binds

/-- The loader put back. -/
def State.setLoader (s : State) (i : Nat) (l : Loader) : State := s.setIface i { s.iface i with loader := some l }

/-- The staging object that BGLOAD reads the braid images from lies in device memory (31 R349): the loader writes no core's
scratchpad (02 R16). -/
def stageOk (a : LoadArgs) (ss : List Section) : Bool :=
  (sectionOf ss idBraid).isNone || a.stageCap.kind == 0 || a.stageCap.kind == 4

/-- ABX_LOAD (31 R349-R351). -/
def execAbxLoad (a : LoadArgs) (file : List Byte) (s : State) : Out :=
  if !s.answers a.iface then .next s else
  let refuse (n : Nat) : Out := .next (s.setLoader a.iface ⟨[], 0, none, a.codeCap, a.dataCap, [], some n⟩)
  match sectionsOf file with
  | none => refuse 0
  | some ss =>
    if !(sectionsOk file ss && a.codeCap.kind == 5 && a.dataCap.kind == 0 && stageOk a ss) then refuse 0 else
    let images := match sectionOf ss idBraid with | some b => braidTable file b | none => []
    let base := match sectionOf ss idBraid with | some b => b.off | none => 0
    let bs := match sectionOf ss idBind with | some b => (List.range (b.len / 32)).map fun k => fileNat file (b.off + 32 * k) 32 | none => []
    match indexWhere (fun e => !bindOk file a (images.map (base + ·)) e) bs with
    | some n => refuse (n + 1)
    | none => match s.placeFile a file ss bs with
      | .ok t =>
        let steps := match sectionOf ss idSeq with | some q => (List.range (q.len / 16)).map fun k => BitVec.ofNat 128 (fileNat file (q.off + 16 * k) 16) | none => []
        .next (t.setLoader a.iface ⟨steps, 0, none, a.codeCap, a.dataCap, images.map fun o => a.stageCap.setOff (.ofNat 48 o), none⟩)
      | .error (.absent oid off) => .next (s.requestPage a.iface oid off)
      | .error .busy => .next s
      | .error _ => refuse 0

/-! ### The sequencing program -/

/-- A braid image loaded on CD0 for the loader, as BGLOAD loads one (17 R249, 31 R352): its handle, or nothing where it does
not load. -/
def State.loadBraid (s : State) (i : Nat) (c : Cap) : Except KErr (Option (State × Nat)) := do
  if !(c.tag && c.rd && c.off % 64 == 0 && inBounds c c.off 64) then .ok none else do
  let h ← s.gread 0 i c c.off 64
  if !(bhOk h && inBounds c c.off (bhLen h)) then .ok none else do
  let img ← s.gread 0 i c c.off (bhLen h)
  let nodes := entries img 64 64 (bhNodes h)
  let list := entries img (bhP h) 16 (bhNin h)
  let scales := entries img (bhQ h) 16 (bhNout h)
  match nodesCheck h nodes with
  | .error _ => .ok none
  | .ok chk =>
    let k := (bhNodes h + 131071) / 131072
    if !(listsOk h chk list scales && chk.seen.all fun p => decide (p.2 ≤ 1024)) then .ok none else
    match s.freeBraidSlots 0 k with
    | none => .ok none
    | some n =>
      let b : Braid :=
        { die := 0, handle := n, nslot := k, iface := i, ofmt := bhOfmt h, wi := bhWi h, nout := bhNout h, nin := bhNin h,
          nodes := nodes.map (.ofNat 64), list := list, scales := scales, run := none, cut := 0, lost := false, ev := false,
          edge := false, nan := false, done := 0, freeing := none }
      .ok (some ({ s with braids := s.braids ++ [b], gone := s.gone.filter fun g => !(g.1 == 0 && g.2.1 == n) }, n + k * 2 ^ 8))

/-- What a step of the SEQ program comes to. -/
inductive SeqRes where
  /-- The state after it and the next step. -/
  | go (s : State) (next : Nat)
  /-- It waits. -/
  | wait (s : State)
  /-- A sequence fault. -/
  | fault

/-- The record at a DATA offset launched (31 R352 OP 1). -/
def State.seqLaunch (s : State) (i : Nat) (l : Loader) (arg : Nat) : Except KErr SeqRes := do
  if !(l.data.tag && l.data.rd && inBounds l.data arg 64 && arg % 64 == 0) then .ok .fault else do
  let g ← (s.segsOf 0 i l.data arg 64 false).toE
  let v := s.readNat g
  let pa := segsPa s g
  let r := launchRec v (l.data.cl && s.mem.tag pa) (l.data.cl && s.mem.tag (pa + 16))
  match launchRefuses v r with
  | some _ => .ok .fault
  | none => match s.freeLid with
    | some lid => .ok (if s.launchRoom lid i r then .go ((s.tableLaunch lid i r none).startLaunch lid 0) (l.pos + 1) else .wait s)
    | none => .ok (.wait s)

/-- The barrier object at a DATA offset, checked as BWAIT and BTEST check theirs (13 R193): its place. -/
def State.seqBarrier (s : State) (i : Nat) (l : Loader) (arg : Nat) : Except KErr (Option Seg) := do
  if !(l.data.tag && l.data.rd && inBounds l.data arg 16 && arg % 16 == 0) then .ok none else do
  match ← (s.segsOf 0 i l.data arg 16 false).toE with
  | [g] => .ok (if g.ord = 2 then none else some g)
  | _ => .ok none

/-- One step of the SEQ program (31 R352). -/
def State.seqOne (s : State) (i : Nat) (l : Loader) (q : Nat) : Except KErr SeqRes := do
  let arg := bits q 127 64
  let skip := bits q 63 48
  let op := bits q 7 0
  if bits q 47 9 ≠ 0 then .ok .fault
  else if op = 1 then s.seqLaunch i l arg
  else if op = 2 then
    match l.braids[arg]? with
    | none => .ok .fault
    | some c => do
      if s.engHeld 0 then .ok (.wait s)
      else if !inBounds l.data (8 * skip : Nat) 8 then .ok .fault
      else match ← s.loadBraid i c with
      | none => .ok .fault
      | some (t, h) => do
        let u ← t.gwrite 0 i l.data (8 * skip) 8 h
        .ok (.go u (l.pos + 1))
  else if op = 3 then do
    match ← s.seqBarrier i l arg with
    | none => .ok .fault
    | some g => .ok (if bits (s.readNat [g]) 80 80 = bits q 8 8 then .wait (s.setLoader i { l with wait := some (s.canon g.pa) })
        else .go s (l.pos + 1))
  else if op = 4 then do
    match ← s.seqBarrier i l arg with
    | none => .ok .fault
    | some g =>
      if bits (s.readNat [g]) 81 81 = 0 then .ok (.go s (l.pos + 1))
      else .ok (if l.steps.length ≤ l.pos + 1 + skip then .fault else .go s (l.pos + 1 + skip))
  else if op = 5 then .ok (.go s l.steps.length)
  else .ok .fault

/-- SEQ_STEP (31 R352). -/
def execSeqStep (iface : Nat) (s : State) : Out :=
  if !s.answers iface then .next s else
  match (s.iface iface).loader with
  | none => .next s
  | some l =>
    if l.fault.isSome ∨ l.wait.isSome then .next s else
    match l.steps[l.pos]? with
    | none => .next s
    | some q => match s.seqOne iface l q.toNat with
      | .ok (.go t n) => .next (t.setLoader iface { l with pos := n })
      | .ok (.wait t) => .next t
      | .ok .fault => .next (s.setLoader iface { l with fault := some l.pos })
      | .error (.absent oid off) => .next (s.requestPage iface oid off)
      | .error .busy => .next s
      | .error _ => .next (s.setLoader iface { l with fault := some l.pos })

end Sys2Proof.Machine
end

