-- ==== Sys2Proof/Machine/Cycle.lean ====
section
/-! DEFINITION. An issue cycle of the core in focus: which slot issues, the fetch, the acts that stand in for other
agents, and the order in which events happen by default (03 R54, R55, 08 R120, log 1). -/

namespace Sys2Proof.Machine

/-! ### Which slot issues -/

/-- The reason of a stall or parking is gone (03 R54). A walk, a page, a barrier, a group, a launch ID, ENDC and COMMIT
end by their events only. -/
def State.clears (s : State) (sl : Slot) : Block → Bool
  | .counts l a c t g => sl.within l a c t g
  | .room k => decide (sl.count k sl.lvl < k.max)
  | .ops ids => ids.all fun i => !s.outstanding i
  | .cycle n => decide (n < s.core.cycle)
  | .idle n => sl.pre || decide (n < s.clockOf (sl.id / 128))
  | .acc a => !s.accHandler (sl.id / 128) a && (sl.lvl != 0 || !s.accHeld (sl.id / 128) a)
  | .pair => !((coreSids (sl.id / 128)).any fun k => k != sl.id && (s.slot k).ht)
  | .join => decide ((s.joins.filter (·.iface == sl.iface)).length < s.joinCap sl.iface)
  | .ring d p => !s.ringFull d p
  | .engine d => !s.engHeld d
  | .eret => sl.quiet && (sl.pend.all fun p => decide (p.at_ ≤ s.core.cycle))
  | _ => false

/-- The entry of a LAUNCH of the slot is about to be enqueued and finds the ring full (03 R40). -/
def State.entryStalls (s : State) (sl : Slot) : Bool :=
  sl.ops.any fun o => match o.task.launchId with
    | some lid => !s.startReady lid && s.mayGo sl.id o true
    | none => false

/-- The slot holds nothing, is parked or is stalled (03 R54). A trap that waits for its drain stalls it (26 R308). -/
def State.blocked (s : State) (sl : Slot) : Bool :=
  !sl.busy || (match sl.trapPend with
    | some t => !sl.drained t.wd
    | none => s.entryStalls sl || (match sl.block with
      | some b => !s.clears sl b
      | none => false))

/-- The slot is eligible (03 R54). -/
def State.eligible (s : State) (sl : Slot) : Bool :=
  !s.blocked sl && (sl.trapPend.isSome || decide (sl.gapUntil < s.core.cycle))

/-- The slot of the core in focus with this number. -/
def State.numbered (s : State) (k : Nat) : Slot := s.slot (s.core.id * 128 + k)

/-- The first eligible slot after one, in slot-number order, wrapping (03 R55). -/
def State.after (s : State) (k : Nat) : Option Nat :=
  ((List.range (slotsOf s.core.id)).map fun i => (k + 1 + i) % slotsOf s.core.id).find? fun j => s.eligible (s.numbered j)

/-- The current slot of a cycle (03 R55). -/
def State.current (s : State) : Nat :=
  let k := s.core.cur
  if s.core.lastY || s.blocked (s.numbered k) then (s.after k).getD k else k

/-- A cycle of the core in focus begins (02 R25), and its current slot is chosen. -/
def State.choose (s : State) : State :=
  let u := s.tick
  let t := { u with core := { u.core with cycle := u.core.cycle + 1 } }
  { t with core := { t.core with cur := t.current } }

/-- The current slot issues in the cycle (03 R55). -/
def State.goes (s : State) : Bool := s.eligible (s.numbered s.core.cur)

/-- The current slot in focus, with the results visible that are due (03 R56) and its stall over. -/
def State.prepare (s : State) : State :=
  let t := s.turnTo (s.core.id * 128 + s.core.cur)
  { t with me := { t.me.deliver t.core.cycle with block := none } }

/-- Some slot of the core only waits for its gap. -/
def State.gapping (s : State) : Bool :=
  (List.range (slotsOf s.core.id)).any fun k => !s.blocked (s.numbered k)

/-- A cycle of a core that a hold keeps from issuing (02 R25): its own cycles do not count. -/
def State.held (s : State) : State :=
  let t := s.tick
  { t with core := { t.core with hold := t.core.hold - 1 } }

/-! ### Fetch -/

/-- The bytes of the word at the pc, through the code capability of the slot's mode (08 R120, 10 R144, 26 R308). A pc
that R120 would refuse raises its trap (26 R318). -/
def State.fetchSegs (s : State) : Except Stop (List Seg) := do
  let c := s.codeCap
  let p := s.me.ctx.pc.toNat
  require c.tag (capTrap subTag p)
  require (c.kind == 5) (capTrap subRights p)
  require c.x (capTrap subRights p)
  require (decide (p % 4 = 0) && decide (p + 4 ≤ c.len)) (capTrap subBounds p)
  s.translate c p 4 false p

/-- The word at the pc. -/
def State.fetch (s : State) : Except Stop Word :=
  match s.fetchSegs with
  | .ok g => .ok (.ofNat 32 (s.readNat g))
  | .error e => .error e

/-- The instruction a word stands for (07 R107). -/
def instrOf (w : Word) : Instr :=
  match decode w with
  | .ok i => i
  | .error _ => .illegalWord w

/-! ### Acts -/

/-- How a contribution changes its place: by an op of RED that is applied alone, or by an unordered addition in an element
format (05 R81). -/
inductive RedHow where
  | op (p : Nat)
  | add (f : Num.Fmt)
  deriving DecidableEq, Repr

/-- A contribution, or what a grouping of them adds up to: how, where, and the value. -/
structure Contribution where
  how  : RedHow
  segs : List Seg
  val  : Nat
  deriving DecidableEq, Repr

/-- A contribution of an operation (05 R81): an element of RED and REDV, where they are ordered the first that is left, of an
adding VSCAT (15 R223), or of a group of CRED at a destination whose values are formed (13 R200); none that has been
performed, or whose port does not take it. -/
def State.contribution (s : State) (sid : Nat) (o : Op) (n : Nat) : Option Contribution :=
  match o.task with
  | .red c p ord vs =>
    match vs[n]? with
    | none => none
    | some (f, held, v) =>
      if (ord && n != 0) || s.skips sid o f || !s.accepts sid o f c f then none else
      match s.redSegs sid o c p f held with
      | .ok g => some (if p = 9 && !ord then ⟨.add .fp32, g, bits v 31 0⟩ else ⟨.op p, g, v⟩)
      | _ => none
  | .scatter c es et true part =>
    match es[es.length - 1 - n]? with
    | some (some f, v) =>
      if c.kind = 1 ∨ es.length ≤ n ∨ part.contains n ∨ s.skips sid o n ∨ !s.accepts sid o n c f then none else
      match s.segsOf sid o.iface c f ((etFmt et).width / 8) true with
      | .ok g => some ⟨.add (etFmt et), g, v⟩
      | _ => none
    | _ => none
  | .cred _ _ dsts f k todo _ _ =>
    let e := n % 128
    let d := n / 128 % 16
    let base := match todo with | h :: _ => h.g | [] => 0
    match todo.find? (·.g == n / 2048) with
    | none => none
    | some g =>
      let c := dsts.getD d Cap.null
      let (a, m) := credSpan f k g.g
      let off := c.off + 4 * a
      if base + 8 ≤ g.g ∨ m ≤ e ∨ g.vals = [] ∨ !g.left.contains d ∨ g.added d e ∨ !s.accepts sid o (credKey g.g d) c off then none else
      match s.groupSegs sid o.iface g d c off (4 * m) with
      | .ok segs => some ⟨.add .fp32, sliceSegs segs (4 * e) 4, Num.f32 0 ((credBlock f g.vals).1.getD e (.fin false 0 0))⟩
      | _ => none
  | _ => none

/-- Two contributions change the same bytes with the same key. -/
def State.sameBytes (s : State) (g h : List Seg) : Bool :=
  g.map (fun x => (s.canon x.pa, x.len, x.key)) == h.map fun x => (s.canon x.pa, x.len, x.key)

/-- What a grouping of reductions adds up to (05 R81), each node rounded once. Only unordered additions over one place
combine; none where a contribution may not be performed yet. -/
def State.combine (s : State) : RedTree → Option Contribution
  | .leaf slot op n => match s.findOp slot op with
    | some (o, live) => if s.mayGo slot o live then s.contribution slot o n else none
    | none => none
  | .node a b => match s.combine a, s.combine b with
    | some ⟨.add f, g, x⟩, some ⟨.add e, h, y⟩ => if f = e ∧ s.sameBytes g h then some ⟨.add f, g, addElem f x y⟩ else none
    | _, _ => none

/-- The contributions of a grouping. -/
def RedTree.leaves : RedTree → List (Nat × Nat × Nat)
  | .leaf slot op n => [(slot, op, n)]
  | .node a b => a.leaves ++ b.leaves

/-- An element of a group added at a destination, whose pieces the group holds from then on: the rest of it is added there,
whatever becomes of their pages meanwhile (13 R202). -/
def Group8.add (g : Group8) (d e : Nat) (segs : List Seg) : Group8 :=
  { g with part := if (g.held d).isSome then g.part.map fun p => if p.1 = d then (p.1, p.2.1, e :: p.2.2) else p else g.part ++ [(d, segs, [e])] }

/-- An operation without the contributions of a grouping; one that has none left leaves its class. `t` is the state in which
the contributions were performed. -/
def State.takeRed (s t : State) (ls : List (Nat × Nat × Nat)) (p : Nat × Nat) : State :=
  match s.findOp p.1 p.2 with
  | some (o, _) => match o.task with
    | .red c op ord vs =>
      let xs := vs.zip (List.range vs.length)
      let rest := (xs.filter fun x => !ls.contains (p.1, p.2, x.2)).map (·.1)
      let u := (xs.filter fun x => ls.contains (p.1, p.2, x.2)).foldl (fun u x => u.undivert p.1 p.2 x.1.1) s
      if rest.isEmpty then u.dropOp p.1 p.2 else u.setTask p.1 p.2 (.red c op ord rest) true
    | .scatter c es et add part =>
      let ns := (ls.filter fun l => l.1 == p.1 && l.2.1 == p.2).map (·.2.2)
      ns.foldl (fun t n => t.undivert p.1 p.2 n) (s.setTask p.1 p.2 (.scatter c es et add (part ++ ns)) true)
    | .cred src res dsts f n todo stop bar =>
      let ns := (ls.filter fun l => l.1 == p.1 && l.2.1 == p.2).map (·.2.2)
      let grow (g : Group8) : Group8 := (ns.filter (· / 2048 == g.g)).foldl (fun h k =>
        let d := k / 128 % 16
        let (a, m) := credSpan f n g.g
        let c := dsts.getD d Cap.null
        h.add d (k % 128) (match t.groupSegs p.1 o.iface g d c (c.off + 4 * a) (4 * m) with | .ok x => x | _ => [])) g
      s.setTask p.1 p.2 (.cred src res dsts f n (todo.map grow) stop bar) true
    | _ => s
  | none => s

/-- A contribution applied at its place as one write. -/
def State.contribute (s : State) (c : Contribution) : State :=
  match c.how with
  | .op p => (s.rmw c.segs p (.ofNat 64 c.val)).1
  | .add f => s.writeSegs c.segs (bytesOf (f.width / 8) (addElem f (s.readNat c.segs) c.val))

/-- A grouping of reductions performed as one write (12 R180). -/
def State.performGroup (s : State) (t : RedTree) : State :=
  match s.combine t with
  | some c =>
    if t.leaves.Nodup then
      ((t.leaves.map fun p => (p.1, p.2.1)).eraseDups).foldl (fun u p => u.takeRed s t.leaves p) (s.contribute c)
    else s
  | none => s

/-- The places of far barrier objects that slots and loaders are registered on (28 R331). -/
def State.farBarriers (s : State) : List Nat :=
  let slots := s.allSlots.filterMap fun sl => match sl.block with
    | some (.barrier p) => some p
    | _ => none
  let loaders := s.ifaces.filterMap fun p => p.2.loader.bind (·.wait)
  ((slots ++ loaders).filter fun p => decide (remoteBase ≤ p)).eraseDups

/-- The far group objects that slots belong to or join (28 R331). -/
def State.farGroups (s : State) : List Seg :=
  ((s.allSlots.flatMap fun sl => sl.groups.map (·.seg)).filter fun g => decide (remoteBase ≤ g.pa)).eraseDups

/-- PHASE of the barrier object at a place. -/
def State.barPhase (s : State) (pa : Nat) : Nat := bits (s.readNat [⟨pa, 16, 1, false, 0, 0⟩]) 80 80

/-- The slots here see that PHASE of a far group has changed; a pending joiner parked in GSYNC then arrives at once (03 R51,
08 R140). -/
def State.farPhase (s : State) (g : Seg) : State :=
  let late := (s.allSlots.filter fun sl => decide (1 < sl.syncLeft g.pa)).length
  let t := s.mapSlots (·.phaseChange g.pa)
  if late = 0 then t else
    let o := t.group g
    t.updateGroup g 2 { o with arrived := o.arrived + late }

/-- The join counter at a place. -/
def State.joinCount (s : State) (pa : Nat) : Nat := s.readNat [⟨pa, 8, 1, false, 0, 0⟩]

/-- The waiting records of far join counters that have come to zero enqueued, as far as the rings have room (03 R40, R47). -/
def State.farJoins (s : State) (pas : List Nat) : Option State :=
  (foldE (fun (t : State) pa => match t.joins.find? (·.pa == pa) with
    | some j => if t.ringFull j.die j.r.prio.toNat then .error () else .ok (t.releaseJoin pa)
    | none => .ok t) s pas).toOption

/-- The memory of another device's object changed there by others (28 R331): the slots here that wait for the PHASE of a barrier
or a group object wake as it changes, and the record that waits here on a join counter is enqueued as that comes to zero (03
R47). A change whose record finds its ring full is still to come (03 R40); log 14. -/
def State.farChange (s : State) (m : Memory) : State :=
  let t : State := { s with mem := m }
  let u := (s.farBarriers.filter fun p => s.barPhase p != t.barPhase p).foldl State.wakeBarrier t
  let v := (s.farGroups.filter fun g => (s.group g).phase != (t.group g).phase).foldl State.farPhase u
  let done := (s.joins.map (·.pa)).filter fun p => decide (remoteBase ≤ p) && s.joinCount p != 0 && t.joinCount p == 0
  (v.farJoins done).getD s

/-- Bytes stored there. -/
def State.farPoke (s : State) (pa : Nat) (bytes : List Byte) : State := s.farChange (s.mem.writes 0 pa bytes)

/-- A tagged capability stored there (10 R145). -/
def State.farCap (s : State) (pa : Nat) (v : BitVec 128) : State :=
  if remoteBase ≤ pa ∧ pa % 16 = 0 then s.farChange ((s.mem.writes 0 pa (bytesOf 16 v.toNat)).setTag pa true) else s

/-- Bytes stored by another agent under a key slot; a scratchpad is written by copy engines only (02 R16). -/
def State.poke (s : State) (key pa : Nat) (bytes : List Byte) : State :=
  if pa + bytes.length ≤ scratchBase then { s with mem := s.mem.writes (s.keyOf key) pa bytes }
  else if remoteBase ≤ pa then s.farPoke pa bytes
  else s

/-- Firmware's code begins in steward mode on an idle slot of the hub (26 R305; log 63). -/
def State.stewardEnter (s : State) (sid : Nat) (code : Cap) (pc : BitVec 48) : State :=
  let sl := s.slot sid
  if s.module.boot = .open_ ∧ sid / 16384 = 2 ∧ coreOk (sid / 128) = true ∧ sid % 128 < slotsOf (sid / 128) ∧ !sl.busy ∧ code.ok then
    s.setSlot { sl.blank with busy := true, steward := some code, iface := 128, ctx := { Ctx.zero with pc := pc, r := { Rec.zero with lid := 1048576 } } }
  else s

/-- Firmware leaves steward mode; log 63. -/
def State.stewardLeave (s : State) (sid : Nat) : State :=
  if (s.slot sid).steward.isSome then (s.leaveGroups sid).freeSlot sid else s

/-- Firmware adds frames to an interface's pools. -/
def State.addPools (s : State) (i : Nat) (hbm cxl : List (Nat × Nat)) (kv buckets : List Nat) : State :=
  let f := s.iface i
  s.setIface i { f with
    hbmPool := f.hbmPool ++ hbm, cxlPool := f.cxlPool ++ cxl, kvPool := f.kvPool ++ kv, buckets := f.buckets ++ buckets }

/-- The instruction is an event of another agent: no word encodes it, and it is not the illegal word. -/
def isEvent (i : Instr) : Bool :=
  (encodeNat i).isNone && (match i with
    | .illegalWord _ => false
    | _ => true)

/-- An act other than an event. -/
def State.act (s : State) : Act → State
  | .turn core => if coreOk core then s.turnTo (core * 128 + (s.coreAt core).cur) else s
  | .event _ => s
  | .dropObject n => { s with objects := s.objects.eraseIdx n }
  | .dropTlb n => { s with tlb := s.tlb.eraseIdx n }
  | .dropKv n => { s with kvBufs := s.kvBufs.eraseIdx n }
  | .poke key pa bytes => s.poke key pa bytes
  | .farCap pa v => s.farCap pa v
  | .pools i hbm cxl kv buckets => s.addPools i hbm cxl kv buckets
  | .merge t => s.performGroup t
  | .bar0Read i off n => s.bar0Read i off n
  | .bar0Write i off bytes => s.bar0Write i off bytes
  | .posted i => if s.answers i then s.hostRun i (s.iface i).posted else s
  | .stewardEnter sid code pc => s.stewardEnter sid code pc
  | .stewardLeave sid => s.stewardLeave sid
  | .fillKey k => s.fillKey (k % 4096)
  | .rings n => { s with module := { s.module with ring := n } }
  | .requeue sid => s.requeue sid
  | .handOver core => if (s.coreAt core).absent then s.handOver core (s.coreAt core).deque.length else s
  | .inlet t =>
    let u := { s with module := { s.module with inlet := t } }
    u.note (u.coresBody != s.coresBody)

/-! ### The default schedule -/

/-- The events an outstanding operation may need. -/
def opEvents (sid : Nat) (o : Op) : List Instr :=
  match o.task with
  | .copy _ _ todo _ _ _ => (List.range todo.length).map (.chunkComplete sid o.id ·) ++ [.longOpComplete sid o.id]
  | .move _ _ _ todo _ _ => (List.range todo.length).map (.chunkComplete sid o.id ·) ++ [.longOpComplete sid o.id]
  | .cred _ _ _ _ _ todo _ _ =>
    (List.range todo.length).flatMap (fun n => [.credGroupComplete sid o.id n, .chunkComplete sid o.id n]) ++ [.longOpComplete sid o.id]
  | .copyn _ _ _ todo _ =>
    [.macroStep sid o.id] ++ (List.range todo.length).map (.chunkComplete sid o.id ·) ++ [.longOpComplete sid o.id]
  | .tldn _ _ _ _ | .tgemm _ _ _ _ _ _ _ => [.macroStep sid o.id, .longOpComplete sid o.id]
  | _ => [.longOpComplete sid o.id]

/-- The events a slot may need. -/
def slotEvents (sl : Slot) : List Instr :=
  (match sl.block with
    | some (.walk _ _ _ _) => [Instr.pageWalkReturn sl.id]
    | some (.page _ _ _ _) => [Instr.pagePresentResume sl.id]
    | some (.endc _) => [Instr.endcRelease sl.id]
    | some (.commit _) => [Instr.commitRetire sl.id]
    | _ => []) ++
  sl.ops.flatMap (opEvents sl.id) ++
  (if sl.dog.isSome then [Instr.watchdogExpiry sl.id] else []) ++
  (if sl.dogHand.isSome then [Instr.watchdogHandlerTimeout sl.id] else [])

/-- The events that may be due, in the order in which the default schedule tries them (log 17). -/
def State.candidates (s : State) : List Instr :=
  s.allSlots.flatMap slotEvents ++
  s.orphans.flatMap (fun p => opEvents p.1 p.2) ++
  s.spills.flatMap (fun p => (List.range s.spills.length).map (Instr.spillElementPerform p.port ·)) ++
  (List.range s.moves.length).flatMap (fun n => [Instr.migrationSwitch n, Instr.shootdownComplete n]) ++
  s.pushes.map (fun p => Instr.braidInputVector p.die p.handle) ++
  s.braids.flatMap (fun b => [Instr.braidVectorOutput b.die b.handle, Instr.braidInputVector b.die b.handle]) ++
  s.pipes.flatMap (fun p => (List.range p.blocks.length).map (Instr.apipeBlockMerge p.die p.pipe ·)) ++
  s.pipes.map (fun p => Instr.apipeJobTake p.die p.pipe) ++
  s.jobs.flatMap (fun j => (List.range 12).map (Instr.apipeJobTake j.die ·)) ++
  (List.range s.freed.length).map Instr.frameReturn ++
  (s.launches.filter fun p => p.2.complete).map (fun p => Instr.completionActionResume p.1) ++
  (if s.waiting.isEmpty then [] else [Instr.launchIdAssign 0]) ++
  (if (s.queues.any fun p => !p.2.isEmpty) || (s.cores.any fun p => !p.2.deque.isEmpty) || !s.core.deque.isEmpty then
    allCores.flatMap fun k => [Instr.starvationGuardArm (k / 128), Instr.dispatch k]
  else []) ++
  s.ifaces.map (fun p => Instr.seqStep p.1) ++
  (if s.module.changes = 0 then [] else [Instr.capabilityListUpdate])

/-- The slot's stall or parking ends by an event only. -/
def Slot.awaitsEvent (sl : Slot) : Bool :=
  match sl.block with
  | some (.walk _ _ _ _) | some (.page _ _ _ _) | some (.barrier _) | some (.group _ _) | some (.launch _) | some (.endc _)
  | some (.commit _) | some .restart => sl.trapPend.isNone
  | _ => false

/-- The interfaces whose accesses through BAR2 wait. -/
def State.postedActs (s : State) : List Act := (s.ifaces.filter fun p => !p.2.posted.isEmpty).map fun p => .posted p.1

/-- The slots that keep a restart state, and the lost cores that have records left (03 R40). -/
def State.queueActs (s : State) : List Act :=
  ((s.allSlots.filter fun sl => sl.block == some .restart).map fun sl => .requeue sl.id) ++
    ((s.core :: s.cores.map (·.2)).filter fun c => c.absent && !c.deque.isEmpty).map fun c => .handOver c.id

/-- The next core with work after the one in focus, in the order of numbers, wrapping. -/
def State.otherCore (s : State) : Option Nat :=
  let busy := (s.slots.filter fun p => p.2.busy && !p.2.awaitsEvent && p.1 / 128 != s.core.id).map fun p => p.1 / 128
  match busy.find? (fun k => decide (s.core.id < k)) with
  | some k => some k
  | none => busy.head?

/-- The acts that turn the focus to it. -/
def State.turnActs (s : State) : List Act :=
  match s.otherCore with
  | some k => [.turn k]
  | none => []

/-! ### A word put where the next fetch finds it -/

/-- The code capability, object table entry and leaf of a program placed from outside: object 0 of kind 5, one page,
in frame 16. -/
def placedCode : Cap := ⟨.ofNat 128 (1 * 2 ^ 30 + 16 * 2 ^ 24 + 2 ^ 23 + 2 ^ 16 + 5 * 2 ^ 12), true⟩
def placedEntry : BitVec 256 := .ofNat 256 (1 * 2 ^ 213 + 5 * 2 ^ 207 + 2 ^ 206 + 65536 * 2 ^ 144)
def placedLeaf : BitVec 64 := .ofNat 64 (2 ^ 63 + 1 * 2 ^ 60 + 16 * 2 ^ 16)

/-- The launch a placed program runs under: one continuation without a join counter. -/
def placedLaunch : Launch :=
  ⟨0, ⟨0, 0, 0, false, false, false, 0, 0, 0, 0, 1, 1, Cap.null, placedCode⟩, 0, 1, false, [], 0⟩

/-- The record of its continuation. -/
def placedRec : Rec := ⟨0, 0, 0, 0, 0, .allOnes 32, 0, 0, 0⟩

/-- The current slot of the core in focus holds the continuation of a placed program (log 6). -/
def State.placeProgram (s : State) : State :=
  let t := s.turnTo (s.core.id * 128 + s.core.cur)
  { t with
    me := { Slot.idle t.me.id with busy := true, ctx := { Ctx.zero with r := placedRec }, restart := .fresh placedRec }
    core := { t.core with lastY := false, hold := 0, absent := false }
    objects := mset t.objects 0 placedEntry
    tlb := ⟨tlbDie t.me.id, 0, 0, 0, placedLeaf⟩ :: t.tlb
    launches := mset t.launches 0 placedLaunch
    moves := []
    module := { t.module with boot := .open_ } }

/-- A slot of the core in focus fetches in the next cycle, from these bytes. -/
def State.nextFetch (s : State) : Option (List Seg) :=
  let p := s.choose.prepare
  if s.module.boot = .off ∨ s.core.absent ∨ 0 < s.core.hold ∨ !s.choose.goes ∨ p.me.trapPend.isSome then none
  else p.fetchSegs.toOption

end Sys2Proof.Machine
end

