-- ==== Sys2Proof/Machine/Dispatch.lean ====
section
/-! DEFINITION. One meaning for every instruction and event. -/

namespace Sys2Proof.Machine

/-- The meaning of an instruction, or of an event, in a state. -/
def exec (i : Instr) (s : State) : Host.Outcome State Fault Refusal :=
  match i with
  | .add d a b => Sys2Proof.Machine.execAdd d a b s
  | .sub d a b => Sys2Proof.Machine.execSub d a b s
  | .and d a b => Sys2Proof.Machine.execAnd d a b s
  | .or d a b => Sys2Proof.Machine.execOr d a b s
  | .xor d a b => Sys2Proof.Machine.execXor d a b s
  | .andn d a b => Sys2Proof.Machine.execAndn d a b s
  | .shl d a b => Sys2Proof.Machine.execShl d a b s
  | .shr d a b => Sys2Proof.Machine.execShr d a b s
  | .sar d a b => Sys2Proof.Machine.execSar d a b s
  | .min d a b => Sys2Proof.Machine.execMin d a b s
  | .max d a b => Sys2Proof.Machine.execMax d a b s
  | .minz d a b => Sys2Proof.Machine.execMinz d a b s
  | .maxz d a b => Sys2Proof.Machine.execMaxz d a b s
  | .slt d a b => Sys2Proof.Machine.execSlt d a b s
  | .sltz d a b => Sys2Proof.Machine.execSltz d a b s
  | .seq d a b => Sys2Proof.Machine.execSeq d a b s
  | .mul d a b => Sys2Proof.Machine.execMul d a b s
  | .mulh d a b => Sys2Proof.Machine.execMulh d a b s
  | .mulhz d a b => Sys2Proof.Machine.execMulhz d a b s
  | .div d a b => Sys2Proof.Machine.execDiv d a b s
  | .divz d a b => Sys2Proof.Machine.execDivz d a b s
  | .rem d a b => Sys2Proof.Machine.execRem d a b s
  | .remz d a b => Sys2Proof.Machine.execRemz d a b s
  | .clz d a => Sys2Proof.Machine.execClz d a s
  | .ctz d a => Sys2Proof.Machine.execCtz d a s
  | .popc d a => Sys2Proof.Machine.execPopc d a s
  | .sext d a p => Sys2Proof.Machine.execSext d a p s
  | .zext d a p => Sys2Proof.Machine.execZext d a p s
  | .sel d a b => Sys2Proof.Machine.execSel d a b s
  | .bext d a b => Sys2Proof.Machine.execBext d a b s
  | .bins d a b => Sys2Proof.Machine.execBins d a b s
  | .addi d a imm => Sys2Proof.Machine.execAddi d a imm s
  | .andi d a imm => Sys2Proof.Machine.execAndi d a imm s
  | .ori d a imm => Sys2Proof.Machine.execOri d a imm s
  | .xori d a imm => Sys2Proof.Machine.execXori d a imm s
  | .shli d a s1 => Sys2Proof.Machine.execShli d a s1 s
  | .shri d a s1 => Sys2Proof.Machine.execShri d a s1 s
  | .sari d a s1 => Sys2Proof.Machine.execSari d a s1 s
  | .slti d a imm => Sys2Proof.Machine.execSlti d a imm s
  | .sltzi d a imm => Sys2Proof.Machine.execSltzi d a imm s
  | .movi d imm => Sys2Proof.Machine.execMovi d imm s
  | .movk0 d imm => Sys2Proof.Machine.execMovk0 d imm s
  | .movk16 d imm => Sys2Proof.Machine.execMovk16 d imm s
  | .movk32 d imm => Sys2Proof.Machine.execMovk32 d imm s
  | .movk48 d imm => Sys2Proof.Machine.execMovk48 d imm s
  | .fadd d a b r => Sys2Proof.Machine.execFadd d a b r s
  | .fsub d a b r => Sys2Proof.Machine.execFsub d a b r s
  | .fmul d a b r => Sys2Proof.Machine.execFmul d a b r s
  | .ffma d a b r => Sys2Proof.Machine.execFfma d a b r s
  | .fdiv d a b r => Sys2Proof.Machine.execFdiv d a b r s
  | .fmin d a b => Sys2Proof.Machine.execFmin d a b s
  | .fmax d a b => Sys2Proof.Machine.execFmax d a b s
  | .fcmpEq d a b => Sys2Proof.Machine.execFcmpEq d a b s
  | .fcmpLt d a b => Sys2Proof.Machine.execFcmpLt d a b s
  | .fcmpLe d a b => Sys2Proof.Machine.execFcmpLe d a b s
  | .fcmpUn d a b => Sys2Proof.Machine.execFcmpUn d a b s
  | .fclass d a => Sys2Proof.Machine.execFclass d a s
  | .fcvt d a f t r s1 => Sys2Proof.Machine.execFcvt d a f t r s1 s
  | .fsqrt d a r => Sys2Proof.Machine.execFsqrt d a r s
  | .fexp2 d a r => Sys2Proof.Machine.execFexp2 d a r s
  | .flog2 d a r => Sys2Proof.Machine.execFlog2 d a r s
  | .frcp d a r => Sys2Proof.Machine.execFrcp d a r s
  | .frsq d a r => Sys2Proof.Machine.execFrsq d a r s
  | .cld d c imm => Sys2Proof.Machine.execCld d c imm s
  | .cst s1 c imm => Sys2Proof.Machine.execCst s1 c imm s
  | .cderive d a b => Sys2Proof.Machine.execCderive d a b s
  | .cseto d a b => Sys2Proof.Machine.execCseto d a b s
  | .caddo d a b => Sys2Proof.Machine.execCaddo d a b s
  | .cgeto d a => Sys2Proof.Machine.execCgeto d a s
  | .cgetl d a => Sys2Proof.Machine.execCgetl d a s
  | .cdrop d a b => Sys2Proof.Machine.execCdrop d a b s
  | .ctag d a => Sys2Proof.Machine.execCtag d a s
  | .b o => Sys2Proof.Machine.execB o s
  | .bl o => Sys2Proof.Machine.execBl o s
  | .bx a => Sys2Proof.Machine.execBx a s
  | .blx d a => Sys2Proof.Machine.execBlx d a s
  | .beqz a o => Sys2Proof.Machine.execBeqz a o s
  | .bnez a o => Sys2Proof.Machine.execBnez a o s
  | .bltz a o => Sys2Proof.Machine.execBltz a o s
  | .bgez a o => Sys2Proof.Machine.execBgez a o s
  | .beq a b o => Sys2Proof.Machine.execBeq a b o s
  | .bne a b o => Sys2Proof.Machine.execBne a b o s
  | .blt a b o => Sys2Proof.Machine.execBlt a b o s
  | .bge a b o => Sys2Proof.Machine.execBge a b o s
  | .bltn a b o => Sys2Proof.Machine.execBltn a b o s
  | .bgen a b o => Sys2Proof.Machine.execBgen a b o s
  | .lnset n c x => Sys2Proof.Machine.execLnset n c x s
  | .lnidx n d j => Sys2Proof.Machine.execLnidx n d j s
  | .lnadr n d k => Sys2Proof.Machine.execLnadr n d k s
  | .lnstep n o => Sys2Proof.Machine.execLnstep n o s
  | .spawn x j o => Sys2Proof.Machine.execSpawn x j o s
  | .spawnReg x c j => Sys2Proof.Machine.execSpawnReg x c j s
  | .spawnj j o => Sys2Proof.Machine.execSpawnj j o s
  | .spawnjReg c j => Sys2Proof.Machine.execSpawnjReg c j s
  | .launch a => Sys2Proof.Machine.execLaunch a s
  | .lgrow a => Sys2Proof.Machine.execLgrow a s
  | .prio a => Sys2Proof.Machine.execPrio a s
  | .join a => Sys2Proof.Machine.execJoin a s
  | .leave a => Sys2Proof.Machine.execLeave a s
  | .gsync a => Sys2Proof.Machine.execGsync a s
  | .ld d c z imm => Sys2Proof.Machine.execLd d c z imm s
  | .ldZ d c z imm => Sys2Proof.Machine.execLdZ d c z imm s
  | .st s1 c z imm => Sys2Proof.Machine.execSt s1 c z imm s
  | .ldx d c z x e => Sys2Proof.Machine.execLdx d c z x e s
  | .stx s1 c z x => Sys2Proof.Machine.execStx s1 c z x s
  | .lda d c z x p e => Sys2Proof.Machine.execLda d c z x p e s
  | .stl s1 c z x p => Sys2Proof.Machine.execStl s1 c z x p s
  | .pref c z imm => Sys2Proof.Machine.execPref c z imm s
  | .amo o d s1 c p imm => Sys2Proof.Machine.execAmo o d s1 c p imm s
  | .cas d s1 c imm o f => Sys2Proof.Machine.execCas d s1 c imm o f s
  | .red s1 c p o imm => Sys2Proof.Machine.execRed s1 c p o imm s
  | .redv s1 c p o imm => Sys2Proof.Machine.execRedv s1 c p o imm s
  | .wait l s1 c t h => Sys2Proof.Machine.execWait l s1 c t h s
  | .knot m s1 => Sys2Proof.Machine.execKnot m s1 s
  | .binit c x imm => Sys2Proof.Machine.execBinit c x imm s
  | .barr c x imm => Sys2Proof.Machine.execBarr c x imm s
  | .bwait c p imm => Sys2Proof.Machine.execBwait c p imm s
  | .btest c d imm => Sys2Proof.Machine.execBtest c d imm s
  | .copy d s1 x b imm => Sys2Proof.Machine.execCopy d s1 x b imm s
  | .copyM d s1 x b imm => Sys2Proof.Machine.execCopyM d s1 x b imm s
  | .copyn n b imm => Sys2Proof.Machine.execCopyn n b imm s
  | .copyt c x t b imm => Sys2Proof.Machine.execCopyt c x t b imm s
  | .migr c x b imm => Sys2Proof.Machine.execMigr c x b imm s
  | .cred d s1 x f b => Sys2Proof.Machine.execCred d s1 x f b s
  | .copyr d s1 x b imm => Sys2Proof.Machine.execCopyr d s1 x b imm s
  | .vadd d a b m e => Sys2Proof.Machine.execVadd d a b m e s
  | .vsub d a b m e => Sys2Proof.Machine.execVsub d a b m e s
  | .vmul d a b m e => Sys2Proof.Machine.execVmul d a b m e s
  | .vfma d a b m e => Sys2Proof.Machine.execVfma d a b m e s
  | .vmin d a b m e => Sys2Proof.Machine.execVmin d a b m e s
  | .vmax d a b m e => Sys2Proof.Machine.execVmax d a b m e s
  | .vand d a b m => Sys2Proof.Machine.execVand d a b m s
  | .vor d a b m => Sys2Proof.Machine.execVor d a b m s
  | .vxor d a b m => Sys2Proof.Machine.execVxor d a b m s
  | .vshl d a b m w => Sys2Proof.Machine.execVshl d a b m w s
  | .vshr d a b m w => Sys2Proof.Machine.execVshr d a b m w s
  | .vcmp d a b c e => Sys2Proof.Machine.execVcmp d a b c e s
  | .vsel d a b m e => Sys2Proof.Machine.execVsel d a b m e s
  | .vcvt d a f t r s1 => Sys2Proof.Machine.execVcvt d a f t r s1 s
  | .vred d a o m e => Sys2Proof.Machine.execVred d a o m e s
  | .vld v c imm => Sys2Proof.Machine.execVld v c imm s
  | .vst v c imm => Sys2Proof.Machine.execVst v c imm s
  | .vgath v c x e => Sys2Proof.Machine.execVgath v c x e s
  | .vscat v c x e a => Sys2Proof.Machine.execVscat v c x e a s
  | .vbcast d x e => Sys2Proof.Machine.execVbcast d x e s
  | .vperm d a b => Sys2Proof.Machine.execVperm d a b s
  | .vexp2 d a e => Sys2Proof.Machine.execVexp2 d a e s
  | .vrcp d a e => Sys2Proof.Machine.execVrcp d a e s
  | .vbset v x => Sys2Proof.Machine.execVbset v x s
  | .vbtst d a b e => Sys2Proof.Machine.execVbtst d a b e s
  | .vmatch d a b => Sys2Proof.Machine.execVmatch d a b s
  | .vmovxToX x v l => Sys2Proof.Machine.execVmovxToX x v l s
  | .vmovxToV x v l => Sys2Proof.Machine.execVmovxToV x v l s
  | .topk d a k e => Sys2Proof.Machine.execTopk d a k e s
  | .tmma d a b => Sys2Proof.Machine.execTmma d a b s
  | .tadd d a b r s1 => Sys2Proof.Machine.execTadd d a b r s1 s
  | .tmul d a b r s1 => Sys2Proof.Machine.execTmul d a b r s1 s
  | .tcvt d a r s1 => Sys2Proof.Machine.execTcvt d a r s1 s
  | .ttrans d a r s1 => Sys2Proof.Machine.execTtrans d a r s1 s
  | .tzero d => Sys2Proof.Machine.execTzero d s
  | .tzeroAcc d => Sys2Proof.Machine.execTzeroAcc d s
  | .trowmax a d => Sys2Proof.Machine.execTrowmax a d s
  | .trowsum a d => Sys2Proof.Machine.execTrowsum a d s
  | .tmovv a d r => Sys2Proof.Machine.execTmovv a d r s
  | .tdrain a r => Sys2Proof.Machine.execTdrain a r s
  | .tld d c p imm => Sys2Proof.Machine.execTld d c p imm s
  | .tst d c p imm => Sys2Proof.Machine.execTst d c p imm s
  | .mttc t x => Sys2Proof.Machine.execMttc t x s
  | .mftc t d => Sys2Proof.Machine.execMftc t d s
  | .tclaim a => Sys2Proof.Machine.execTclaim a s
  | .tldn d n => Sys2Proof.Machine.execTldn d n s
  | .tgemm a p q n => Sys2Proof.Machine.execTgemm a p q n s
  | .tsave c => Sys2Proof.Machine.execTsave c s
  | .trest c => Sys2Proof.Machine.execTrest c s
  | .bgload d c => Sys2Proof.Machine.execBgload d c s
  | .bgrun a b c r => Sys2Proof.Machine.execBgrun a b c r s
  | .bgfree a => Sys2Proof.Machine.execBgfree a s
  | .bgstat d a => Sys2Proof.Machine.execBgstat d a s
  | .attn c => Sys2Proof.Machine.execAttn c s
  | .amerge d a b => Sys2Proof.Machine.execAmerge d a b s
  | .summ c x => Sys2Proof.Machine.execSumm c x s
  | .kvapp c x => Sys2Proof.Machine.execKvapp c x s
  | .kvmap d a => Sys2Proof.Machine.execKvmap d a s
  | .kvshoot a b => Sys2Proof.Machine.execKvshoot a b s
  | .sldh d c => Sys2Proof.Machine.execSldh d c s
  | .sst s1 c => Sys2Proof.Machine.execSst s1 c s
  | .smix d a b => Sys2Proof.Machine.execSmix d a b s
  | .semb d s1 c => Sys2Proof.Machine.execSemb d s1 c s
  | .scollMax d s1 => Sys2Proof.Machine.execScollMax d s1 s
  | .scollSmp d s1 u => Sys2Proof.Machine.execScollSmp d s1 u s
  | .sdig d s1 => Sys2Proof.Machine.execSdig d s1 s
  | .slog s1 c x => Sys2Proof.Machine.execSlog s1 c x s
  | .sreplay d c x => Sys2Proof.Machine.execSreplay d c x s
  | .splfind d c x => Sys2Proof.Machine.execSplfind d c x s
  | .splins c a b => Sys2Proof.Machine.execSplins c a b s
  | .splref a b => Sys2Proof.Machine.execSplref a b s
  | .plycut a k => Sys2Proof.Machine.execPlycut a k s
  | .trap imm => Sys2Proof.Machine.execTrap imm s
  | .mfs d r => Sys2Proof.Machine.execMfs d r s
  | .mts a r => Sys2Proof.Machine.execMts a r s
  | .brk imm => Sys2Proof.Machine.execBrk imm s
  | .otinv a => Sys2Proof.Machine.execOtinv a s
  | .tlbinv a s1 => Sys2Proof.Machine.execTlbinv a s1 s
  | .illegalWord w => Sys2Proof.Machine.execIllegalWord w s
  | .resultVisible slot => Sys2Proof.Machine.execResultVisible slot s
  | .longOpComplete slot op => Sys2Proof.Machine.execLongOpComplete slot op s
  | .endcRelease slot => Sys2Proof.Machine.execEndcRelease slot s
  | .commitRetire slot => Sys2Proof.Machine.execCommitRetire slot s
  | .completionActionResume lid => Sys2Proof.Machine.execCompletionActionResume lid s
  | .launchRegisterWrite iface w => Sys2Proof.Machine.execLaunchRegisterWrite iface w s
  | .launchIdAssign n => Sys2Proof.Machine.execLaunchIdAssign n s
  | .dispatch core => Sys2Proof.Machine.execDispatch core s
  | .starvationGuardArm die => Sys2Proof.Machine.execStarvationGuardArm die s
  | .pageWalkReturn slot => Sys2Proof.Machine.execPageWalkReturn slot s
  | .pagePresentResume slot => Sys2Proof.Machine.execPagePresentResume slot s
  | .spillElementPerform port n => Sys2Proof.Machine.execSpillElementPerform port n s
  | .chunkComplete slot op n => Sys2Proof.Machine.execChunkComplete slot op n s
  | .migrationSwitch n => Sys2Proof.Machine.execMigrationSwitch n s
  | .shootdownComplete n => Sys2Proof.Machine.execShootdownComplete n s
  | .macroStep slot op => Sys2Proof.Machine.execMacroStep slot op s
  | .apipeJobTake die pipe => Sys2Proof.Machine.execApipeJobTake die pipe s
  | .apipeBlockMerge die pipe n => Sys2Proof.Machine.execApipeBlockMerge die pipe n s
  | .frameReturn n => Sys2Proof.Machine.execFrameReturn n s
  | .braidInputVector die handle => Sys2Proof.Machine.execBraidInputVector die handle s
  | .braidVectorOutput die handle => Sys2Proof.Machine.execBraidVectorOutput die handle s
  | .credGroupComplete slot op n => Sys2Proof.Machine.execCredGroupComplete slot op n s
  | .preemptionRequest slot => Sys2Proof.Machine.execPreemptionRequest slot s
  | .watchdogExpiry slot => Sys2Proof.Machine.execWatchdogExpiry slot s
  | .watchdogHandlerTimeout slot => Sys2Proof.Machine.execWatchdogHandlerTimeout slot s
  | .machineError slot => Sys2Proof.Machine.execMachineError slot s
  | .idleWake slot => Sys2Proof.Machine.execIdleWake slot s
  | .coreRetire die core => Sys2Proof.Machine.execCoreRetire die core s
  | .powerHold core cycles => Sys2Proof.Machine.execPowerHold core cycles s
  | .thermalHold die cycles => Sys2Proof.Machine.execThermalHold die cycles s
  | .interfaceConfigure iface cfg => Sys2Proof.Machine.execInterfaceConfigure iface cfg s
  | .hostWindowWrite iface off bytes => Sys2Proof.Machine.execHostWindowWrite iface off bytes s
  | .hostWindowRead iface off size => Sys2Proof.Machine.execHostWindowRead iface off size s
  | .ndoedLaneFail port => Sys2Proof.Machine.execNdoedLaneFail port s
  | .remoteRequest r => Sys2Proof.Machine.execRemoteRequest r s
  | .remoteAccessTimeout slot op => Sys2Proof.Machine.execRemoteAccessTimeout slot op s
  | .cxlPortFail port => Sys2Proof.Machine.execCxlPortFail port s
  | .firmwareImageLoad image sig => Sys2Proof.Machine.execFirmwareImageLoad image sig s
  | .abxLoad args file => Sys2Proof.Machine.execAbxLoad args file s
  | .seqStep iface => Sys2Proof.Machine.execSeqStep iface s
  | .interfaceReset iface => Sys2Proof.Machine.execInterfaceReset iface s
  | .attestationRequest nonce => Sys2Proof.Machine.execAttestationRequest nonce s
  | .domainBringUp dev => Sys2Proof.Machine.execDomainBringUp dev s
  | .dieTemperatureFall die => Sys2Proof.Machine.execDieTemperatureFall die s
  | .endc => Sys2Proof.Machine.execEndc s
  | .commit => Sys2Proof.Machine.execCommit s
  | .eret => Sys2Proof.Machine.execEret s
  | .idle => Sys2Proof.Machine.execIdle s
  | .thermalShutdown => Sys2Proof.Machine.execThermalShutdown s
  | .capabilityListUpdate => Sys2Proof.Machine.execCapabilityListUpdate s
  | .moduleReset => Sys2Proof.Machine.execModuleReset s

end Sys2Proof.Machine
end

