-- ==== Sys2Proof/Machine/Step.lean ====
section
/-! DEFINITION. One step of the machine, and a word put where the next step fetches. -/

namespace Sys2Proof.Machine

/-- The events of a list that change something, each when its turn comes after those before it. -/
def State.due (s : State) : List Instr → List Instr
  | [] => []
  | i :: is => match exec i s with
    | .next t => if t = s then s.due is else i :: t.due is
    | _ => s.due is

/-- What the default schedule does next: every event that changes something, then the focus passes on (log 17). -/
def State.chores (s : State) : List Act := (s.due s.candidates).map Act.event ++ s.postedActs ++ s.queueActs ++ s.turnActs

/-- The state in which the chosen slot's word is fetched and executed: every 64th cycle the default schedule has its
turn after it (log 17). -/
def State.issuePoint (s : State) : State :=
  let p := s.choose.prepare
  if p.time % 64 = 0 then { p with agenda := p.chores } else p

/-- A slot that is to issue: a trap whose drain is over is entered (26 R308), else its word is fetched and executed. -/
def State.issueStep (p : State) : Out :=
  match p.me.trapPend with
  | some t => .next (p.enterTrap p.me.id t)
  | none => match p.fetch with
    | .error e => finish p (.error e)
    | .ok w => exec (instrOf w) { p with ir := w }

/-- A cycle of the core in focus (03 R55). The slot is chosen before its word is fetched: where the word then stalls, the cycle
is used (log 8). -/
def State.cycleStep (s : State) : Out :=
  if s.core.absent then .next { s with agenda := s.chores }
  else if 0 < s.core.hold then .next s.held
  else if s.choose.goes then s.issuePoint.issueStep
  else if s.choose.gapping then .next s.choose
  else .next { s.choose with agenda := s.choose.chores }

/-- What happens while the dies are powered down (31 R355): on the links and in the memory devices, the list that the host
reads, a falling temperature, and what brings the module up again; log 81. -/
def offEvent : Instr → Bool
  | .ndoedLaneFail _ | .cxlPortFail _ | .capabilityListUpdate | .dieTemperatureFall _ | .firmwareImageLoad _ _ | .moduleReset => true
  | _ => false

/-- The acts of agents outside the dies: other bus masters, and the device's measuring of its inlet; log 81. -/
def Act.off : Act → Bool
  | .event i => offEvent i
  | .poke _ _ _ | .inlet _ => true
  | _ => false

/-- An act of another agent. Dies that firmware has powered down take part in none (31 R355). -/
def State.actStep (s : State) (a : Act) : Out :=
  if s.module.boot = .off ∧ a.off = false then .next s else
  match a with
  | .event i => if isEvent i then exec i s else .next s
  | a => .next (s.act a)

/-- One step: an act that is due, else a cycle of the core in focus; dies that firmware has powered down do nothing
(31 R355). -/
def step (s : State) : Host.Outcome State Fault Refusal :=
  match s.agenda with
  | a :: as => State.actStep { s with agenda := as } a
  | [] => if s.module.boot = .off then .fault .poweredDown else s.cycleStep

/-- The state with an instruction where the next step fetches one: at the next fetch of the core in focus where it has
one, else in the program of a continuation placed in its current slot (log 6). -/
def State.withFetchWord (s : State) (_nbits w : Nat) : State :=
  let t := { s with agenda := [] }
  match t.nextFetch with
  | some g => t.writeSegs g (bytesOf 4 w)
  | none =>
    let u := t.placeProgram
    { u with mem := u.mem.writes 0 (16 * 65536) (bytesOf 4 w) }

end Sys2Proof.Machine
end

