-- ==== Sys2Proof/Safety.lean ====
section
/-! DEFINITION. The terms in which claims about the machine are stated: a safe step, the effect of a word that issues
written out field by field, a trap's entry, and the memory an access leaves alone. -/

namespace Sys2Proof.Machine

/-- A step is safe where the machine answers a next state: it neither stops nor meets an instruction without a meaning. -/
def Safe (s : State) : Prop := ∃ t, step s = .next t

/-- A word issues and the pc passes to `pc` (07 R83, 08 R120): G opens its gap, Y is remembered with the slot, `f` says what else
changes in the slot, and everything that is not named here stays as it was. -/
def State.jumps (s : State) (pc : BitVec 48) (f : Slot → Slot) : State :=
  { s with
    me := f { s.me with
      ctx := { s.me.ctx with pc := pc }
      gapUntil := s.core.cycle + bits s.ir.toNat 31 30
      grant := none }
    core := { s.core with lastY := s.ir.getLsbD 29, lastBy := s.me.id } }

/-- A word issues and the pc passes to the next word. -/
def State.passes (s : State) (f : Slot → Slot) : State := s.jumps (s.me.ctx.pc + 4) f

/-- A word issues with a fixed-latency result: `w` is written in issue cycle c + latency (03 R56), and pushed into l0
where `push` holds (07 R88). -/
def State.results (s : State) (latency : Nat) (w : RegWrite) (push : Bool) : State :=
  s.passes fun m => { m with pend := m.pend ++ [⟨s.core.cycle + latency, w, push⟩] }

/-- A word issues as a long operation of a class (03 R58): it is the last of the slot's operations. -/
def State.starts (s : State) (k : Cls) (t : Task) (sp : List (Nat × Nat × Bool)) : State :=
  let u := s.passes fun m => { m with
    ops := m.ops ++ [⟨s.nextOp, k, s.me.lvl, s.ir, s.me.iface, s.me.ctx.r.lid, t, sp, false, [], false⟩] }
  { u with nextOp := s.nextOp + 1 }

/-- Fewer operations of the class are outstanding at the slot's level than its maximum (03 R58). -/
abbrev State.hasRoom (s : State) (k : Cls) : Prop := s.me.count k s.me.lvl < k.max

/-- The current slot belongs to a compute core, in task mode. -/
abbrev State.onCompute (s : State) : Prop := s.general = false

/-- The supervisor's data capability of an interface. -/
def State.superData (s : State) (i : Nat) : Cap := match s.cfg i with | some c => c.superData | none => Cap.null

/-- The entry of a trap at level 0 or 1 (26 R308), once nothing has to drain: every result issued is visible and pushed,
the bank of the next level takes TPC, cause, TVAL, l0-l3 and c15, and the handler's word comes next. -/
def State.trapped (s : State) (cause sub : Nat) (val : XWord) (tpc : BitVec 48) : State :=
  let m := s.me.deliverAll
  let b : Bank := ⟨tpc, .ofNat 12 (sub * 256 + cause), val, m.ctx.l, vget m.ctx.c 15 Cap.null, false⟩
  { s with me := { m with
    ctx := { m.ctx with
      c := vset m.ctx.c 15 (s.superData m.iface)
      pc := (s.iface m.iface).tbase.truncate 48 + .ofNat 48 (64 * cause) }
    bank1 := if m.lvl = 0 then b else m.bank1
    bank2 := if m.lvl = 0 then m.bank2 else b
    lvl := m.lvl + 1
    block := none
    grant := none
    trapPend := none } }

/-- The slot may take a trap at once (26 R308): what has to drain is log 23 (the model's reading). -/
abbrev State.mayTrap (s : State) : Prop := s.me.lvl < 2 ∧ s.me.drained false = true

/-- An address lies outside every piece of an access. -/
abbrev State.outside (s : State) (segs : List Seg) (a : Nat) : Prop :=
  ∀ g ∈ segs, a < s.canon g.pa ∨ s.canon g.pa + g.len ≤ a

/-- Reading address a with key k is untouched by a write to the pieces, all under one key: a lies outside them, and the
64-byte block of a, the unit of encryption, is not among theirs, or k is that key (10 R162). -/
abbrev State.apart (s : State) (segs : List Seg) (key k a : Nat) : Prop :=
  s.outside segs a ∧ (k = key ∨ encryptedEnd ≤ a ∨
    ∀ g ∈ segs, ∀ i, i < g.len → (s.canon g.pa + i) / 64 ≠ a / 64)

/-- No two pieces of an access share a byte. -/
abbrev State.separate (s : State) (segs : List Seg) : Prop :=
  segs.Pairwise fun g h => s.canon g.pa + g.len ≤ s.canon h.pa ∨ s.canon h.pa + h.len ≤ s.canon g.pa

/-- Byte i of a register value. -/
def byteAt (v : XWord) (i : Nat) : Byte := (v >>> (8 * i)).truncate 8

/-- The general core's vector unit is free, or the core is a compute core (15 R207). -/
abbrev State.vectorFree (s : State) : Prop := s.general = false ∨ s.core.vecBusy < s.core.cycle

/-- The word issues with a vector-class result at its latency, three cycles later on a general core, whose vector unit is
then occupied for four of its cycles (15 R206, R207). -/
def State.vectorGives (s : State) (i : Instr) (latency : Nat) (w : RegWrite) : Prop :=
  exec i s = .next ((s.results (if s.general then latency + 3 else latency) w false).vecUsed)

/-- A branch target is accepted (08 R120): a multiple of 4 whose word lies inside the code object. -/
abbrev State.targetIn (s : State) (t : Int) : Prop := t % 4 = 0 ∧ 0 ≤ t ∧ t + 4 ≤ s.codeCap.len

/-- The current slot has the operation `o` of name `id`, and nothing before it in the slot has to be performed first. None of
its elements has failed (10 R154), and no piece that it holds lies in a frame that a port has lost (28 R334). -/
abbrev State.mayComplete (s : State) (id : Nat) (o : Op) : Prop :=
  s.me.op? id = some o ∧ s.mayGo s.me.id o true = true ∧ o.halted = false ∧ s.lost o.task.segs = none

/-- A code of FP32 in the order of the numbers, −0 below +0. -/
def fpKey (w : Nat) : Int := if w < 2 ^ 31 then w else -((w : Int) - 2 ^ 31) - 1

/-- A code of FP32 is a NaN. -/
abbrev fpNan (w : Nat) : Prop := 0x7F800000 < w % 2 ^ 31

/-- A code of a float lane type is a NaN (05 R61, 15 R203). -/
def laneNan (e : BitVec 3) (x : Nat) : Prop :=
  let m := x % 2 ^ ((etFmt e).width - 1)
  match e.toNat with
  | 1 => 0x7F800000 < m
  | 3 => 0x7F80 < m
  | 4 => 0x7C00 < m
  | 6 => m = 0x7F
  | 7 => 0x7C < m
  | _ => False

/-- The canonical NaN of a float lane type (15 R205). -/
def laneQuiet (e : BitVec 3) : Nat :=
  match e.toNat with
  | 1 => 0x7FC00000
  | 3 => 0x7FC0
  | 4 => 0x7E00
  | 6 => 0x7F
  | _ => 0x7E

/-- A code of a lane type as an integer of the same order as the values: signed for integer types, sign and magnitude for
float types, where −0 and +0 are equal. -/
def laneKey (e : BitVec 3) (x : Nat) : Int :=
  let w := (etFmt e).width
  if (etFmt e).isInt then (BitVec.ofNat w x).toInt
  else if x < 2 ^ (w - 1) then x else -((x : Int) - 2 ^ (w - 1))

/-- The same with −0 below +0, as VMIN and VMAX order them (15 R205, 08 R117). -/
def laneRank (e : BitVec 3) (x : Nat) : Int :=
  let w := (etFmt e).width
  if (etFmt e).isInt then (BitVec.ofNat w x).toInt
  else if x < 2 ^ (w - 1) then x else -((x : Int) - 2 ^ (w - 1)) - 1

/-- The word of an RRR form without marks (07 R84). -/
def rrr (major : Nat) (d a b : BitVec 6) (fn : Nat) : Nat :=
  major * 2 ^ 22 + d.toNat * 2 ^ 16 + a.toNat * 2 ^ 10 + b.toNat * 2 ^ 4 + fn

end Sys2Proof.Machine
end

