-- ==== Sys2Proof/Certificates/Slice0/Obligations.lean ====
section
/-! DEFINITION. The statements about the machine, from the rules of the manual. -/

open Sys2Proof Sys2Proof.Machine

/-! ### Encoding -/

/-- Decode and encode agree (07 R82-R84, R93-R107): the word of a well-formed instruction, with any marks, decodes to
that instruction, and its marks stand in bits [31:30] and [29]; two words that differ in their marks only decode alike. -/
def Obligations.EncodedWordDecodes : Prop :=
  (∀ (i : Instr) (g : BitVec 2) (y : BitVec 1), wellFormed i = true →
    ∃ w, encode i g y = some w ∧ decode w = .ok i ∧ w.extractLsb' 30 2 = g ∧ w.extractLsb' 29 1 = y) ∧
  (∀ v w : Word, v.extractLsb' 0 29 = w.extractLsb' 0 29 → decode v = decode w)

/-- Every word that decodes is the word of the well-formed instruction it decodes to (07 R84, R107): no bit of it is
ignored but the marks, which are the word's own, so a reserved bit that is set refuses the word. -/
def Obligations.DecodedWordEncodes : Prop :=
  ∀ (w : Word) (i : Instr), decode w = .ok i →
    wellFormed i = true ∧ encode i (w.extractLsb' 30 2) (w.extractLsb' 29 1) = some w

/-- Every major opcode without a row in the group maps raises illegal instruction (07 R93): a word with such a major
decodes to nothing, the instruction executed for it is the illegal word, and it takes the trap. An all-zero word is one. -/
def Obligations.UnassignedMajorsRaiseIllegalInstruction : Prop :=
  (∀ w : Word, (w.extractLsb' 22 7).toNat ∈
      [0x00, 0x04, 0x05, 0x06, 0x07, 0x08, 0x09, 0x0A, 0x0B, 0x0C, 0x0D, 0x0E, 0x0F, 0x1E, 0x1F, 0x2B, 0x2C, 0x2D, 0x2E,
        0x2F, 0x45, 0x46, 0x47, 0x5F, 0x77, 0x79, 0x7B, 0x7D, 0x7F] →
    (∀ i, decode w ≠ .ok i) ∧ instrOf w = .illegalWord w ∧
    ∀ s : State, s.mayTrap → exec (instrOf w) s = .next (s.trapped 1 0 (w.zeroExtend 64) s.me.ctx.pc)) ∧
  ((0 : Word).extractLsb' 22 7).toNat = 0

/-- Words written out in the manual's own examples (07 R108, 08 R122, R140, R134, R135) decode to the instructions they
stand for. -/
def Obligations.WordsOfTheManual : Prop :=
  decode 0x40430420#32 = .ok (.add 3 1 2) ∧
  decode 0x4685C201#32 = .ok (.movk0 5 0xC201) ∧
  decode 0x12011C01#32 = .ok (.ld 1 1 3 1) ∧
  decode 0x2D41FFFE#32 = .ok (.bnez 1 0xFFFE) ∧
  decode 0x1581FFFF#32 = .ok (.wait 0 31 15 15 15) ∧
  decode 0x1C000400#32 = .ok (.tmma 0 0 1) ∧
  decode 0x14041105#32 = .ok (.amo 0 2 1 1 0 5) ∧
  decode 0x0E851BFD#32 = .ok (.blt 5 6 0x3FD) ∧
  decode 0x1084000C#32 = .ok (.spawnj 4 12) ∧
  decode 0x11001403#32 = .ok (.lgrow 5) ∧
  decode 0x11000C05#32 = .ok (.join 3) ∧
  decode 0x08C40422#32 = .ok (.ffma 4 1 2 1) ∧
  decode 0x09420431#32 = .ok (.fcvt 2 1 0 3 0 1) ∧
  decode 0x11000000#32 = .ok .endc ∧
  decode 0x11000001#32 = .ok .commit

/-! ### Issue -/

/-- A step in which the current slot issues runs the decoded instruction (03 R55, 07 R107): with no act due, a core that
is present and not held, and an eligible current slot, the step fetches the word at the pc and executes what it decodes
to, or the illegal word where it decodes to nothing; what the step adds around it is the cycle count, the choice of the
slot, its visible results and an agenda for the other agents. That other agents act between cycles, from an agenda that
is filled on every 64th cycle of TIME, is the model's schedule (logs 1 and 17, DESIGN CHOICE). -/
def Obligations.StepRunsTheDecodedWord : Prop :=
  ∀ (s : State) (w : Word), s.agenda = [] → s.module.boot ≠ .off → s.core.absent = false → s.core.hold = 0 →
    s.choose.goes = true → s.choose.prepare.me.trapPend = none → s.choose.prepare.fetch = .ok w →
    ∃ acts, (s.choose.prepare.time % 64 ≠ 0 → acts = s.choose.prepare.agenda) ∧
      (∀ i, decode w = .ok i → step s = exec i { s.choose.prepare with agenda := acts, ir := w }) ∧
      ((∀ i, decode w ≠ .ok i) → step s = exec (.illegalWord w) { s.choose.prepare with agenda := acts, ir := w })

/-- What 6-bit and 5-bit specifiers name (07 R86, R87): x0-x47 and o0-o7 are read and written, l0-l3 are read, xz reads 0,
xi and xf read the continuation's index and frame offset, and a write to xz is discarded; a word that names l0-l3, xi, xf or
63 as its destination, or 63 as a source, is an illegal instruction, shown for the majors 0x01, 0x02 and 0x10-0x1D. When
fixed-latency results become visible (03 R56): those whose cycle has come are applied by cycle and, within one
cycle, in issue order, and the others wait; a result that pushes moves l0 to l1, l1 to l2 and l2 to l3. -/
def Obligations.RegistersAndTheirResults : Prop :=
  (∀ (s : State) (c : Ctx) (r d : BitVec 6) (v : XWord),
    (∀ h : r.toNat < 56, c.readX r = c.x[r.toNat]'h) ∧
    c.readX 56 = c.l[0] ∧ c.readX 57 = c.l[1] ∧ c.readX 58 = c.l[2] ∧ c.readX 59 = c.l[3] ∧
    c.readX 60 = 0 ∧ c.readX 61 = c.r.index.zeroExtend 64 ∧ c.readX 62 = c.r.foff.zeroExtend 64 ∧
    (d.toNat < 56 → (c.writeX d v).readX d = v) ∧
    (r ≠ d → (c.writeX d v).readX r = c.readX r) ∧
    c.writeX 60 v = c ∧
    s.rx5 31 = 0 ∧ (∀ k : BitVec 5, k ≠ 31 → s.rx5 k = s.rx (k.zeroExtend 6))) ∧
  (∀ w : Word,
    ((w.extractLsb' 22 7).toNat ∈ [0x01, 0x02, 0x10, 0x11, 0x12, 0x13, 0x14, 0x15, 0x16, 0x17, 0x18, 0x19, 0x1A, 0x1B, 0x1C, 0x1D] ∧
      (w.extractLsb' 16 6).toNat ∈ [56, 57, 58, 59, 61, 62, 63]) ∨
    ((w.extractLsb' 22 7).toNat ∈ [0x01, 0x02] ∧ (w.extractLsb' 10 6 = 63 ∨ w.extractLsb' 4 6 = 63)) →
    (∀ i, decode w ≠ .ok i) ∧ instrOf w = .illegalWord w) ∧
  ((∀ ps : List Pend, (sortPend ps).Pairwise (fun a b => a.at_ ≤ b.at_) ∧
    ∀ n, (sortPend ps).filter (·.at_ == n) = ps.filter (·.at_ == n)) ∧
  (∀ (m : Slot) (now : Nat), (m.deliver now).pend = m.pend.filter (fun p => decide (now < p.at_)) ∧
    (m.deliver now).ctx = (sortPend (m.pend.filter fun p => decide (p.at_ ≤ now))).foldl Ctx.apply m.ctx) ∧
  (∀ (c : Ctx) (p : Pend) (d : BitVec 6) (v : XWord), p.wr = .x d v →
    (c.apply p).x = (c.writeX d v).x ∧
    (c.apply p).l = if p.push then #v[v, c.l[0], c.l[1], c.l[2]] else c.l))

/-- Which slot a cycle belongs to (03 R54, R55): the core's cycle advances by one, and TIME with a cycle of a compute core,
while a cycle of a general core takes TIME on as far as its own clock of 3.0 GHz has come (02 R24, R26; that TIME goes on
with the cycles of the core in focus is the model's choice, log 49); a gap alone never moves issue;
after a Y mark, or when the current slot is blocked, issue moves to the first eligible slot after it in slot-number
order, wrapping, and stays where there is none; a slot whose word issued with gap G is not eligible during the G cycles
after it. -/
def Obligations.IssueMovesByYieldAndBlocking : Prop :=
  (∀ s : State, s.choose.core.cycle = s.core.cycle + 1 ∧ (s.core.id / 128 ≠ 2 → s.choose.time = s.time + 1) ∧
    (s.core.id / 128 = 2 → s.choose.time = max s.time (7 * s.choose.core.clock / 15)) ∧
    s.choose.core.clock = s.clockOf s.core.id + 1) ∧
  (∀ s : State, let t : State := { s.tick with core := { s.tick.core with cycle := s.core.cycle + 1 } }
    (s.core.lastY = false → t.blocked (t.numbered s.core.cur) = false → s.choose.core.cur = s.core.cur) ∧
    (s.core.lastY = true ∨ t.blocked (t.numbered s.core.cur) = true →
      (∃ i, i < slotsOf s.core.id ∧ s.choose.core.cur = (s.core.cur + 1 + i) % slotsOf s.core.id ∧
        t.eligible (t.numbered s.choose.core.cur) = true ∧
        ∀ k, k < i → t.eligible (t.numbered ((s.core.cur + 1 + k) % slotsOf s.core.id)) = false) ∨
      (s.choose.core.cur = s.core.cur ∧
        ∀ k, k < slotsOf s.core.id → t.eligible (t.numbered ((s.core.cur + 1 + k) % slotsOf s.core.id)) = false))) ∧
  (∀ (s t : State) (m : Slot), m.gapUntil = (s.passes id).me.gapUntil → m.trapPend = none →
    t.core.cycle ≤ s.core.cycle + (s.ir.extractLsb' 30 2).toNat → t.eligible m = false)

/-! ### Integer instructions -/

/-- Major 0x01 (08 R110): every form's word, and its result, pushed at latency 2. -/
def Obligations.IntegerRegisterResults : Prop :=
  ∀ (s : State) (d a b : BitVec 6), let x := s.rx a; let y := s.rx b; let k := y.toNat % 64
    let gives (i : Instr) (fn : Nat) (v : XWord) : Prop :=
      encodeNat i = some (rrr 0x01 d a b fn) ∧ exec i s = .next (s.results 2 (.x d v) true)
    gives (.add d a b) 0 (x + y) ∧ gives (.sub d a b) 1 (x - y) ∧ gives (.and d a b) 2 (x &&& y) ∧
    gives (.or d a b) 3 (x ||| y) ∧ gives (.xor d a b) 4 (x ^^^ y) ∧ gives (.andn d a b) 5 (x &&& ~~~y) ∧
    gives (.shl d a b) 6 (x <<< k) ∧ gives (.shr d a b) 7 (x >>> k) ∧ gives (.sar d a b) 8 (x.sshiftRight k) ∧
    gives (.min d a b) 9 (if x.slt y then x else y) ∧ gives (.max d a b) 10 (if x.slt y then y else x) ∧
    gives (.minz d a b) 11 (if x.ult y then x else y) ∧ gives (.maxz d a b) 12 (if x.ult y then y else x) ∧
    gives (.slt d a b) 13 (if x.slt y then 1 else 0) ∧ gives (.sltz d a b) 14 (if x.ult y then 1 else 0) ∧
    gives (.seq d a b) 15 (if x = y then 1 else 0)

/-- Major 0x02 (08 R111). The low half and the high halves of the 128-bit products are pushed at latency 4. Quotients and
remainders are long operations of class G: the quotient of a zero divisor is all ones and the remainder the dividend; else
quotients round toward zero and the remainder is what they leave. -/
def Obligations.ProductsAndQuotients : Prop :=
  (∀ (s : State) (d a b : BitVec 6), let x := s.rx a; let y := s.rx b
    exec (.mul d a b) s = .next (s.results 4 (.x d (x * y)) true) ∧
    exec (.mulh d a b) s = .next (s.results 4 (.x d ((x.signExtend 128 * y.signExtend 128).extractLsb' 64 64)) true) ∧
    exec (.mulhz d a b) s = .next (s.results 4 (.x d ((x.zeroExtend 128 * y.zeroExtend 128).extractLsb' 64 64)) true)) ∧
  (∀ (s : State) (d a b : BitVec 6), s.hasRoom .G → let x := s.rx a; let y := s.rx b
    ∃ q r q' r' : XWord,
      exec (.div d a b) s = .next (s.starts .G (.value d q) []) ∧
      exec (.rem d a b) s = .next (s.starts .G (.value d r) []) ∧
      exec (.divz d a b) s = .next (s.starts .G (.value d q') []) ∧
      exec (.remz d a b) s = .next (s.starts .G (.value d r') []) ∧
      (y = 0 → q = .allOnes 64 ∧ q' = .allOnes 64 ∧ r = x ∧ r' = x) ∧
      (y ≠ 0 →
        q = BitVec.ofInt 64 (x.toInt.tdiv y.toInt) ∧ r.toInt = x.toInt - x.toInt.tdiv y.toInt * y.toInt ∧
        x.toNat = q'.toNat * y.toNat + r'.toNat ∧ r'.toNat < y.toNat))

/-- Major 0x03, bit by bit (08 R112); MOVI and the four MOVK (08 R114): MOVI sign-extends imm16, and MOVK at q replaces
bits [q + 15:q] of its own d, which it reads in its issue cycle. -/
def Obligations.BitFieldAndMoveResults : Prop :=
  (∀ (s : State) (d a b p : BitVec 6), let x := s.rx a; let y := s.rx b; let z := s.rx d
    let pos := y.toNat % 64
    let w := y.toNat / 256 % 64 + 1
    let gives (i : Instr) (v : XWord) : Prop := exec i s = .next (s.results 2 (.x d v) true)
    ∃ n t c e f g h : XWord,
      gives (.clz d a) n ∧ gives (.ctz d a) t ∧ gives (.popc d a) c ∧ gives (.sext d a p) e ∧ gives (.zext d a p) f ∧
      gives (.sel d a b) (if z ≠ 0 then x else y) ∧ gives (.bext d a b) g ∧ gives (.bins d a b) h ∧
      n.toNat ≤ 64 ∧ (∀ i, 64 - n.toNat ≤ i → x.getLsbD i = false) ∧ (n.toNat < 64 → x.getLsbD (63 - n.toNat) = true) ∧
      t.toNat ≤ 64 ∧ (∀ i, i < t.toNat → x.getLsbD i = false) ∧ (t.toNat < 64 → x.getLsbD t.toNat = true) ∧
      c.toNat = ((List.range 64).map fun i => (x.getLsbD i).toNat).sum ∧
      (∀ i, i < 64 → e.getLsbD i = x.getLsbD (Nat.min i p.toNat)) ∧
      (∀ i, i < 64 → f.getLsbD i = (decide (i ≤ p.toNat) && x.getLsbD i)) ∧
      (∀ i, i < 64 → g.getLsbD i = (decide (i < w) && x.getLsbD (pos + i))) ∧
      (∀ i, i < 64 → h.getLsbD i = if pos ≤ i ∧ i < pos + w then x.getLsbD (i - pos) else z.getLsbD i)) ∧
  (∀ (s : State) (d : BitVec 6) (i : BitVec 16),
    let gives (j : Instr) (v : XWord) : Prop := exec j s = .next (s.results 2 (.x d v) true)
    let inserted (q : Nat) (v : XWord) : Prop :=
      ∀ k, k < 64 → v.getLsbD k = if q ≤ k ∧ k < q + 16 then i.getLsbD (k - q) else (s.rx d).getLsbD k
    gives (.movi d i) (i.signExtend 64) ∧
    (∃ v, gives (.movk0 d i) v ∧ inserted 0 v) ∧ (∃ v, gives (.movk16 d i) v ∧ inserted 16 v) ∧
    (∃ v, gives (.movk32 d i) v ∧ inserted 32 v) ∧ (∃ v, gives (.movk48 d i) v ∧ inserted 48 v))

/-- Majors 0x10-0x18 (08 R113): the immediate is sign-extended for ADDI and SLTI, zero-extended for ANDI, ORI, XORI and
SLTZI, and the shifts take the amount in imm10 [5:0]. -/
def Obligations.ImmediateResults : Prop :=
  ∀ (s : State) (d a k : BitVec 6) (i : BitVec 10), let x := s.rx a
    let gives (j : Instr) (v : XWord) : Prop := exec j s = .next (s.results 2 (.x d v) true)
    let word (major : Nat) : Option Nat := some (major * 2 ^ 22 + d.toNat * 2 ^ 16 + a.toNat * 2 ^ 10 + i.toNat)
    let wordS (major : Nat) : Option Nat := some (major * 2 ^ 22 + d.toNat * 2 ^ 16 + a.toNat * 2 ^ 10 + k.toNat)
    gives (.addi d a i) (x + i.signExtend 64) ∧ encodeNat (.addi d a i) = word 0x10 ∧
    gives (.andi d a i) (x &&& i.zeroExtend 64) ∧ encodeNat (.andi d a i) = word 0x11 ∧
    gives (.ori d a i) (x ||| i.zeroExtend 64) ∧ encodeNat (.ori d a i) = word 0x12 ∧
    gives (.xori d a i) (x ^^^ i.zeroExtend 64) ∧ encodeNat (.xori d a i) = word 0x13 ∧
    gives (.shli d a k) (x <<< k.toNat) ∧ encodeNat (.shli d a k) = wordS 0x14 ∧
    gives (.shri d a k) (x >>> k.toNat) ∧ encodeNat (.shri d a k) = wordS 0x15 ∧
    gives (.sari d a k) (x.sshiftRight k.toNat) ∧ encodeNat (.sari d a k) = wordS 0x16 ∧
    gives (.slti d a i) (if x.slt (i.signExtend 64) then 1 else 0) ∧ encodeNat (.slti d a i) = word 0x17 ∧
    gives (.sltzi d a i) (if x.ult (i.zeroExtend 64) then 1 else 0) ∧ encodeNat (.sltzi d a i) = word 0x18

/-! ### Scalar float instructions -/

/-- FADD, FSUB, FMUL, FFMA and FCVT (08 R115, R116, R118): FP32 is read from bits [31:0], the exact sum, difference,
product or fused product is rounded once in mode rm with zeros above, and the result is pushed at latency 4; FFMA reads
its own d. FCVT reads its source from the low bits by `from`: between equal float formats it copies the bits; to another
float format it encodes the exact value; to an integer format a NaN gives 0, an infinity an end of the range, and a
finite value the integer that mode rm rounds it to, kept within the range; an i32 result is sign-extended, and the others
have zeros above. -/
def Obligations.ScalarFloatArithmetic : Prop :=
  ∀ (s : State) (d a b : BitVec 6) (r f t : BitVec 3) (x : BitVec 1),
    let v (q : BitVec 6) : Sys2Proof.Num.FV := Sys2Proof.Num.decode .fp32 ((s.rx q).extractLsb' 0 32).toNat
    let gives (i : Instr) (u : Sys2Proof.Num.FV) : Prop :=
      exec i s = .next (s.results 4 (.x d (.ofNat 64 (Sys2Proof.Num.encode .fp32 r.toNat false u))) true)
    gives (.fadd d a b r) (Sys2Proof.Num.add r.toNat (v a) (v b)) ∧
    gives (.fsub d a b r) (Sys2Proof.Num.add r.toNat (v a) (v b).negate) ∧
    gives (.fmul d a b r) (Sys2Proof.Num.mul (v a) (v b)) ∧
    gives (.ffma d a b r) (Sys2Proof.Num.add r.toNat (Sys2Proof.Num.mul (v a) (v b)) (v d)) ∧
    (f.toNat < 7 → t.toNat < 7 →
      let bits (k : BitVec 3) : Nat := [32, 16, 16, 8, 8, 32, 64].getD k.toNat 0
      let form (k : BitVec 3) : Sys2Proof.Num.Fmt := [Sys2Proof.Num.Fmt.fp32, .fp16, .bf16, .e4m3, .e5m2].getD k.toNat .fp32
      let src := (s.rx a).toNat % 2 ^ bits f
      let z : Int := (BitVec.ofNat (bits f) src).toInt
      let value := if 5 ≤ f.toNat then .fin (decide (z < 0)) z.natAbs 0 else Sys2Proof.Num.decode (form f) src
      let top : Int := 2 ^ (bits t - 1)
      ∃ u : XWord, exec (.fcvt d a f t r x) s = .next (s.results 4 (.x d u) true) ∧
        (f = t → f.toNat < 5 → u.toNat = src) ∧
        (f ≠ t → t.toNat < 5 → u.toNat = Sys2Proof.Num.encode (form t) r.toNat (x == 1) value) ∧
        (5 ≤ t.toNat →
          (value.isNan = true → u = 0) ∧ (∀ n, value = .inf n → u.toInt = if n then -top else top - 1) ∧
          ∀ n m e, value = .fin n m e → ∃ k : Int, u.toInt = max (-top) (min (top - 1) k) ∧
            let w : Int := if n then -(m : Int) else m
            let one : Int := 2 ^ (-e).toNat
            (0 ≤ e → k = w * 2 ^ e.toNat) ∧
            (e < 0 → (r = 1 → k = w.tdiv one) ∧ (r = 2 → k = -(-w / one)) ∧ (r = 3 → k = w / one) ∧
              (r = 0 ∨ r = 4 → 2 * (k * one - w).natAbs ≤ one.toNat ∧
                (2 * (k * one - w).natAbs = one.toNat → if r = 0 then k % 2 = 0 else w.natAbs < (k * one).natAbs)))))

/-- Every code of a float format that is no NaN encodes to itself, in every rounding mode, saturating or not (05 R72-R74):
decoding is exact, and a representable value is never moved. E4M3 has no infinity and the codes of infinities are left
out where rounding saturates. -/
def Obligations.RepresentableValuesKeepTheirCode : Prop :=
  ∀ (f : Sys2Proof.Num.Fmt) (c rm : Nat) (sat : Bool), f ∈ [Sys2Proof.Num.Fmt.fp32, .fp16, .bf16, .e4m3, .e5m2] → c < 2 ^ f.width →
    (Sys2Proof.Num.decode f c).isNan = false → ((Sys2Proof.Num.decode f c).isInf = true → sat = false) →
    Sys2Proof.Num.encode f rm sat (Sys2Proof.Num.decode f c) = c

/-- Comparisons and classification (08 R117). Codes that are no NaN compare as sign and magnitude; with a NaN eq, lt and le
are 0 and un is 1; FMIN and FMAX return the other operand for one NaN and the canonical NaN for two, with −0 below +0;
FCLASS sets the one bit of its operand's class. Every form has
its word, and the codes without a row, and a b field with FCLASS, are refused. -/
def Obligations.FloatComparisons : Prop :=
  ∀ (s : State) (d a b : BitVec 6),
    let x := ((s.rx a).extractLsb' 0 32).toNat
    let y := ((s.rx b).extractLsb' 0 32).toNat
    let zeros := x % 2 ^ 31 = 0 ∧ y % 2 ^ 31 = 0
    let gives (i : Instr) (fn : Nat) (v : Nat) : Prop :=
      encodeNat i = some (rrr 0x24 d a (if fn = 6 then 0 else b) fn) ∧ exec i s = .next (s.results 4 (.x d (.ofNat 64 v)) true)
    (∀ w : Word, w.extractLsb' 22 7 = 0x24 →
      7 ≤ (w.extractLsb' 0 4).toNat ∨ (w.extractLsb' 0 4 = 6 ∧ w.extractLsb' 4 6 ≠ 0) → ∀ i, decode w ≠ .ok i) ∧
    ∃ mn mx eq lt le un cl : Nat,
      gives (.fmin d a b) 0 mn ∧ gives (.fmax d a b) 1 mx ∧ gives (.fcmpEq d a b) 2 eq ∧ gives (.fcmpLt d a b) 3 lt ∧
      gives (.fcmpLe d a b) 4 le ∧ gives (.fcmpUn d a b) 5 un ∧ gives (.fclass d a) 6 cl ∧
      (fpNan x ∧ fpNan y → mn = 0x7FC00000 ∧ mx = 0x7FC00000) ∧
      (fpNan x ∧ ¬fpNan y → mn = y ∧ mx = y) ∧ (¬fpNan x ∧ fpNan y → mn = x ∧ mx = x) ∧
      (¬fpNan x ∧ ¬fpNan y →
        mn = (if fpKey y < fpKey x then y else x) ∧ mx = (if fpKey x < fpKey y then y else x) ∧
        (eq = 1 ↔ x = y ∨ zeros) ∧ (lt = 1 ↔ fpKey x < fpKey y ∧ ¬zeros) ∧ (le = 1 ↔ fpKey x ≤ fpKey y ∨ zeros) ∧ un = 0) ∧
      (fpNan x ∨ fpNan y → eq = 0 ∧ lt = 0 ∧ le = 0 ∧ un = 1) ∧
      eq ≤ 1 ∧ lt ≤ 1 ∧ le ≤ 1 ∧
      (x = 0xFF800000 → cl = 1) ∧ (0x80800000 ≤ x ∧ x < 0xFF800000 → cl = 2) ∧ (0x80000000 < x ∧ x < 0x80800000 → cl = 4) ∧
      (x = 0x80000000 → cl = 8) ∧ (x = 0 → cl = 16) ∧ (0 < x ∧ x < 0x00800000 → cl = 32) ∧
      (0x00800000 ≤ x ∧ x < 0x7F800000 → cl = 64) ∧ (x = 0x7F800000 → cl = 128) ∧
      (fpNan x ∧ x / 2 ^ 22 % 2 = 0 → cl = 256) ∧ (fpNan x ∧ x / 2 ^ 22 % 2 = 1 → cl = 512)

/-- FDIV and major 0x27 (08 R116, R119): class G long operations with the special values of the manual's table, in every
rounding mode. -/
def Obligations.FloatSpecialValues : Prop :=
  ∀ (s : State) (d a b : BitVec 6) (r : BitVec 3), s.hasRoom .G →
    let x := ((s.rx a).extractLsb' 0 32).toNat
    let y := ((s.rx b).extractLsb' 0 32).toNat
    let gives (i : Instr) (v : Nat) : Prop := exec i s = .next (s.starts .G (.value d (.ofNat 64 v)) [])
    ∃ dv sq ex lg rc rs : Nat,
      gives (.fdiv d a b r) dv ∧ gives (.fsqrt d a r) sq ∧ gives (.fexp2 d a r) ex ∧ gives (.flog2 d a r) lg ∧
      gives (.frcp d a r) rc ∧ gives (.frsq d a r) rs ∧
      (fpNan x ∨ fpNan y → dv = 0x7FC00000) ∧
      (x % 2 ^ 31 = 0 ∧ y % 2 ^ 31 = 0 → dv = 0x7FC00000) ∧
      (x % 2 ^ 31 = 0x7F800000 ∧ y % 2 ^ 31 = 0x7F800000 → dv = 0x7FC00000) ∧
      (0 < x % 2 ^ 31 ∧ x % 2 ^ 31 < 0x7F800000 ∧ y % 2 ^ 31 = 0 → dv = 0x7F800000 + (x / 2 ^ 31 + y / 2 ^ 31) % 2 * 2 ^ 31) ∧
      (fpNan x → sq = 0x7FC00000 ∧ ex = 0x7FC00000 ∧ lg = 0x7FC00000 ∧ rc = 0x7FC00000 ∧ rs = 0x7FC00000) ∧
      (x = 0xFF800000 → sq = 0x7FC00000 ∧ ex = 0 ∧ lg = 0x7FC00000 ∧ rc = 0x80000000 ∧ rs = 0x7FC00000) ∧
      (0x80000000 < x ∧ x < 0xFF800000 → sq = 0x7FC00000 ∧ lg = 0x7FC00000 ∧ rs = 0x7FC00000) ∧
      (x = 0x80000000 → sq = 0x80000000 ∧ ex = 0x3F800000 ∧ lg = 0xFF800000 ∧ rc = 0xFF800000 ∧ rs = 0xFF800000) ∧
      (x = 0 → sq = 0 ∧ ex = 0x3F800000 ∧ lg = 0xFF800000 ∧ rc = 0x7F800000 ∧ rs = 0x7F800000) ∧
      (x = 0x7F800000 → sq = 0x7F800000 ∧ ex = 0x7F800000 ∧ lg = 0x7F800000 ∧ rc = 0 ∧ rs = 0) ∧
      (x = 0x3F800000 → lg = 0)

/-! ### Capability registers, branches, loop nests -/

/-- The register-only capability operations (13 R186): offsets, lengths and tags read as results that are pushed; new
capabilities keep the tag and every field the form does not name, and are not pushed; CDERIVE takes the greatest length
m × 2^k not above its operand with m < 2^18 and k at most 30, the least k among equals, and traps on a missing tag, a
missing DV right and a length above the capability's own. That CGETL gives the low 64 bits of a length beyond them, which an
untagged capability may have, is log 82, the model's choice. -/
def Obligations.CapabilityRegisterResults : Prop :=
  ∀ (s : State) (d a : BitVec 4) (x b : BitVec 6), let c := s.rc a; let y := s.rx b
    let gives (i : Instr) (v : Cap) : Prop := exec i s = .next (s.results 2 (.c d v) false) ∧ v.tag = c.tag
    let rest (v : Cap) (lo n : Nat) : Prop := ∀ i, i < lo ∨ lo + n ≤ i → v.raw.getLsbD i = c.raw.getLsbD i
    (∃ o r l t : Cap,
      gives (.cseto d a b) o ∧ o.raw.extractLsb' 48 48 = y.truncate 48 ∧ rest o 48 48 ∧
      gives (.caddo d a b) r ∧ r.raw.extractLsb' 48 48 = c.raw.extractLsb' 48 48 + y.truncate 48 ∧ rest r 48 48 ∧
      gives (.cdrop d a b) l ∧ l.raw.extractLsb' 16 8 = c.raw.extractLsb' 16 8 &&& ~~~(y.truncate 8) ∧ rest l 16 8 ∧
      (c.tag = true → c.raw.getLsbD 21 = true → y.toNat ≤ c.len →
        gives (.cderive d a b) t ∧ rest t 24 24 ∧ ∃ m k : Nat, m < 2 ^ 18 ∧ k ≤ 30 ∧ m * 2 ^ k ≤ y.toNat ∧
          t.raw.extractLsb' 30 18 = .ofNat 18 m ∧ t.raw.extractLsb' 24 6 = .ofNat 6 k ∧
          ∀ m' k', m' < 2 ^ 18 → k' ≤ 30 → m' * 2 ^ k' ≤ y.toNat →
            m' * 2 ^ k' ≤ m * 2 ^ k ∧ (m' * 2 ^ k' = m * 2 ^ k → k ≤ k'))) ∧
    exec (.cgeto x a) s = .next (s.results 2 (.x x ((c.raw.extractLsb' 48 48).zeroExtend 64)) true) ∧
    exec (.cgetl x a) s = .next (s.results 2 (.x x
      ((c.raw.extractLsb' 30 18).zeroExtend 64 <<< (c.raw.extractLsb' 24 6).toNat)) true) ∧
    exec (.ctag x a) s = .next (s.results 2 (.x x (if c.tag then 1 else 0)) true) ∧
    (s.mayTrap →
      (c.tag = false → exec (.cderive d a b) s = .next (s.trapped 3 1 (.ofNat 64 c.off) s.me.ctx.pc)) ∧
      (c.tag = true → c.raw.getLsbD 21 = false →
        exec (.cderive d a b) s = .next (s.trapped 3 2 (.ofNat 64 c.off) s.me.ctx.pc)) ∧
      (c.tag = true → c.raw.getLsbD 21 = true → c.len < y.toNat →
        exec (.cderive d a b) s = .next (s.trapped 3 3 y s.me.ctx.pc)))

/-- Branches (08 R120-R122): an unconditional branch sets the pc to its target, a conditional one where its condition
holds, else the pc passes to the next word; BL and BLX write pc + 4 at latency 2 without a push, BLX after it has read
x(a). A target that is no multiple of 4 or lies outside the code object raises a capability trap with sub-cause bounds at
the branch, with the target in TVAL, taken or not. That a target below 0 is outside and stands in TVAL as its 64-bit
two's complement, and that the code object's length is the LENGTH of the capability the code is fetched through, are the
model's choices (log 54, DESIGN CHOICE). -/
def Obligations.BranchesGoToTheirTargets : Prop :=
  (∀ (s : State) (a b d : BitVec 6) (o22 : BitVec 22) (o16 : BitVec 16) (o10 : BitVec 10), let x := s.rx a; let y := s.rx b
    let pc : Int := s.me.ctx.pc.toNat
    let link (r : BitVec 6) : Slot → Slot :=
      fun m => { m with pend := m.pend ++ [⟨s.core.cycle + 2, .x r ((s.me.ctx.pc + 4).zeroExtend 64), false⟩] }
    let goes (i : Instr) (t : Int) (f : Slot → Slot) : Prop := exec i s = .next (s.jumps (.ofInt 48 t) f)
    let tests (i : Instr) (t : Int) (p : Bool) : Prop :=
      exec i s = .next (if p then s.jumps (.ofInt 48 t) id else s.passes id)
    (s.targetIn (pc + 4 * o22.toInt) →
      goes (.b o22) (pc + 4 * o22.toInt) id ∧ goes (.bl o22) (pc + 4 * o22.toInt) (link 47)) ∧
    (s.targetIn x.toNat → goes (.bx a) x.toNat id ∧ goes (.blx d a) x.toNat (link d)) ∧
    (let t := pc + 4 * o16.toInt;
      s.targetIn t → tests (.beqz a o16) t (x == 0) ∧ tests (.bnez a o16) t (x != 0) ∧
        tests (.bltz a o16) t (x.slt 0) ∧ tests (.bgez a o16) t ((0 : XWord).sle x)) ∧
    (let t := pc + 4 * o10.toInt;
      s.targetIn t → tests (.beq a b o10) t (x == y) ∧ tests (.bne a b o10) t (x != y) ∧
        tests (.blt a b o10) t (x.slt y) ∧ tests (.bge a b o10) t (y.sle x) ∧
        tests (.bltn a b o10) t (x.ult y) ∧ tests (.bgen a b o10) t (y.ule x))) ∧
  (∀ (s : State) (a b d : BitVec 6) (o22 : BitVec 22) (o16 : BitVec 16) (o10 : BitVec 10), s.mayTrap →
    let pc : Int := s.me.ctx.pc.toNat
    let traps (t : Int) (l : List Instr) : Prop :=
      ¬s.targetIn t → ∀ i ∈ l, exec i s = .next (s.trapped 3 3 (.ofInt 64 t) s.me.ctx.pc)
    traps (pc + 4 * o22.toInt) [.b o22, .bl o22] ∧ traps (s.rx a).toNat [.bx a, .blx d a] ∧
    traps (pc + 4 * o16.toInt) [.beqz a o16, .bnez a o16, .bltz a o16, .bgez a o16] ∧
    traps (pc + 4 * o10.toInt) [.beq a b o10, .bne a b o10, .blt a b o10, .bge a b o10, .bltn a b o10, .bgen a b o10])

/-- LNSET (08 R123-R125): a well-formed record whose active streams' capabilities pass their checks arms the context with
the record, copies of those capabilities and indices of zero. LNSTEP, LNIDX and LNADR (08 R126-R128): the first dimension whose index can rise rises, those below it return to 0 and
the branch is taken; after the last point the nest is disarmed and the next word follows; LNIDX reads an index and LNADR
a stream's offset, pushed at latency 2. That LNADR gives a negative offset as its 64-bit two's complement is the model's
choice (log 55, DESIGN CHOICE). -/
def Obligations.LoopNests : Prop :=
  (∀ (s : State) (n : BitVec 2) (c : BitVec 4) (x : BitVec 6) (segs : List Seg), s.onCompute →
    let e : Int := (s.rc c).off + (s.rx x).toInt
    let p := s.readNat segs
    let cap (k : Nat) : Cap := s.rc (.ofNat 4 (p / 2 ^ (4 + 4 * k) % 16))
    s.access (s.rc c) { rd := true } e 128 8 [] false = .ok segs → s.syncAccess segs false = .ok () →
    nestOk p = true → (∀ k, k < nestStreams p → nestCheck (cap k) p k = .ok ()) →
    ∃ m : Nest, exec (.lnset n c x) s =
        .next (s.passes fun sl => { sl with ctx := { sl.ctx with n := vset sl.ctx.n n.toNat m } }) ∧
      m.armed = true ∧ m.par.toNat = p % 2 ^ 1024 ∧ (∀ k, k < nestStreams p → vget m.caps k Cap.null = cap k) ∧
      m.idx = #v[0, 0, 0, 0]) ∧
  (∀ (s : State) (n : BitVec 2) (o : BitVec 20) (d : BitVec 6) (j k : BitVec 2), s.onCompute →
    let c := s.rn n
    let p := c.par.toNat
    let dims := p % 4
    let count (i : Nat) : Nat := p / 2 ^ (64 + 32 * i) % 2 ^ 32
    let stride (i : Nat) : Int := (BitVec.ofNat 32 (p / 2 ^ (256 + 256 * k.toNat + 32 * i))).toInt
    let base : Int := (p / 2 ^ (192 + 256 * k.toNat) % 2 ^ 48 : Nat)
    let wrap : Int := (p / 2 ^ (384 + 256 * k.toNat) % 2 ^ 32 : Nat)
    let sum : Int := ((List.range (dims + 1)).map fun i => (c.i i : Int) * stride i).sum
    let t : Int := s.me.ctx.pc.toNat + 4 * o.toInt
    let put (m : Nest) : Slot → Slot := fun sl => { sl with ctx := { sl.ctx with n := vset sl.ctx.n n.toNat m } }
    c.armed = true →
    (s.targetIn t → ∀ r, r ≤ dims → (∀ i, i < r → count i ≤ c.i i + 1) → c.i r + 1 < count r →
      ∃ m : Nest, exec (.lnstep n o) s = .next (s.jumps (.ofInt 48 t) (put m)) ∧
        m.armed = true ∧ m.par = c.par ∧ m.caps = c.caps ∧
        ∀ i, i < 4 → m.i i = if i < r then 0 else if i = r then c.i i + 1 else c.i i) ∧
    (s.targetIn t → (∀ i, i ≤ dims → count i ≤ c.i i + 1) →
      ∃ m : Nest, exec (.lnstep n o) s = .next (s.passes (put m)) ∧ m.armed = false) ∧
    exec (.lnidx n d j) s = .next (s.results 2 (.x d (.ofNat 64 (if j.toNat ≤ dims then c.i j.toNat else 0))) true) ∧
    (k.toNat < p / 4 % 4 → exec (.lnadr n d k) s =
      .next (s.results 2 (.x d (.ofInt 64 (base + (if wrap = 0 then sum else sum % wrap)))) true)))

/-! ### Continuations -/

/-- SPAWN in both forms (08 R131): the new record, with the creator's other fields, goes to the tail of the core's own
deque, the launch's live count rises by 1, and nothing else of the slot changes. Onto a full deque of 64 records the head
first moves to the tail of the die queue of its own priority (03 R40); every other queue stays as it was. -/
def Obligations.SpawnPushesARecord : Prop :=
  ∀ (s : State) (x j c : BitVec 6) (o : BitVec 10) (l : Launch), s.me.lvl = 0 → s.launch? s.me.ctx.r.lid = some l →
    let full := s.core.deque.length = 64
    let die := s.core.id / 128
    let pushes (i : Instr) (coff : Int) (join arg : BitVec 32) : Prop := s.targetIn coff →
      (∀ h, full → s.core.deque.head? = some h → (s.queue die h.prio.toNat).length < 256 + s.module.ring) →
      ∃ t, exec i s = .next t ∧ t.me = (s.passes id).me ∧ t.mem = s.mem ∧
        t.core.deque = (if full then s.core.deque.tail else s.core.deque) ++
          [{ s.me.ctx.r with coff := .ofInt 48 coff, join := join, arg := arg }] ∧
        t.launch? s.me.ctx.r.lid = some { l with live := l.live + 1 } ∧ (¬full → t.queues = s.queues) ∧
        ∀ h, full → s.core.deque.head? = some h →
          t.queue die h.prio.toNat = s.queue die h.prio.toNat ++ [⟨.one h, [], false, s.stamp⟩] ∧
          ∀ d p, p < 16 → d ≠ die ∨ p ≠ h.prio.toNat → t.queue d p = s.queue d p
    pushes (.spawn x j o) (s.me.ctx.pc.toNat + 4 * o.toInt) (if j = 63 then .allOnes 32 else .ofNat 32 (8 * j.toNat))
      ((s.rx x).truncate 32) ∧
    pushes (.spawnReg x c j) (s.rx c).toNat ((s.rx j).truncate 32) ((s.rx x).truncate 32)

/-- SPAWNJ in both forms (08 R132, R133): a counter that is not zero takes the waiting record, which carries the
creator's JOIN and no argument; a counter at zero has it enqueued at once; the creator gives its JOIN up, in its restart
state too, the SPAWNJ list grows by the word's place, and the live count rises by 1. A word on the list of a restarted
continuation only passes on. -/
def Obligations.SpawnjRegistersAWaitingRecord : Prop :=
  ∀ (s : State) (j c : BitVec 6) (o : BitVec 16) (l : Launch) (segs : List Seg), s.me.lvl = 0 →
    s.launch? s.me.ctx.r.lid = some l →
    let registers (i : Instr) (coff : Int) (joff : BitVec 32) : Prop :=
      let a := s.me.ctx.r.foff.toNat + joff.toNat
      let pa := segsPa s segs
      let w : Rec := { s.me.ctx.r with coff := .ofInt 48 coff, arg := 0 }
      (s.me.rerun = true ∧ (s.me.ctx.pc.toNat, a) ∈ s.me.spawnj → exec i s = .next (s.passes id)) ∧
      (s.targetIn coff → s.joinSegs l.r.frame a = .ok segs → s.syncAccess segs false = .ok () →
        (s.readNat segs = 0 → (s.queue (s.me.id / 16384) w.prio.toNat).length < 256 + s.module.ring) → s.me.rerun = false ∨ (s.me.ctx.pc.toNat, a) ∉ s.me.spawnj → s.me.spawnj.length < 16 → (∀ e ∈ s.joins, e.pa ≠ pa) →
        (s.readNat segs = 0 ∨ (s.joins.filter (·.iface == s.me.iface)).length <
          (match s.cfg s.me.iface with | some f => f.joinCap | none => 65536)) →
        ∃ t, exec i s = .next t ∧ t.mem = s.mem ∧
          t.me.ctx = { s.me.ctx with pc := s.me.ctx.pc + 4, r := { s.me.ctx.r with join := .allOnes 32 } } ∧
          t.me.spawnj = s.me.spawnj ++ [(s.me.ctx.pc.toNat, a)] ∧ t.me.restart = s.me.restart.dropJoin ∧
          t.launch? s.me.ctx.r.lid = some { l with live := l.live + 1 } ∧
          (s.readNat segs = 0 → t.joins = s.joins ∧
            t.queue (s.me.id / 16384) w.prio.toNat =
              s.queue (s.me.id / 16384) w.prio.toNat ++ [⟨.one w, [], false, s.stamp⟩]) ∧
          (s.readNat segs ≠ 0 → t.joins = s.joins ++ [⟨s.me.iface, pa, w, s.me.id / 16384⟩] ∧ t.queues = s.queues))
    registers (.spawnj j o) (s.me.ctx.pc.toNat + 4 * o.toInt) (.ofNat 32 (8 * j.toNat)) ∧
    registers (.spawnjReg c j) (s.rx c).toNat ((s.rx j).truncate 32)

/-- LAUNCH, LGROW and PRIO (08 R137-R139, 03 R32, R35): an accepted record takes the lowest free launch ID, is counted in
class C and stands in the launch table with its indices live; LGROW adds to COUNT and the live count in one action, and a
launch whose entry had gone is enqueued again; PRIO sets the current priority, under the interface's ceiling. -/
def Obligations.LaunchControl : Prop :=
  ∀ (s : State) (a : BitVec 4) (x : BitVec 6) (segs : List Seg) (lid : Nat) (l : Launch), s.me.lvl = 0 →
    (let c := s.rc a; let shows := c.cl && c.kind != 2;
      let r := launchRec (s.readNat segs) (shows && s.mem.tag (segsPa s segs)) (shows && s.mem.tag (segsPa s segs + 16));
      s.hasRoom .C → s.access c { rd := true } c.off 64 64 [] false = .ok segs → s.syncAccess segs false = .ok () →
      launchRefuses (s.readNat segs) r = none → s.freeLid = some lid →
      ∃ t, exec (.launch a) s = .next t ∧ t.me = (s.starts .C (.launch lid) []).me ∧ t.mem = s.mem ∧
        (∀ k, k < lid → (s.launch? k).isSome = true) ∧
        ∃ e, t.launch? lid = some e ∧ e.live = r.count.toNat - r.next.toNat ∧ e.iface = s.me.iface ∧
          e.r = { r with prio := s.clampPrio s.me.iface r.prio } ∧ e.complete = false) ∧
    (s.launch? s.me.ctx.r.lid = some l → l.complete = false → let n := (s.rx x).toNat % 2 ^ 32
      l.r.count.toNat + n < 2 ^ 32 →
      (n ≠ 0 → l.r.next = l.r.count → (s.queue l.home l.r.prio.toNat).length < 256 + s.module.ring) →
      ∃ t, exec (.lgrow x) s = .next t ∧ t.me = (s.passes id).me ∧ t.mem = s.mem ∧
        t.launch? s.me.ctx.r.lid = some { l with r := { l.r with count := l.r.count + .ofNat 32 n }, live := l.live + n } ∧
        (n ≠ 0 → l.r.next = l.r.count → t.queue l.home l.r.prio.toNat =
          s.queue l.home l.r.prio.toNat ++ [⟨.launch s.me.ctx.r.lid, [], false, s.stamp⟩]) ∧
        (n = 0 ∨ l.r.next ≠ l.r.count → t.queues = s.queues)) ∧
    ((s.rx x).toNat ≤ 15 →
      ∃ p : BitVec 4, exec (.prio x) s =
          .next (s.passes fun m => { m with ctx := { m.ctx with r := { m.ctx.r with prio := p } } }) ∧
        ∀ f, s.cfg s.me.iface = some f → f.ceiling ≤ 15 → p.toNat = Nat.min (s.rx x).toNat f.ceiling)

/-- ENDC and COMMIT (08 R134, R135), with every count drained, room in the ring of the queue that a record has to go to
(03 R40), and no group of the slot in a frame that a port has lost (28 R334). A continuation without a join counter leaves its groups,
frees its slot and lowers the live count, and with the last of its launch completes it, which does its actions (shown here for
a launch without any, and for its THEN record) or ends one that was complete; a slot leaves its groups one by one, a pending
joiner of the running phase withdrawing, a member leaving, which is its arrival too unless it has arrived. One with a counter decrements it first, and the decrement that takes it to zero
puts the record waiting on it at the tail of the die queue it names and frees its entry (03 R46-R48); every other
decrement leaves the entries and the queues as they were. COMMIT with every result visible settles
the current plies, empties the SPAWNJ list and makes the context with the next pc the restart point; with a pre-emption
request the slot is freed and the checkpoint enqueued. A slot that is freed leaves no Y mark behind (03 R55). -/
def Obligations.ContinuationEndsAndCommits : Prop :=
  ∀ (s : State) (l : Launch) (segs : List Seg), s.me.lvl = 0 → s.launch? s.me.ctx.r.lid = some l →
    (∀ o ∈ s.me.ops, o.lvl ≠ 0) → s.lost (s.me.groups.map (·.seg)) = none → let r := s.me.ctx.r
    (r.join = .allOnes 32 →
      exec .endc s = .next ((((s.latest.leaveGroups s.me.id).freeSlot s.me.id).liveDown r.lid s.me.id).unmark s.me.id) ∧
      ∃ t, exec .endc s = .next t ∧ t.me.busy = false ∧ t.me.window = [] ∧ t.me.accs = [] ∧ t.me.groups = [] ∧
        t.core.lastY = false ∧ (s.me.groups = [] → l.live ≠ 1 → t.mem = s.mem) ∧
        (l.live ≠ 1 → t.launch? r.lid = some { l with live := l.live - 1 }) ∧
        (l.live = 1 → l.complete = true → l.actions = [] → t.launch? r.lid = none) ∧
        (l.live = 1 → l.complete = false → l.r.barV = false → l.r.thenV = false → l.r.joinV = false → t.launch? r.lid = none) ∧
        (l.live = 1 → l.complete = false → l.r.barV = false → l.r.thenV = true → s.ringFull l.home l.r.prio.toNat = false →
          t.launch? r.lid = some { l with live := 1, complete := true, actions := [], ender := s.me.id } ∧
          t.queue l.home l.r.prio.toNat = s.queue l.home l.r.prio.toNat ++ [⟨.one ⟨l.r.thenOff, l.r.prio, l.r.place, l.r.need,
            .ofNat 48 l.r.frame.off, if l.r.joinV then l.r.joinOff else .allOnes 32, r.lid, 0, 0⟩, [], false, s.stamp⟩])) ∧
    (∀ u : State, u.lost (u.me.groups.map (·.seg)) = none → u.leaveGroups u.me.id = u.me.groups.foldl (fun v m =>
      let q := v.group m.seg
      v.updateGroup m.seg 2 (if m.pending = true ∧ q.phase = m.phase.toNat then { q with joins := (q.joins + 2 ^ 32 - 1) % 2 ^ 32 }
        else { q with leaves := q.leaves + 1, arrived := q.arrived + if m.arrived then 0 else 1 }))
      { u with me := { u.me with groups := [] } }) ∧
    (r.join ≠ .allOnes 32 → s.joinSegs l.r.frame (r.foff.toNat + r.join.toNat) = .ok segs →
      let v := s.readNat segs
      let waiting := s.joins.find? (·.pa == segsPa s segs)
      (∀ j, waiting = some j → v = 1 → (s.queue j.die j.r.prio.toNat).length < 256 + s.module.ring) →
      exec .endc s = .next (((((s.latest.decJoin segs).leaveGroups s.me.id).freeSlot s.me.id).liveDown r.lid
        s.me.id).unmark s.me.id) ∧
      (s.me.groups = [] → l.live ≠ 1 → v < 2 ^ 64 →
        ∃ t, exec .endc s = .next t ∧ t.me.busy = false ∧ t.me.window = [] ∧ t.me.accs = [] ∧ t.core.lastY = false ∧
          t.mem = (s.writeSegs segs (bytesOf 8 ((v + 2 ^ 64 - 1) % 2 ^ 64))).mem ∧
          t.launch? r.lid = some { l with live := l.live - 1 } ∧
          (v ≠ 1 ∨ waiting = none → t.joins = s.joins ∧ t.queues = s.queues) ∧
          ∀ j, waiting = some j → v = 1 → t.joins = s.joins.filter (·.pa != segsPa s segs) ∧
            t.queue j.die j.r.prio.toNat = s.queue j.die j.r.prio.toNat ++ [⟨.one j.r, [], false, s.stamp⟩])) ∧
    (s.me.pend = [] →
      ∃ cp : Saved, cp.ctx = { s.me.ctx with
          pc := s.me.ctx.pc + 4, s := s.me.ctx.s.map fun q => { q with desc := q.desc &&& ~~~(1#128 <<< 20) } } ∧
        cp.accs.map (·.1) = s.me.accs ∧ cp.iface = s.me.iface ∧
        (s.me.pre = false → exec .commit s = .next (s.passes fun m => { m with
          ctx := cp.ctx, block := none, spawnj := [], rerun := false, restart := .saved cp })) ∧
        (s.me.pre = true → s.me.groups = [] → (s.queue (s.me.id / 16384) r.prio.toNat).length < 256 + s.module.ring →
          ∃ t, exec .commit s = .next t ∧ t.me.busy = false ∧ t.mem = s.mem ∧ t.core.lastY = false ∧
          t.queue (s.me.id / 16384) r.prio.toNat =
            s.queue (s.me.id / 16384) r.prio.toNat ++ [⟨.saved cp, [], false, s.stamp⟩]))

/-- JOIN, LEAVE and GSYNC (03 R51, 08 R140), on an object that passes the checks. A joiner is pending with the phase of its
join; a member that arrives waits for one change of PHASE, a pending joiner for two. The update that makes ARRIVED reach
MEMBERS, or joins a group without members, closes the phase: PHASE rises by 1, MEMBERS takes up the joins and gives up the
leaves, JOINS, LEAVES and ARRIVED return to 0, pending joiners are members, a slot parked for one change wakes and one parked
for two arrives at once in the phase that opens (03 R51, 08 R140); any other update leaves the slots as they are. That LEAVE
takes the group out of the slot's list at once is the model's reading (log 22, DEDUCED). -/
def Obligations.GroupInstructions : Prop :=
  ∀ (s : State) (a : BitVec 4) (g : Seg), s.me.lvl = 0 → s.groupSeg a = .ok g → s.syncAccess [g] true = .ok () →
    s.syncAccess [g] false = .ok () → let o := s.group g
    (s.me.groups.length < 4 → s.me.member? g.pa = none → o.members + o.joins + 1 < 2 ^ 32 →
      exec (.join a) s = .next ((s.passes fun m => { m with
        groups := m.groups ++ [⟨g, true, .ofNat 32 o.phase, false⟩] }).updateGroup g 2 { o with joins := o.joins + 1 })) ∧
    (∀ m, s.me.member? g.pa = some m →
      exec (.leave a) s = .next ((s.passes fun k => { k with
        groups := k.groups.filter (·.seg.pa != g.pa) }).leaveGroup m) ∧
      (m.pending = true → exec (.gsync a) s = .next (s.passes fun k => { k with block := some (.group g.pa 2) })) ∧
      (m.pending = false → exec (.gsync a) s = .next ((s.passes fun k => { k with
        block := some (.group g.pa 1)
        groups := k.groups.map fun (u : Member) => if u.seg.pa = g.pa then { u with arrived := true } else u }).updateGroup
          g 2 { o with arrived := o.arrived + 1 }))) ∧
    (∀ u : Group, g.len = 64 → u.phase < 2 ^ 32 → u.members + u.joins < 2 ^ 32 → u.arrived < 2 ^ 32 → u.leaves ≤ u.members + u.joins →
      u.err < 2 → let t := s.updateGroup g 2 u
      let closes : Prop := (u.arrived = u.members ∧ 0 < u.members) ∨ (u.members = 0 ∧ 0 < u.joins)
      let late := (s.allSlots.filter fun m => m.block == some (.group g.pa 2)).length
      (¬closes → t.group g = u ∧ t.me = s.me ∧ t.slots = s.slots) ∧
      (closes → (∀ m ∈ s.allSlots, ∀ n, m.block = some (.group g.pa n) → n ≤ 2) → late < 2 ^ 32 →
        late = 0 ∨ late ≠ u.members + u.joins - u.leaves →
        t.group g = ⟨(u.phase + 1) % 2 ^ 32, u.members + u.joins - u.leaves, late, 0, 0, u.err⟩ ∧
        t.me = s.me.phaseChange g.pa ∧ t.slots = s.slots.map fun p => (p.1, p.2.phaseChange g.pa))) ∧
    ∀ m : Slot, let k := m.phaseChange g.pa
      (m.block = some (.group g.pa 1) → k.block = none) ∧ (m.block = some (.group g.pa 2) → k.block = some (.group g.pa 1)) ∧
      ((∀ n, m.block ≠ some (.group g.pa n)) → k.block = m.block) ∧
      k.groups = m.groups.map fun (b : Member) =>
        if b.seg.pa = g.pa then { b with pending := false, arrived := decide (m.block = some (.group g.pa 2)) } else b

/-! ### Loads, stores, atomics -/

/-- The loads (13 R182-R184, R187, 15 R221): an access that passes the checks of its form starts a class L operation with
the pieces it translates to; the offset is the capability's plus the scaled immediate or signed index; LDA must be aligned
and is an acquire. VLD, whose access goes to a spill queue where a page is not present (10 R153), starts without pieces
then; that its pages are asked for when it is performed is the model's reading (log 29, DEDUCED). -/
def Obligations.LoadsStart : Prop :=
  ∀ (s : State) (d x : BitVec 6) (c q : BitVec 4) (v : BitVec 5) (z : BitVec 2) (i : BitVec 10) (p : BitVec 3) (e : BitVec 1)
    (segs : List Seg), s.hasRoom .L →
    let cap := s.rc c
    let n : Nat := 2 ^ z.toNat
    let mb : Int := cap.off + i.toInt * n
    let mx : Int := cap.off + (s.rx x).toInt * n
    let reads (at_ : Int) (size align : Nat) : Prop := s.access cap { rd := true } at_ size align [] false = .ok segs
    (reads mb n 1 →
      exec (.ld d c z i) s = .next (s.starts .L (.load segs true d false) []) ∧
      exec (.ldZ d c z i) s = .next (s.starts .L (.load segs false d false) [])) ∧
    (reads mx n 1 → exec (.ldx d c z x e) s = .next (s.starts .L (.load segs (e == 0) d false) [])) ∧
    (reads mx n n → exec (.lda d c z x p e) s = .next (s.starts .L (.load segs (e == 0) d true) [])) ∧
    (reads (cap.off + i.toInt * 16) 16 16 →
      exec (.cld q c i) s = .next (s.starts .L (.loadCap segs (cap.cl && cap.kind != 2) q) [])) ∧
    (∀ gs, let f := cap.off + 256 * i.toNat
      s.portAccess cap { rd := true } f 256 1 [] = .ok gs → s.vectorFree →
      exec (.vld v c i) s = .next (s.vecUsed.starts .L
        (.loadVec cap f (if gs.all (·.2.isSome) then portPart gs f 256 else []) v) []))

/-- The stores (13 R182, R185, R187, 15 R221): an access that passes the checks of its form starts a class S operation
with the bytes it stores, read at issue; STL must be aligned and is a release; CST stores the source's tag only through
a capability with CS, outside host memory, and to other devices only with GS. -/
def Obligations.StoresStart : Prop :=
  ∀ (s : State) (d x : BitVec 6) (c q : BitVec 4) (v : BitVec 5) (z : BitVec 2) (i : BitVec 10) (p : BitVec 3)
    (segs : List Seg), s.hasRoom .S →
    let cap := s.rc c
    let n : Nat := 2 ^ z.toNat
    let mb : Int := cap.off + i.toInt * n
    let mx : Int := cap.off + (s.rx x).toInt * n
    let bytes := (List.range n).map (byteAt (s.rx d))
    let writes (at_ : Int) (size align : Nat) : Prop := s.access cap { wr := true } at_ size align [] false = .ok segs
    (writes mb n 1 → exec (.st d c z i) s = .next (s.starts .S (.store segs bytes false) [])) ∧
    (writes mx n 1 → exec (.stx d c z x) s = .next (s.starts .S (.store segs bytes false) [])) ∧
    (writes mx n n → exec (.stl d c z x p) s = .next (s.starts .S (.store segs bytes true) [])) ∧
    (writes (cap.off + i.toInt * 16) 16 16 → ∃ w : Cap, exec (.cst q c i) s = .next (s.starts .S (.storeCap segs w) []) ∧
      w.raw = (s.rc q).raw ∧
      (w.tag = true ↔ cap.cs = true ∧ (s.rc q).tag = true ∧ cap.kind ≠ 2 ∧ (cap.kind = 3 → (s.rc q).gs = true))) ∧
    (writes (cap.off + 256 * i.toNat) 256 1 → s.general = false ∨ s.core.vecBusy < s.core.cycle →
      exec (.vst v c i) s = .next (s.vecUsed.starts .S (.store segs (bytesOf 256 (s.rv v).toNat) false) []))

/-- Which check decides the fault of a load or a store (10 R144, 13 R182): tag, then kind and rights, then bounds, then
alignment, each a capability trap with its sub-cause and the effective offset in TVAL; for LD, LDX, LDA, CLD and VLD and
for ST, STX, STL, CST and VST. -/
def Obligations.AccessFaultsInOrder : Prop :=
  ∀ (s : State) (d x : BitVec 6) (c q : BitVec 4) (v : BitVec 5) (z : BitVec 2) (i : BitVec 10) (p : BitVec 3) (e : BitVec 1),
    s.mayTrap → let cap := s.rc c; let n : Nat := 2 ^ z.toNat
    let mb : Int := cap.off + i.toInt * n
    let mx : Int := cap.off + (s.rx x).toInt * n
    let faults (j : Instr) (stores : Bool) (at_ : Int) (size align : Nat) : Prop :=
      let wrong : Prop := (cap.kind = 1 ∧ s.general = true) ∨ 6 ≤ cap.kind ∨ (stores = true ∧ cap.kind = 5) ∨
        (if stores then cap.wr else cap.rd) = false
      let inside : Prop := 0 ≤ at_ ∧ at_ + size ≤ cap.len
      let traps (sub : Nat) : Prop := exec j s = .next (s.trapped 3 sub (.ofInt 64 at_) s.me.ctx.pc)
      (cap.tag = false → traps 1) ∧ (cap.tag = true → wrong → traps 2) ∧ (cap.tag = true → ¬wrong → ¬inside → traps 3) ∧
      (cap.tag = true → ¬wrong → inside → at_ % align ≠ 0 → traps 4)
    (s.hasRoom .L →
      faults (.ld d c z i) false mb n 1 ∧ faults (.ldZ d c z i) false mb n 1 ∧ faults (.ldx d c z x e) false mx n 1 ∧
      faults (.lda d c z x p e) false mx n n ∧ faults (.cld q c i) false (cap.off + i.toInt * 16) 16 16 ∧
      (s.vectorFree → faults (.vld v c i) false (cap.off + 256 * i.toNat) 256 1)) ∧
    (s.hasRoom .S →
      faults (.st d c z i) true mb n 1 ∧ faults (.stx d c z x) true mx n 1 ∧ faults (.stl d c z x p) true mx n n ∧
      faults (.cst q c i) true (cap.off + i.toInt * 16) 16 16 ∧
      (s.vectorFree → faults (.vst v c i) true (cap.off + 256 * i.toNat) 256 1))

/-- PREF, AMO, CAS, RED and REDV (13 R188-R191): PREF has no effect but the pc's; the others start with the pieces of an
access with RD, WR and AT, aligned to 8, that goes through neither kind 2 nor kind 5, and, but for RED and REDV, to no UN
page; every operand is read at issue. A contribution of RED or REDV whose page is not present starts without pieces (10
R153; log 29, DEDUCED). -/
def Obligations.AtomicsStart : Prop :=
  ∀ (s : State) (d v w : BitVec 5) (x : BitVec 6) (c p i : BitVec 4) (k : BitVec 6) (o : BitVec 2) (f r : BitVec 1)
    (z : BitVec 2) (j : BitVec 10) (segs : List Seg),
    let cap := s.rc c
    let op := if p = 8 then 9 else p.toNat
    let b := if op = 9 then 4 else 8
    let at_ := cap.off + 8 * k.toNat
    let port (size : Nat) (gs : List (Nat × Option Seg)) : Prop :=
      s.portAccess cap ⟨true, true, true, false⟩ at_ size 8 [2, 5] = .ok gs
    exec (.pref c z j) s = .next (s.passes id) ∧
    (s.hasRoom .L → s.access cap ⟨true, true, true, false⟩ (cap.off + 8 * i.toNat) 8 8 [2, 5] true = .ok segs →
      exec (.amo o d v c p i) s =
        .next (s.starts .L (.amo segs p.toNat (s.rx5 v) d (o.getLsbD 0) (o.getLsbD 1)) []) ∧
      exec (.cas d v c i o f) s =
        .next (s.starts .L (.cas segs (s.rx5 d) (s.rx5 v) d (o.getLsbD 0) (o.getLsbD 1) (f == 1)) [])) ∧
    (s.hasRoom .S → ∀ gs, port 8 gs → exec (.red x c p r k) s =
      .next (s.starts .S (.red cap op (r == 1 || cap.kind == 1) [(at_, portPart gs at_ b, (s.rx x).toNat)]) [])) ∧
    (s.hasRoom .S → ∀ gs, port 256 gs →
      ∃ vals, exec (.redv w c p r k) s = .next (s.starts .S (.red cap op (r == 1 || cap.kind == 1) vals) []) ∧
        vals.map (·.1) = ((List.range (256 / b)).map fun q => at_ + b * q) ∧
        (∀ g, gs = [(at_, some g)] → g.len = 256 →
          vals.map (·.2.1) = (List.range (256 / b)).map fun q => [{ g with pa := g.pa + b * q, len := b }]) ∧
        (∀ f, gs = [(f, none)] → vals.map (·.2.1) = (List.range (256 / b)).map fun _ => []) ∧
        vals.map (·.2.2) = if op = 9 then (List.range 64).map fun q => (s.rv w).toNat / 2 ^ (32 * q) % 2 ^ 32
          else (List.range 32).map fun q => (s.rv w).toNat / 2 ^ (64 * q) % 2 ^ 64)

/-- WAIT and KNOT (03 R59, 12 R176): WAIT passes where every class count of the level is at or below its immediate and
parks otherwise; KNOT passes where nothing it masks is outstanding at the level and parks on those operations otherwise; on
a general core its tile and A-pipe bits wait for nothing. Mask bit l covers the class L accesses, s the stores and class S
accesses and each AMO and CAS (12 R174), t the tile accesses, a the A-pipe and braid accesses and c the copies and engine
accesses, among which the model counts LAUNCH, OTINV, TLBINV and the class C instructions of major 0x7C (log 53, DESIGN
CHOICE). BINIT and BARR (13 R193) start in class S with bits [39:0] of
their register; BWAIT passes where PHASE differs from its operand and registers on the object otherwise; BTEST gives ERR,
PHASE and ARRIVED, unpushed. The cycle in which BTEST's result is visible is the model's choice (log 37). -/
def Obligations.WaitsAndBarrierInstructions : Prop :=
  (∀ (s : State) (l g m : BitVec 5) (c t h : BitVec 4) (p : BitVec 3),
    let n (k : Cls) : Nat := s.me.count k s.me.lvl
    let met : Prop := n .L ≤ l.toNat ∧ n .S ≤ g.toNat ∧ n .C ≤ c.toNat ∧ n .T ≤ t.toNat ∧ n .G ≤ h.toNat
    let mask : BitVec 5 := if s.general then m &&& 0b11100 else m
    let ids := (s.me.ops.filter fun o => o.lvl == s.me.lvl && o.knot mask).map (·.id)
    (met → exec (.wait l g c t h) s = .next (s.passes id)) ∧
    (¬met → exec (.wait l g c t h) s =
      .next (s.passes fun k => { k with block := some (.counts l.toNat g.toNat c.toNat t.toNat h.toNat) })) ∧
    (ids = [] → exec (.knot m p) s = .next (s.passes id)) ∧
    (ids ≠ [] → exec (.knot m p) s = .next (s.passes fun k => { k with block := some (.ops ids) }))) ∧
  (∀ (o : Op) (m : BitVec 5),
    let atomic : Prop := (∃ g k v d a r, o.task = .amo g k v d a r) ∨ ∃ g x v d a r f, o.task = .cas g x v d a r f
    let pipe : Prop := (∃ q k, o.task = .attn q k) ∨ (∃ d a c n h w u, o.task = .amerge d a c n h w u) ∨
      (∃ d v, o.task = .bgload d v) ∨ (∃ h r, o.task = .bgrun h r) ∨ (∃ h, o.task = .bgfree h) ∨ ∃ h d, o.task = .bgstat h d
    (o.knot m = true ↔ (m.getLsbD 4 = true ∧ o.cls = .L) ∨ (m.getLsbD 3 = true ∧ (o.cls = .S ∨ (o.cls = .L ∧ atomic))) ∨
      (m.getLsbD 2 = true ∧ o.cls = .C ∧ ¬pipe) ∨ (m.getLsbD 1 = true ∧ o.cls = .T) ∨
      (m.getLsbD 0 = true ∧ o.cls = .C ∧ pipe))) ∧
  (∀ (s : State) (c : BitVec 4) (x d : BitVec 6) (i : BitVec 9) (p : BitVec 1) (g : Seg),
    let cap := s.rc c
    let found (r : Rights) : Prop := s.barObject cap r (cap.off + 16 * i.toNat) = .ok g
    let v := s.readNat [g]
    let n := (s.rx x).toNat % 2 ^ 40
    (s.hasRoom .S → found ⟨true, true, true, false⟩ →
      exec (.binit c x i) s = .next (s.starts .S (.binit g n) []) ∧
      exec (.barr c x i) s = .next (s.starts .S (.barr g n) [])) ∧
    (found { rd := true } → s.syncAccess [g] false = .ok () →
      (v / 2 ^ 80 % 2 ≠ p.toNat → exec (.bwait c p i) s = .next (s.passes id)) ∧
      (v / 2 ^ 80 % 2 = p.toNat →
        exec (.bwait c p i) s = .next (s.passes fun m => { m with block := some (.barrier (s.canon g.pa)) })) ∧
      exec (.btest c d i) s = .next (s.results 1 (.x d (.ofNat 64 (v / 2 ^ 40 % 2 ^ 42))) false)))

/-- A barrier object counts n arrivals in one update (10 R158): below EXPECTED they are added; at EXPECTED PHASE flips and
ARRIVED returns to 0; above it ERR is set too and ARRIVED keeps the overshoot. A flip wakes every slot parked on the
object; without one no slot changes. BARR is performed as such an update (13 R193), one of 0 units into a phase that
expects some changing nothing. -/
def Obligations.BarrierObjectCountsArrivals : Prop :=
  (∀ (s : State) (id : Nat) (o : Op) (g : Seg) (n : Nat), s.mayComplete id o → o.task = .barr g n →
    exec (.longOpComplete s.me.id id) s =
      .next ((if n = 0 ∧ s.readNat [g] % 2 ^ 40 ≠ 0 then s.settleDue s.me.id
        else (s.settleDue s.me.id).arriveAt g n).dropOp s.me.id id)) ∧
  ∀ (s : State) (g : Seg) (n : Nat), g.len = 16 → let v := s.readNat [g]
    let expected := v % 2 ^ 40; let arrived := v / 2 ^ 40 % 2 ^ 40; let phase := v / 2 ^ 80 % 2; let err := v / 2 ^ 81 % 2
    let a := arrived + n
    let t := s.arriveAt g n
    let u := t.readNat [g]
    u % 2 ^ 40 = expected ∧ u < 2 ^ 82 ∧
    (a < expected → u / 2 ^ 40 % 2 ^ 40 = a ∧ u / 2 ^ 80 % 2 = phase ∧ u / 2 ^ 81 % 2 = err ∧
      t.me = s.me ∧ t.slots = s.slots) ∧
    (a = expected → u / 2 ^ 40 % 2 ^ 40 = 0 ∧ u / 2 ^ 80 % 2 = 1 - phase ∧ u / 2 ^ 81 % 2 = err) ∧
    (expected < a → u / 2 ^ 40 % 2 ^ 40 = (a - expected) % 2 ^ 40 ∧ u / 2 ^ 80 % 2 = 1 - phase ∧ u / 2 ^ 81 % 2 = 1) ∧
    (expected ≤ a → ∀ m ∈ t.allSlots, ∀ p, m.block = some (.barrier p) → s.canon p ≠ s.canon g.pa)

/-- The loads LD, LDX, LDA, CLD, VLD and VGATH are performed (13 R183, R184, R187, 15 R221, R222), and a class G operation
ends (03 R58, 08 R111): its destination takes the bytes, sign- or zero-extended, or the value, as the last write over the
results visible by then, without a push; every other register and all of memory are as before; a capability load takes its
tag only where the access may. VGATH, with every page of its elements present, gives element i in lane i, the poison value
of the type where the element lies outside the bounds, which sets TSTAT.IDX, and 0 in the lanes above 63. A VLD that
started without pieces takes those that its bytes lie in once every page is present (10 R153; log 29, DEDUCED). -/
def Obligations.LoadsArePerformed : Prop :=
  (∀ (s : State) (id : Nat) (o : Op) (d : BitVec 6) (v : XWord), s.me.op? id = some o → o.task = .value d v → o.cls = .G →
    s.mayGo s.me.id o true = true →
    ∃ t, exec (.longOpComplete s.me.id id) s = .next t ∧
      t.me.ctx = (s.me.deliver (s.coreAt (s.me.id / 128)).cycle).ctx.writeX d v ∧
      t.me.ops = s.me.ops.filter (fun p => p.id != id) ∧ t.mem = s.mem ∧ t.core = s.core) ∧
  (∀ (s : State) (id : Nat) (o : Op), s.mayComplete id o → let c := (s.me.deliver (s.coreAt (s.me.id / 128)).cycle).ctx
    let done (f : Ctx) : Prop := ∃ t, exec (.longOpComplete s.me.id id) s = .next t ∧ t.me.ctx = f ∧ t.mem = s.mem ∧
      t.me.ops = s.me.ops.filter (fun p => p.id != id) ∧ t.core = s.core ∧ t.slots = s.slots
    (∀ (segs : List Seg) (sg acq : Bool) (d : BitVec 6), o.task = .load segs sg d acq →
      ∃ v : XWord, done (c.writeX d v) ∧ let n := 8 * (segs.map (·.len)).sum
        0 < n → n ≤ 64 → ∀ i, i < 64 →
          v.getLsbD i = if i < n then (s.readNat segs).testBit i else sg && (s.readNat segs).testBit (n - 1)) ∧
    (∀ (segs : List Seg) (keep : Bool) (d : BitVec 4), o.task = .loadCap segs keep d →
      done { c with c := vset c.c d.toNat ⟨.ofNat 128 (s.readNat segs), keep && s.mem.tag (segsPa s segs)⟩ }) ∧
    (∀ (cap : Cap) (f : Nat) (segs g : List Seg) (d : BitVec 5), o.task = .loadVec cap f segs d → s.spills = [] →
      (if segs = [] then s.stream s.me.id o.iface cap f 256 false = .ok g else g = segs) →
      done { c with v := vset c.v d.toNat (.ofNat 2048 (s.readNat g)) }) ∧
    (∀ (cap : Cap) (offs : List (Option Nat)) (e : BitVec 3) (d : BitVec 5), o.task = .gather cap offs e d → s.spills = [] →
      offs.length = 64 → (∀ f, some f ∈ offs → ∃ g, s.stream s.me.id o.iface cap f ((etFmt e).width / 8) false = .ok g) →
      ∃ v : VWord, done { c with v := vset c.v d.toNat v, idx := c.idx || offs.any (·.isNone) } ∧
        let w := (etFmt e).width
        let lane (i : Nat) : Nat := v.toNat / 2 ^ (w * i) % 2 ^ w
        (∀ i, i < 64 →
          (offs[i]? = some none → lane i = if (etFmt e).isInt then 2 ^ (w - 1) else laneQuiet e) ∧
          (∀ f g, offs[i]? = some (some f) → s.stream s.me.id o.iface cap f (w / 8) false = .ok g → lane i = s.readNat g % 2 ^ w)) ∧
        ∀ i, 64 ≤ i → i < 2048 / w → lane i = 0))

/-- The stores ST, STX, STL, VST, CST, BINIT and VSCAT are performed (13 R185, R187, R193, 10 R145, 15 R221, R223), in one
piece or in several under one key: what was stored is read back, the tags of the granules it touches are cleared, CST's
granule takes its tag, BINIT keeps PHASE, every byte and tag elsewhere is as before, and no register changes but by results
that become visible. VSCAT, its translations at hand, stores its elements in lane order, so that of two that share bytes the
later one stays; an adding one, whose elements share none, adds each to what its place holds, rounded once; an element that
takes no part sets TSTAT.IDX. -/
def Obligations.StoresArePerformed : Prop :=
  ∀ (s : State) (id : Nat) (o : Op) (segs : List Seg) (key : Nat), s.mayComplete id o → (∀ g ∈ segs, g.key = key) →
    let c := (s.me.deliver (s.coreAt (s.me.id / 128)).cycle).ctx
    let done (f : Ctx) (p : State → Prop) : Prop := ∃ t, exec (.longOpComplete s.me.id id) s = .next t ∧ p t ∧
      (∀ k a, s.apart segs key k a → t.mem.read k a = s.mem.read k a) ∧
      (∀ a, (∀ g ∈ segs, ∀ i, i < g.len → (s.canon g.pa + i) / 16 ≠ a / 16) → t.mem.tag a = s.mem.tag a) ∧
      t.me.ctx = f ∧ t.me.ops = s.me.ops.filter (fun p => p.id != id) ∧ t.core = s.core ∧ t.slots = s.slots
    (∀ (bytes : List Byte) (rel : Bool), o.task = .store segs bytes rel → s.separate segs →
      bytes.length = (segs.map (·.len)).sum →
      done c fun t => t.readSegs segs = bytes ∧ ∀ g ∈ segs, ∀ i, i < g.len → t.mem.tag (s.canon g.pa + i) = false) ∧
    (∀ (g : Seg) (v : Cap), o.task = .storeCap segs v → segs = [g] → g.len = 16 → s.canon g.pa % 16 = 0 →
      done c fun t => t.readNat [g] = v.raw.toNat ∧ ∀ i, i < 16 → t.mem.tag (s.canon g.pa + i) = v.tag) ∧
    (∀ (g : Seg) (n : Nat), o.task = .binit g n → segs = [g] → g.len = 16 → n < 2 ^ 40 →
      done c fun t => t.readNat [g] = n + s.readNat [g] / 2 ^ 80 % 2 * 2 ^ 80) ∧
    (∀ (cap : Cap) (elems : List (Option Nat × Nat)) (e : BitVec 3) (add : Bool) (q : Nat → List Seg),
      o.task = .scatter cap elems e add [] → s.spills = [] → let w := (etFmt e).width
      (∀ f v, (some f, v) ∈ elems → ∀ m : Memory,
        ({ s with mem := m } : State).stream s.me.id o.iface cap f (w / 8) true = .ok (q f)) →
      segs = elems.flatMap (fun x => match x.1 with | some f => q f | none => []) →
      let free (a b : List Seg) : Prop :=
        ∀ g ∈ a, ∀ h ∈ b, s.canon g.pa + g.len ≤ s.canon h.pa ∨ s.canon h.pa + h.len ≤ s.canon g.pa
      done { c with idx := c.idx || elems.any (·.1.isNone) } fun t => ∀ (i f v : Nat), elems[i]? = some (some f, v) →
        ((q f).map (·.len)).sum = w / 8 → s.separate (q f) →
        (∀ (j f' v' : Nat), i < j → elems[j]? = some (some f', v') → free (q f) (q f')) →
        (add = false → t.readNat (q f) = v % 2 ^ w) ∧
        (add = true → (∀ (j f' v' : Nat), j < i → elems[j]? = some (some f', v') → free (q f) (q f')) →
          t.readNat (q f) = (if (etFmt e).isInt then s.readNat (q f) + v
            else Sys2Proof.Num.encode (etFmt e) 0 false (Sys2Proof.Num.add 0 (Sys2Proof.Num.decode (etFmt e) (s.readNat (q f)))
              (Sys2Proof.Num.decode (etFmt e) v))) % 2 ^ w))

/-- Atomics and reductions are performed in one step (13 R189-R191): the destination of AMO and CAS takes the old value;
memory takes the new one, by the op for AMO, RED and each element of REDV, and for CAS only where the old value equals the
expected one; fadd adds to the four bytes at e, rounded once RNE, and leaves the next four; every other byte is as before.
A reduction's ports have room in their spill queues (10 R152, R153). -/
def Obligations.AtomicsArePerformed : Prop :=
  ∀ (s : State) (id : Nat) (o : Op) (segs : List Seg) (key : Nat) (d : BitVec 5) (x y : XWord) (op : Nat)
    (acq rel facq : Bool), s.mayComplete id o → s.separate segs → (∀ g ∈ segs, g.key = key) →
    let n := (segs.map (·.len)).sum
    let c := (s.me.deliver (s.coreAt (s.me.id / 128)).cycle).ctx
    let takes (u : XWord) : Ctx := if d = 31 then c else c.writeX (d.zeroExtend 6) u
    let old : XWord := .ofNat 64 (s.readNat segs)
    let becomes (p : Nat) (u v w : XWord) : Prop :=
      (p = 0 → w = u + v) ∧ (p = 1 → w = u &&& v) ∧ (p = 2 → w = u ||| v) ∧ (p = 3 → w = u ^^^ v) ∧
      (p = 4 → w = if u.slt v then u else v) ∧ (p = 5 → w = if u.slt v then v else u) ∧
      (p = 6 → w = if u.ult v then u else v) ∧ (p = 7 → w = if u.ult v then v else u) ∧ (p = 8 → w = v)
    let sum (a b : Nat) : Nat := Sys2Proof.Num.encode .fp32 0 false
      (Sys2Proof.Num.add 0 (Sys2Proof.Num.decode .fp32 (a % 2 ^ 32)) (Sys2Proof.Num.decode .fp32 (b % 2 ^ 32)))
    let done (f : Ctx) (p : State → Prop) : Prop := ∃ t, exec (.longOpComplete s.me.id id) s = .next t ∧ p t ∧
      (∀ k a, s.apart segs key k a → t.mem.read k a = s.mem.read k a) ∧ t.me.ctx = f ∧
      t.me.ops = s.me.ops.filter (fun p => p.id != id) ∧ t.core = s.core ∧ t.slots = s.slots
    (n = 8 → o.task = .cas segs x y d acq rel facq →
      done (takes old) fun t => t.readNat segs = (if old = x then y else old).toNat) ∧
    (n = 8 → o.task = .amo segs op x d acq rel → op < 9 →
      done (takes old) fun t => ∃ w : XWord, becomes op old x w ∧ t.readNat segs = w.toNat) ∧
    (∀ g, segs = [g] → n = 8 → o.task = .amo segs 9 x d acq rel →
      done (takes (.ofNat 64 (s.readNat segs % 2 ^ 32))) fun t =>
        t.readNat segs = s.readNat segs / 2 ^ 32 * 2 ^ 32 + sum (s.readNat segs) x.toNat) ∧
    (∀ cap f ord v, s.spills = [] → n = 8 → o.task = .red cap op ord [(f, segs, v)] → op < 9 →
      done c fun t => ∃ w : XWord, becomes op old (.ofNat 64 v) w ∧ t.readNat segs = w.toNat) ∧
    (∀ cap f g ord v, s.spills = [] → segs = [g] → n = 4 → o.task = .red cap 9 ord [(f, segs, v)] →
      done c fun t => t.readNat segs = sum (s.readNat segs) v) ∧
    (∀ cap g ord (f u : Nat → Nat), s.spills = [] → segs = [g] → n = 256 → (∀ k, k < 256 → s.canon (g.pa + k) = s.canon g.pa + k) →
      let at_ (w k : Nat) : List Seg := [{ g with pa := g.pa + w * k, len := w }]
      (op < 9 → o.task = .red cap op ord ((List.range 32).map fun k => (f k, at_ 8 k, u k)) →
        done c fun t => ∀ k, k < 32 → ∃ w : XWord, becomes op (.ofNat 64 (s.readNat (at_ 8 k))) (.ofNat 64 (u k)) w ∧
          t.readNat (at_ 8 k) = w.toNat) ∧
      (o.task = .red cap 9 ord ((List.range 64).map fun k => (f k, at_ 4 k, u k)) →
        done c fun t => ∀ k, k < 64 → t.readNat (at_ 4 k) = sum (s.readNat (at_ 4 k)) (u k)))

/-! ### Copies -/

/-- COPY and COPYR (13 R194, R195, R201, 10 R155): a copy that passes its checks starts in class C with chunks that
partition its bytes, each at most 4 KiB and crossing no 64 KiB boundary of either side; a copy of nothing passes on. -/
def Obligations.CopiesStartInChunks : Prop :=
  ∀ (s : State) (d c b i : BitVec 4) (x : BitVec 6) (bar : Bar), s.hasRoom .C →
    let src := s.rc c; let dst := s.rc d
    let starts (j : Instr) (f t : Nat) : Prop := f ≤ t → let n := t - f
      s.checkRange src { rd := true } (src.off + f : Nat) n = .ok () →
      s.checkRange dst { wr := true } (dst.off + f : Nat) n = .ok () →
      noOverlap [⟨src, src.off + f, n⟩, ⟨dst, dst.off + f, n⟩] = .ok () → n < 2 ^ 40 →
      s.barOperand b i.toNat = .ok bar →
      (n = 0 → exec j s = .next (s.passes id)) ∧
      (0 < n → (∀ k, k ≤ 2 → s.boardRoom k = .ok ()) → ∃ todo tags sp,
        exec j s = .next (s.starts .C (.copy src [dst] todo [] tags bar) sp) ∧
        (∀ p ∈ todo, p.dst = 0 ∧ p.spilled = false ∧ p.late = false ∧ p.issued = false ∧ 0 < p.len ∧ p.len ≤ 4096 ∧ f ≤ p.off ∧ p.off + p.len ≤ t ∧
          (src.off + p.off) / 65536 = (src.off + p.off + p.len - 1) / 65536 ∧
          (dst.off + p.off) / 65536 = (dst.off + p.off + p.len - 1) / 65536) ∧
        (∀ k, f ≤ k → k < t → ∃ p ∈ todo, p.off ≤ k ∧ k < p.off + p.len) ∧
        todo.Pairwise (fun p q => p.off + p.len ≤ q.off))
    starts (.copy d c x b i) 0 (s.rx x).toNat ∧
    (x.toNat % 2 = 0 → x.toNat ≤ 46 → starts (.copyr d c x b i) (s.rx (x + 1)).toNat (s.rx x).toNat)

/-- COPY.m, COPYN, COPYT, MIGR and CRED (13 R196-R200) start in class C once their checks pass: COPY.m with every
destination of its list, COPYN with the armed nest of a source and a destination stream of equal length, COPYT and MIGR
with the range or page and the tier or stack their operands name, COPYT's pages counted whole, CRED with a group for each 60
or 120 elements, numbered from 0. COPY.m's chunks partition its bytes for every destination, each at most 4 KiB and crossing
no 64 KiB boundary of either side. That MIGR's capability is checked for one byte (log 28, DEDUCED), that COPYN has the overlap
check and the limit of the copy group, over what its streams reach and its points to come (log 75, DEDUCED), and that COPYT
counts a page which is not present as 64 KiB (log 76, DESIGN CHOICE) are the model's readings. -/
def Obligations.OtherCopiesStart : Prop :=
  ∀ (s : State) (d c b i : BitVec 4) (x : BitVec 6) (n : BitVec 2) (f : BitVec 3) (t : BitVec 1) (dsts : List Cap) (bar : Bar),
    s.hasRoom .C → (∀ k, k ≤ 20 → s.boardRoom k = .ok ()) →
    let m := (s.rx x).toNat; let src := s.rc c; let res := s.rc (c + 1)
    let starts (j : Instr) (p : Task → Prop) : Prop := ∃ task sp, exec j s = .next (s.starts .C task sp) ∧ p task
    (0 < m → dsts.length ≤ 16 → s.checkRange src { rd := true } src.off m = .ok () → s.destList (s.rc d) = .ok dsts →
      s.checkDests { wr := true } [0, 1, 2, 3, 4] m 0 dsts = .ok () →
      noOverlap (⟨src, src.off, m⟩ :: dsts.map fun k => (⟨k, k.off, m⟩ : Range)) = .ok () → m * dsts.length < 2 ^ 40 →
      s.barOperand b i.toNat = .ok bar →
      starts (.copyM d c x b i) fun k => ∃ todo, k = .copy src dsts todo [] false bar ∧
        (∀ p ∈ todo, ∃ dst, dsts[p.dst]? = some dst ∧ p.spilled = false ∧ p.late = false ∧ p.issued = false ∧ 0 < p.len ∧ p.len ≤ 4096 ∧ p.off + p.len ≤ m ∧
          (src.off + p.off) / 65536 = (src.off + p.off + p.len - 1) / 65536 ∧
          (dst.off + p.off) / 65536 = (dst.off + p.off + p.len - 1) / 65536) ∧
        (∀ k j, k < dsts.length → j < m → ∃ p ∈ todo, p.dst = k ∧ p.off ≤ j ∧ j < p.off + p.len) ∧
        todo.Pairwise fun p q => p.dst = q.dst → p.off + p.len ≤ q.off) ∧
    (let q := s.rn n; let p := q.par.toNat;
      s.onCompute → q.armed = true → nestStreams p = 2 → nestDir p 0 % 2 = 1 → 2 ≤ nestDir p 1 → nestExt p 0 = nestExt p 1 →
      noOverlap [q.span 0, q.span 1] = .ok () → q.left * nestExt p 0 < 2 ^ 40 →
      s.barOperand b i.toNat = .ok bar → starts (.copyn n b i) (· = .copyn q bar [] [] none)) ∧
    (0 < m → s.widened s.me.iface src src.off m < 2 ^ 40 → s.moveCheck src m = .ok () → s.barOperand b i.toNat = .ok bar →
      starts (.copyt c x t b i) (· = .move src (if t = 0 then 9 else 8) false [⟨0, src.off, m, false, false, false⟩] none bar)) ∧
    (s.moveCheck src 1 = .ok () → s.barOperand b i.toNat = .ok bar →
      starts (.migr c x b i) (· = .move src (if m / 8 % 2 = 1 then 8 else m % 8) true [⟨0, src.off, 1, false, false, false⟩] none bar)) ∧
    (c ≠ 15 → f ≠ 7 → 0 < m → dsts.length ≤ 16 → s.checkRange src { rd := true } src.off (4 * m) = .ok () →
      s.checkRange res ⟨true, true, false, false⟩ res.off (4 * m) = .ok () → res.kind ∈ [0, 1, 4] →
      s.destList (s.rc d) = .ok dsts → s.checkDests ⟨true, true, true, false⟩ [0, 3, 4] (4 * m) 0 dsts = .ok () →
      noOverlap (⟨src, src.off, 4 * m⟩ :: ⟨res, res.off, 4 * m⟩ :: dsts.map fun k => (⟨k, k.off, 4 * m⟩ : Range)) = .ok () →
      4 * m * dsts.length < 2 ^ 40 → s.barOperand b 0 = .ok bar →
      starts (.cred d c x f b) fun k => ∃ todo, k = .cred src res dsts f.toNat m todo none bar ∧
        todo.map (·.g) = List.range ((m + credGroup f.toNat - 1) / credGroup f.toNat) ∧ ∀ g ∈ todo, g.mask = 0 ∧ g.left = List.range dsts.length ∧ g.vals = [] ∧ g.part = [])

/-! ### Vector instructions -/

/-- Lane-wise arithmetic (15 R204, R208): lane i of vd takes the operation of the lanes i where the form is unmasked or
mask bit i is 1, and keeps what vd held elsewhere; integer lanes wrap and compare signed, float lanes round RNE to their
type, and VMIN and VMAX of float lanes return the other operand for one NaN, the canonical NaN for two, and order −0 below
+0 (08 R117); the latency is 2 for integer VADD, VSUB, VMIN and VMAX and 4 otherwise. -/
def Obligations.VectorArithmeticByLanes : Prop :=
  ∀ (s : State) (d a b : BitVec 5) (mk : BitVec 4) (e : BitVec 3), s.vectorFree →
    let f := etFmt e; let w := f.width
    let lane (v : VWord) (i : Nat) : Nat := v.toNat / 2 ^ (w * i) % 2 ^ w
    let on (i : Nat) : Bool := !mk.getLsbD 3 || (s.rm (mk.truncate 3)).getLsbD i
    let short := if f.isInt then 2 else 4
    let gives (j : Instr) (latency : Nat) (ri : Nat → Nat → Nat → Nat) (rf : Sys2Proof.Num.FV → Sys2Proof.Num.FV → Sys2Proof.Num.FV → Sys2Proof.Num.FV) : Prop :=
      ∃ v : VWord, s.vectorGives j latency (.v d v) ∧ ∀ i, i < 2048 / w →
        let x := lane (s.rv a) i; let y := lane (s.rv b) i; let z := lane (s.rv d) i
        lane v i = if on i then
          (if f.isInt then ri x y z else Sys2Proof.Num.encode f 0 false (rf (Sys2Proof.Num.decode f x) (Sys2Proof.Num.decode f y) (Sys2Proof.Num.decode f z))) % 2 ^ w
        else z
    gives (.vadd d a b mk e) short (fun x y _ => x + y) (fun x y _ => Sys2Proof.Num.add 0 x y) ∧
    gives (.vsub d a b mk e) short (fun x y _ => x + 2 ^ w - y) (fun x y _ => Sys2Proof.Num.add 0 x y.negate) ∧
    gives (.vmul d a b mk e) 4 (fun x y _ => x * y) (fun x y _ => Sys2Proof.Num.mul x y) ∧
    gives (.vfma d a b mk e) 4 (fun x y z => x * y + z) (fun x y z => Sys2Proof.Num.add 0 (Sys2Proof.Num.mul x y) z) ∧
    let picks (j : Instr) (first : Int → Int → Prop) : Prop := ∃ v : VWord, s.vectorGives j short (.v d v) ∧ ∀ i, i < 2048 / w →
      let x := lane (s.rv a) i; let y := lane (s.rv b) i; let r := lane v i
      (on i = false → r = lane (s.rv d) i) ∧
      (on i = true → ¬laneNan e x → ¬laneNan e y →
        (first (laneRank e x) (laneRank e y) → r = x) ∧ (first (laneRank e y) (laneRank e x) → r = y) ∧ (r = x ∨ r = y)) ∧
      (on i = true → laneNan e x → ¬laneNan e y → r = y) ∧ (on i = true → ¬laneNan e x → laneNan e y → r = x) ∧
      (on i = true → laneNan e x → laneNan e y → r = laneQuiet e)
    picks (.vmin d a b mk e) (· < ·) ∧ picks (.vmax d a b mk e) (· > ·)

/-- Bitwise operations and shifts (15 R209, R210): VAND, VOR and VXOR act on every bit of the 32-bit lanes their mask
lets through; VSHL and VSHR shift lane by lane, by the lane of vb modulo the width. -/
def Obligations.VectorBitsAndShifts : Prop :=
  ∀ (s : State) (d a b : BitVec 5) (mk : BitVec 4) (wc : BitVec 2), s.vectorFree →
    let on (i : Nat) : Bool := !mk.getLsbD 3 || (s.rm (mk.truncate 3)).getLsbD i
    let bitwise (j : Instr) (f : Bool → Bool → Bool) : Prop := ∃ v : VWord, s.vectorGives j 2 (.v d v) ∧
      ∀ k, k < 2048 → v.getLsbD k = if on (k / 32) then f ((s.rv a).getLsbD k) ((s.rv b).getLsbD k) else (s.rv d).getLsbD k
    let w := 8 * 2 ^ wc.toNat
    let lane (v : VWord) (i : Nat) : Nat := v.toNat / 2 ^ (w * i) % 2 ^ w
    let shifts (j : Instr) (f : Nat → Nat → Nat) : Prop := ∃ v : VWord, s.vectorGives j 2 (.v d v) ∧
      ∀ i, i < 2048 / w → lane v i = if on i then f (lane (s.rv a) i) (lane (s.rv b) i % w) else lane (s.rv d) i
    bitwise (.vand d a b mk) and ∧ bitwise (.vor d a b mk) or ∧ bitwise (.vxor d a b mk) xor ∧
    shifts (.vshl d a b mk wc) (fun x k => x * 2 ^ k % 2 ^ w) ∧ shifts (.vshr d a b mk wc) (fun x k => x / 2 ^ k)

/-- VBSET (15 R216): its word, and the one bit it sets; every other bit of v stays. VMATCH (15 R218): its word, and bit i
of the mask for every place i where the pattern of vb stands in the text of va; a pattern of length 0 stands nowhere. -/
def Obligations.VectorBitSetAndMatch : Prop :=
  (∀ (s : State) (v : BitVec 5) (x : BitVec 6), s.vectorFree →
    encodeNat (.vbset v x) = some (0x6E * 2 ^ 22 + v.toNat * 2 ^ 15 + x.toNat * 2 ^ 9) ∧
    ∃ r : VWord, s.vectorGives (.vbset v x) 2 (.v v r) ∧
      ∀ k, k < 2048 → r.getLsbD k = (decide (k = (s.rx x).toNat % 2048) || (s.rv v).getLsbD k)) ∧
  (∀ (s : State) (d : BitVec 3) (a b : BitVec 5), s.vectorFree →
    let byte (v : VWord) (i : Nat) : Nat := v.toNat / 2 ^ (8 * i) % 256
    let l := byte (s.rv b) 0
    encodeNat (.vmatch d a b) = some (0x6E * 2 ^ 22 + 2 * 2 ^ 20 + d.toNat * 2 ^ 17 + a.toNat * 2 ^ 12 + b.toNat * 2 ^ 7) ∧
    ∃ r : MWord, s.vectorGives (.vmatch d a b) 2 (.m d r) ∧ ∀ i, i < 256 →
      (r.getLsbD i = true ↔ 1 ≤ l ∧ i + l ≤ 256 ∧ ∀ j, j < l → byte (s.rv a) (i + j) = byte (s.rv b) (1 + j)))

/-- Comparison, selection, conversion, reduction and the other forms of majors 0x68-0x6F (15 R211-R220), lane by lane. VCMP
compares integers signed and codes of floats by their values, a NaN giving ne and un; a mask's bits at or above the lane
count are 0. VCVT copies lanes of one type and converts others exactly before it rounds, to 0 from a NaN for an integer type,
and leaves 0 above lane n − 1. VRED leaves 0 above lane 0: an integer sum modulo 2^w, a float sum rounded at each node of the
fixed pairwise tree (05 R80), the least or greatest participating lane, the lane that alone takes part, or +0 where none does.
TOPK lists lane numbers by value descending, equal values and NaNs by number, NaNs last. VMOVX to a vector writes its own lane
only. -/
def Obligations.OtherVectorResults : Prop :=
  ∀ (s : State) (d a b l op : BitVec 5) (md m e c : BitVec 3) (mk : BitVec 4) (x : BitVec 6) (k : BitVec 7) (f t r : BitVec 3)
    (sat : BitVec 1), s.vectorFree →
    let w := (etFmt e).width
    let lane (n : Nat) (v : VWord) (i : Nat) : Nat := v.toNat / 2 ^ (n * i) % 2 ^ n
    let toMask (j : Instr) (p : Nat → Prop) : Prop := ∃ q : MWord, s.vectorGives j 2 (.m md q) ∧
      ∀ i, i < 256 → (q.getLsbD i = true ↔ i < 2048 / w ∧ p i)
    let toLanes (j : Instr) (latency n : Nat) (p : Nat → Nat) : Prop := ∃ v : VWord, s.vectorGives j latency (.v d v) ∧
      ∀ i, i < 2048 / n → lane n v i = p i
    let ka (i : Nat) : Int := laneKey e (lane w (s.rv a) i)
    let kb (i : Nat) : Int := laneKey e (lane w (s.rv b) i)
    let na (i : Nat) : Prop := laneNan e (lane w (s.rv a) i)
    let nb (i : Nat) : Prop := laneNan e (lane w (s.rv b) i)
    (c.toNat ≤ 4 → toMask (.vcmp md a b c e) fun i => ((na i ∨ nb i) ∧ (c = 1 ∨ c = 4)) ∨
      (¬na i ∧ ¬nb i ∧ ((c = 0 ∧ ka i = kb i) ∨ (c = 1 ∧ ka i ≠ kb i) ∨ (c = 2 ∧ ka i < kb i) ∨ (c = 3 ∧ ka i ≤ kb i)))) ∧
    toMask (.vbtst md a b e) (fun i => (s.rv a).getLsbD (lane w (s.rv b) i % 2048) = true) ∧
    toLanes (.vsel d a b m e) 2 w (fun i => if (s.rm m).getLsbD i then lane w (s.rv a) i else lane w (s.rv b) i) ∧
    toLanes (.vbcast d x e) 2 w (fun _ => (s.rx x).toNat % 2 ^ w) ∧
    toLanes (.vperm d a b) 2 8 (fun i => lane 8 (s.rv a) (lane 8 (s.rv b) i)) ∧
    toLanes (.vexp2 d a e) 6 w (fun i => Sys2Proof.Num.encode (etFmt e) 0 false
      (Sys2Proof.Num.exp2 (Sys2Proof.Num.decode (etFmt e) (lane w (s.rv a) i))) % 2 ^ w) ∧
    toLanes (.vrcp d a e) 6 w (fun i => Sys2Proof.Num.encode (etFmt e) 0 false
      (Sys2Proof.Num.rcp (Sys2Proof.Num.decode (etFmt e) (lane w (s.rv a) i))) % 2 ^ w) ∧
    (∃ v : VWord, s.vectorGives (.vcvt d a f t r sat) 4 (.v d v) ∧ let wf := (etFmt f).width; let wt := (etFmt t).width
      let n := 2048 / max wf wt
      v.toNat < 2 ^ (wt * n) ∧ ∀ i, i < n → let u := lane wf (s.rv a) i
        (f = t → lane wt v i = u) ∧
        (f ≠ t → lane wt v i = Sys2Proof.Num.encode (etFmt t) r.toNat (sat == 1) (Sys2Proof.Num.decode (etFmt f) u) % 2 ^ wt) ∧
        (f ≠ t → (etFmt t).isInt = true → laneNan f u → lane wt v i = 0) ∧
        (f ≠ t → (etFmt t).isInt = true → (etFmt f).isInt = true →
          (BitVec.ofNat wt (lane wt v i)).toInt = max (-2 ^ (wt - 1)) (min (2 ^ (wt - 1) - 1) (BitVec.ofNat wf u).toInt))) ∧
    (op.toNat ≤ 2 → ∃ v : VWord, s.vectorGives (.vred d a op mk e) 8 (.v d v) ∧ v.toNat < 2 ^ w ∧
      let part := (List.range (2048 / w)).filter fun i => !mk.getLsbD 3 || (s.rm (mk.truncate 3)).getLsbD i
      (part = [] → v = 0) ∧ (∀ i, part = [i] → v.toNat = lane w (s.rv a) i) ∧
      (op = 0 → (etFmt e).isInt = true → v.toNat = (part.map (lane w (s.rv a))).sum % 2 ^ w) ∧
      (op = 0 → (etFmt e).isInt = false → v.toNat = (Sys2Proof.Num.treeReduce (fun p q => Sys2Proof.Num.encode (etFmt e) 0 false
        (Sys2Proof.Num.add 0 (Sys2Proof.Num.decode (etFmt e) p) (Sys2Proof.Num.decode (etFmt e) q))) 9
          (part.map (lane w (s.rv a)))).getD 0) ∧
      (op ≠ 0 → part ≠ [] → (∀ i ∈ part, ¬na i) → ∃ i ∈ part, v.toNat = lane w (s.rv a) i ∧ ∀ j ∈ part,
        if op = 1 then laneRank e (lane w (s.rv a) i) ≤ laneRank e (lane w (s.rv a) j)
        else laneRank e (lane w (s.rv a) j) ≤ laneRank e (lane w (s.rv a) i))) ∧
    s.vectorGives (.vmovxToX x a l) 2 (.x x (.ofNat 64 (lane 64 (s.rv a) l.toNat))) ∧
    s.vectorGives (.vmovxToV x a l) 2 (.lane a l.toNat (s.rx x)) ∧
    (∀ (q : Ctx) (i : Nat), i < 32 →
      lane 64 (vget (q.write (.lane a l.toNat (s.rx x))).v a.toNat 0) i =
        if i = l.toNat then (s.rx x).toNat else lane 64 (vget q.v a.toNat 0) i) ∧
    (1 ≤ k.toNat → k.toNat ≤ 64 → ∃ order : List Nat, order.Perm (List.range (2048 / w)) ∧
      order.Pairwise (fun i j => (¬na i ∧ na j) ∨ (na i ∧ na j ∧ i < j) ∨
        (¬na i ∧ ¬na j ∧ (ka j < ka i ∨ (ka i = ka j ∧ i < j)))) ∧
      toLanes (.topk d a k e) 12 32 fun i => if i < k.toNat then order.getD i 0 else 2 ^ 32 - 1)

/-- VGATH and VSCAT (15 R222, R223) start once tag, kind and rights pass: the offset of element i is the capability's plus
lane i of the index times the element's size, and an element outside the bounds, or a misaligned one of an adding scatter,
takes no part; every operand is read at issue. -/
def Obligations.IndexedVectorAccessesStart : Prop :=
  ∀ (s : State) (v x : BitVec 5) (c : BitVec 4) (e : BitVec 3) (a : BitVec 1), s.vectorFree →
    let cap := s.rc c; let w := (etFmt e).width; let n := w / 8
    let off (i : Nat) : Nat := cap.off + (s.rv x).toNat / 2 ^ (32 * i) % 2 ^ 32 * n
    let inside (i : Nat) : Option Nat := if off i + n ≤ cap.len then some (off i) else none
    let aligned (i : Nat) : Option Nat := if off i + n ≤ cap.len ∧ off i % n = 0 then some (off i) else none
    let vals := (List.range 64).map fun i => (s.rv v).toNat / 2 ^ (w * i) % 2 ^ w
    cap.kind ≠ 1 →
    (s.hasRoom .L → s.checkTag cap { rd := true } cap.off = .ok () →
      exec (.vgath v c x e) s = .next (s.vecUsed.starts .L (.gather cap ((List.range 64).map inside) e v) [])) ∧
    (s.hasRoom .S → s.checkTag cap { wr := true } cap.off = .ok () → a = 0 →
      exec (.vscat v c x e a) s =
        .next (s.vecUsed.starts .S (.scatter cap (((List.range 64).map inside).zip vals) e false []) [])) ∧
    (s.hasRoom .S → s.checkTag cap ⟨true, true, true, false⟩ cap.off = .ok () → a = 1 → cap.kind ≠ 2 → cap.kind ≠ 5 →
      exec (.vscat v c x e a) s =
        .next (s.vecUsed.starts .S (.scatter cap (((List.range 64).map aligned).zip vals) e true []) []))

/-! ### Tiles -/

/-- MTTC, MFTC and TCLAIM (07 R90, 15 R225, R228): a tile control register takes bits [27:0] of its register and reads
back zero-extended, at latency 2, unpushed, TC14 and TC15 being the handler's; naming one of those is a privilege trap in
task mode (07 R90), and naming another is an illegal instruction in a handler (26 R311); TCLAIM of a free accumulator starts in
class T and holds it for the continuation, or for the handler at level 1. -/
def Obligations.TileControl : Prop :=
  ∀ (s : State) (t : BitVec 4) (x d : BitVec 6) (a : BitVec 2), s.onCompute →
    ((s.me.lvl = 0 ∧ t.toNat < 14) ∨ (s.me.lvl = 1 ∧ 14 ≤ t.toNat) →
      exec (.mttc t x) s = .next (s.results 2 (.tc t.toNat ((s.rx x).truncate 28)) false) ∧
      exec (.mftc t d) s = .next (s.results 2 (.x d ((s.rtc t.toNat).zeroExtend 64)) false)) ∧
    (s.me.lvl = 0 → 14 ≤ t.toNat → s.mayTrap →
      exec (.mttc t x) s = .next (s.trapped 2 0 (s.ir.zeroExtend 64) s.me.ctx.pc) ∧
      exec (.mftc t d) s = .next (s.trapped 2 0 (s.ir.zeroExtend 64) s.me.ctx.pc)) ∧
    (s.me.lvl = 1 → t.toNat < 14 → s.mayTrap →
      exec (.mttc t x) s = .next (s.trapped 1 0 (s.ir.zeroExtend 64) s.me.ctx.pc) ∧
      exec (.mftc t d) s = .next (s.trapped 1 0 (s.ir.zeroExtend 64) s.me.ctx.pc)) ∧
    (s.me.lvl < 2 → s.hasRoom .T → a.toNat ∉ s.me.held → s.accHeld (s.me.id / 128) a.toNat = false →
      s.accHandler (s.me.id / 128) a.toNat = false → s.interlock (.tclaim a.toNat) = .ok () →
      ∃ t, exec (.tclaim a) s = .next t ∧ t.me.ops = (s.starts .T (.tclaim a.toNat) []).me.ops ∧
        t.me.ctx = { s.me.ctx with pc := s.me.ctx.pc + 4 } ∧ t.me.held = s.me.held ++ [a.toNat] ∧ t.mem = s.mem ∧
        (s.me.lvl = 0 → t.me.haccs = s.me.haccs) ∧ (s.me.lvl = 1 → t.me.accs = s.me.accs))

/-- The tile and accumulator forms (15 R231-R234): with their tiles in the window and well formed, their accumulator held
and no earlier tile operation in the way, they start in class T with the shapes their TC registers give; TMMA asks for
equal widths below FP32, equal blocks and at most 64 rows of B; the element-wise forms for equal shapes, TTRANS for
exchanged ones. -/
def Obligations.TileComputationsStart : Prop :=
  ∀ (s : State) (a : BitVec 2) (p q r : BitVec 4) (v : BitVec 5) (row : BitVec 7) (rm : BitVec 3) (sat : BitVec 1)
    (tp tq tr : Nat × BitVec 28), s.onCompute → s.me.lvl < 2 → s.hasRoom .T →
    let same (x y : BitVec 28) : Prop := tcRows x = tcRows y ∧ tcValid x = tcValid y
    let onTiles (i : Instr) (t : Task) : Prop := s.takePair.interlock t = .ok () → exec i s = .next (s.takePair.starts .T t [])
    let onAcc (i : Instr) (t : Task) : Prop := s.interlock t = .ok () → exec i s = .next (s.starts .T t [])
    (a.toNat ∈ s.me.held →
      onAcc (.tzeroAcc a) (.azero a.toNat) ∧ onAcc (.trowmax a v) (.rowmax v a.toNat) ∧
      (v.toNat % 2 = 0 → onAcc (.trowsum a v) (.rowsum v a.toNat)) ∧ onAcc (.tmovv a v row) (.movv v a.toNat row.toNat) ∧
      (s.tiles [p, q] = .ok [tp, tq] → tcWidth tp.2 = tcWidth tq.2 → tcWidth tp.2 ≠ 3 → tcBlk tp.2 = tcBlk tq.2 →
        tcRows tq.2 ≤ 64 → onTiles (.tmma a p q) (.tmma a.toNat tp.1 tq.1 tp.2 tq.2))) ∧
    (s.tiles [r] = .ok [tr] → onTiles (.tzero r) (.tzero tr.1 tr.2)) ∧
    (s.tiles [r, p, q] = .ok [tr, tp, tq] → same tr.2 tp.2 → same tr.2 tq.2 →
      onTiles (.tadd r p q rm sat) (.tarith 0 tr.1 tp.1 tq.1 tr.2 tp.2 tq.2 rm (sat == 1)) ∧
      onTiles (.tmul r p q rm sat) (.tarith 1 tr.1 tp.1 tq.1 tr.2 tp.2 tq.2 rm (sat == 1))) ∧
    (s.tiles [r, p, p] = .ok [tr, tp, tp] → same tr.2 tp.2 →
      onTiles (.tcvt r p rm sat) (.tarith 2 tr.1 tp.1 tp.1 tr.2 tp.2 tp.2 rm (sat == 1))) ∧
    (s.tiles [r, p, p] = .ok [tr, tp, tp] → tcRows tr.2 = tcValid tp.2 → tcValid tr.2 = tcRows tp.2 →
      onTiles (.ttrans r p rm sat) (.tarith 3 tr.1 tp.1 tp.1 tr.2 tp.2 tp.2 rm (sat == 1)))

/-- Tiles and memory (15 R229, R230, R232, R236, R237): TLD, TST, TLDN, TGEMM, TDRAIN, TSAVE and TREST start in class T
once their checks pass, TLD and TST with a row for each row of the tile, TLDN and TGEMM with their armed nest at its first
point, TDRAIN with the route entry it read, TSAVE once the earlier tile instructions have left class T, with the TC
registers as they are in its issue cycle, TREST once the earlier instructions it must follow let it read its area. That a handler's TSAVE and TREST move the reserved pair is the model's reading
(log 20, DEDUCED). -/
def Obligations.TileMemoryStarts : Prop :=
  ∀ (s : State) (a n : BitVec 2) (c p q r : BitVec 4) (x : BitVec 6) (i : BitVec 8) (tr tp tp' tq tq' : Nat × BitVec 28)
    (rows : List (Nat × Bool)) (segs : List Seg), s.onCompute → s.me.lvl < 2 → s.hasRoom .T →
    let cap := s.rc c; let nest := s.rn n; let w := nest.par.toNat
    let runs (j : Instr) (t : Task) : Prop := s.takePair.interlock t = .ok () → exec j s = .next (s.takePair.starts .T t [])
    let at_ : Int := cap.off + 16 * i.toNat
    let tiles := s.me.saveTiles; let accs := (List.range 4).filter s.me.held.contains
    (s.tiles [r] = .ok [tr] →
      (s.tileRows cap false tr.2 at_ (s.rx x).toInt = .ok rows → runs (.tld r c x i) (.tld cap tr.1 tr.2 rows)) ∧
      (s.tileRows cap true tr.2 at_ (s.rx x).toInt = .ok rows → runs (.tst r c x i) (.tst cap tr.1 tr.2 rows)) ∧
      (nest.armed = true → 1 ≤ nestStreams w → nestDir w 0 % 2 = 1 → runs (.tldn r n) (.tldn tr.1 tr.2 nest 0))) ∧
    (a.toNat ∈ s.me.held → p.toNat ≤ 12 → q.toNat ≤ 12 → p.toNat + 1 < q.toNat ∨ q.toNat + 1 < p.toNat →
      nest.armed = true → nestStreams w = 2 → nestDir w 0 % 2 = 1 → nestDir w 1 % 2 = 1 → nest.i 0 = 0 →
      s.tiles [p, p + 1, q, q + 1] = .ok [tp, tp', tq, tq'] → tp'.2 = tp.2 → tq'.2 = tq.2 → tcWidth tp.2 = tcWidth tq.2 →
      tcWidth tp.2 ≠ 3 → tcBlk tp.2 = tcBlk tq.2 → tcRows tq.2 ≤ 64 → nestCount w 0 = max (tcRows tp.2) (tcRows tq.2) →
      runs (.tgemm a p q n) (.tgemm a.toNat (tp.1, tp'.1) (tq.1, tq'.1) tp.2 tq.2 nest 0)) ∧
    (∀ (e : Nat) (dest bo : Cap) (bar : Bar), a.toNat ∈ s.me.held → s.interlock (.drain a.toNat 0 Cap.null none 0) = .ok () →
      s.route r.toNat = .ok (e, dest, bo) → rtOk e = true → rtKind e ≠ 0 → (rtKind e = 3 → rtBv e = false ∧ rtFmt e = 0x40) →
      let acc := s.acc s.me.id a.toNat
      (rtKind e = 1 → s.checkDest dest e acc.m (acc.n * rtSize e) = .ok () ∧
        s.boardRows dest e acc.m (acc.n * rtSize e) = .ok ()) →
      (rtKind e = 3 → rtPort e + acc.m ≤ 32) → s.routeBar e dest bo = .ok bar →
      exec (.tdrain a r) s = .next (s.starts .T (.drain a.toNat (.ofNat 512 e) dest bar 0) [])) ∧
    (s.saveCheck cap true = .ok () → (∀ o ∈ s.me.ops, o.cls ≠ .T) → runs (.tsave c) (.tsave cap tiles
      (if s.me.lvl = 0 then (List.range 14).map s.rtc else [s.rtc 14, s.rtc 15]) accs (pages cap.off (saveSize tiles.length s.me.held.length)))) ∧
    (s.saveCheck cap false = .ok () → s.translate cap cap.off 2 false cap.off = .ok segs →
      (∀ o ∈ s.me.ops, o.task.acquires = false) → s.interlock (.trest cap tiles accs) = .ok () →
      s.readNat segs % 256 = tiles.length → s.readNat segs / 256 % 16 = accs.foldl (fun m k => m + 2 ^ k) 0 →
      runs (.trest c) (.trest cap tiles accs))

/-- Tile operations are performed (15 R225, R229, R231-R234, R236, R237): TZERO gives zero blocks (log 88); TZERO of an
accumulator and TCLAIM give +0 and extent (0, 0); TMMA raises the extent to its rows and columns, adds to every element within
them the products of the block pairs, one rounding a pair (05 R78, R79; a zero block's products log 25), and leaves every other element as it was. TADD, TMUL,
TCVT and TTRANS write each block of the destination's shape as its elements' sums, products, values or transposed values
encode (the sign of a zero sum of TADD is FADD's: log 78, the model's choice), and leave other rows. TMOVV, TROWSUM and TROWMAX read without
changing the accumulator: a lane of TROWSUM is its row's sum by the pairwise tree, or 0 outside the extent, one of TROWMAX the
greatest of its row in BF16 rounded up, NaN for a NaN in it, or -Inf outside the extent. TLD loads each row's blocks, poisoned where the header is
ill-formed or the row is misaligned, with TSTAT.FMT, or builds them from plain elements with a scale of 1; TST writes each
row's bytes and no others. A step of TGEMM loads a sweep of both streams as TLD loads rows, those that need more than EXT bytes
poisoned, into the tiles of its parity, adds their product as TMMA does, and steps the nest. TDRAIN sends its rows as
the entry's format encodes them: to memory, counting each row's bytes, here for the last row left; to vector registers as FP32
lanes; or to a braid. TSAVE writes the count, the held accumulators, the extents, the TC registers, the rows and the
accumulators, here in the parts that are left (log 19); TREST restores them (log 84; in a handler the reserved pair, log 20).
No other tile, accumulator, register or byte changes. -/
def Obligations.TileOperationsArePerformed : Prop :=
  ∀ (s : State) (id : Nat) (o : Op), s.mayComplete id o → s.me.id / 128 = s.core.id →
    let c := (s.me.deliver s.core.cycle).ctx
    let done (core : Core) (f : Ctx) : Prop := ∃ t, exec (.longOpComplete s.me.id id) s = .next t ∧ t.core = core ∧
      t.me.ctx = f ∧ t.mem = s.mem ∧ t.me.ops = s.me.ops.filter (fun p => p.id != id) ∧ t.slots = s.slots
    let stores (m : Memory) : Prop := ∃ t, exec (.longOpComplete s.me.id id) s = .next t ∧ t.core = s.core ∧ t.me.ctx = c ∧
      t.mem = m ∧ t.me.ops = s.me.ops.filter (fun p => p.id != id)
    let sums (u v : Acc) (x y : Tile) (tx ty : BitVec 28) : Prop :=
      let w := tcWidth tx
      u.m = max v.m (tcRows tx) ∧ u.n = max v.n (tcRows ty) ∧ ∀ r j, r < 128 → j < 64 → u.get r j =
        if r < tcRows tx ∧ j < tcRows ty then (List.range (tcBlk tx)).foldl (fun e k => Sys2Proof.Num.blockStep e
          (Sys2Proof.Num.zeroBlock (x.block r k) w || Sys2Proof.Num.zeroBlock (y.block j k) w)
          ((List.range (Sys2Proof.Num.perBlock w)).map fun i =>
            (Sys2Proof.Num.readElem (x.block r k) w i, Sys2Proof.Num.readElem (y.block j k) w i)) % 2 ^ 32) (v.get r j)
        else v.get r j
    (∀ t tc, o.task = .tzero t tc → done { s.core with tiles := vset s.core.tiles t Tile.zero } c) ∧
    (∀ a, o.task = .azero a ∨ o.task = .tclaim a → done { s.core with accs := vset s.core.accs a Acc.zero } c) ∧
    (∀ a x y tx ty, o.task = .tmma a x y tx ty → ∃ u : Acc, done { s.core with accs := vset s.core.accs a u } c ∧
      let v := vget s.core.accs a Acc.zero
      sums u v (vget s.core.tiles x Tile.zero) (vget s.core.tiles y Tile.zero) tx ty ∧
      ∀ r, tcRows tx ≤ r → vget u.rows r 0 = vget v.rows r 0) ∧
    (∀ v a row, o.task = .movv v a row →
      done s.core { c with v := vset c.v v.toNat (vget (vget s.core.accs a Acc.zero).rows row 0) }) ∧
    (∀ v a, o.task = .rowsum v a → ∃ x y : VWord,
      done s.core { c with v := vset (vset c.v v.toNat x) (v + 1).toNat y } ∧
      let u := vget s.core.accs a Acc.zero
      let sum (r : Nat) : Nat := if u.m ≤ r ∨ u.n = 0 then 0 else
        (Sys2Proof.Num.treeReduce Sys2Proof.Num.add32 7 ((List.range u.n).map (u.get r))).getD 0
      ∀ i, i < 64 → x.toNat / 2 ^ (32 * i) % 2 ^ 32 = sum i % 2 ^ 32 ∧ y.toNat / 2 ^ (32 * i) % 2 ^ 32 = sum (64 + i) % 2 ^ 32) ∧
    (∀ v a, o.task = .rowmax v a → ∃ x : VWord, done s.core { c with v := vset c.v v.toNat x } ∧
      let u := vget s.core.accs a Acc.zero
      let e (r j : Nat) : Sys2Proof.Num.FV := Sys2Proof.Num.of32 (u.get r j)
      ∀ r, r < 128 → let w := x.toNat / 2 ^ (16 * r) % 2 ^ 16
        (u.m ≤ r ∨ u.n = 0 → w = 0xFF80) ∧
        (r < u.m → (∃ j, j < u.n ∧ (e r j).isNan = true) → w = 0x7FC0) ∧
        (r < u.m → u.n ≠ 0 → (∀ j, j < u.n → (e r j).isNan = false) → ∃ j, j < u.n ∧
          w = Sys2Proof.Num.encode .bf16 2 false (e r j) % 2 ^ 16 ∧ ∀ k, k < u.n → Sys2Proof.Num.lt (e r j) (e r k) = false)) ∧
    (∀ fn d x y td tx ty rm sat, o.task = .tarith fn d x y td tx ty rm sat → fn ≤ 3 → ∃ u : Tile,
      done { s.core with tiles := vset s.core.tiles d u } c ∧
      let a := vget s.core.tiles x Tile.zero; let b := vget s.core.tiles y Tile.zero
      let p := Sys2Proof.Num.perBlock (tcWidth td)
      let value (r j : Nat) : Sys2Proof.Num.FV := match fn with
        | 0 => Sys2Proof.Num.add rm.toNat (a.elem tx r j) (b.elem ty r j)
        | 1 => Sys2Proof.Num.mul (a.elem tx r j) (b.elem ty r j)
        | 2 => a.elem tx r j
        | _ => a.elem tx j r
      (∀ r, tcRows td ≤ r → vget u r 0 = vget (vget s.core.tiles d Tile.zero) r 0) ∧
      ∀ r k, r < tcRows td → k < tcBlk td → u.block r k =
        Sys2Proof.Num.encodeBlock (tcFmt td) (tcType td) rm.toNat sat
          ((List.range (min p (tcValid td - k * p))).map fun j => value r (k * p + j)) % 2 ^ 512) ∧
    (∀ cap t tc rows (g : Nat → List Seg), o.task = .tld cap t tc rows → rows.length = tcRows tc → (∀ e ∈ s.spills, e.slot ≠ s.me.id) →
      let w := tcWidth tc; let p := Sys2Proof.Num.perBlock w; let wb := Sys2Proof.Num.widthBits w
      (∀ (i off : Nat) d, rows[i]? = some (off, d) → s.accepts s.me.id o i cap off = true ∧
        s.segsOf s.me.id o.iface cap off (if d then 64 * tcBlk tc else (tcValid tc * wb + 7) / 8) false = .ok (g i)) →
      let blk (i k : Nat) : Nat := s.readNat (g i) / 2 ^ (512 * k) % 2 ^ 512
      let poisoned (i : Nat) (off : Nat) (k : Nat) : Prop := off % 64 ≠ 0 ∨ Sys2Proof.Num.illFormed (blk i k) w = true
      ∃ (u : Tile) (f : Bool), done { s.core with tiles := vset s.core.tiles t u } { c with fmt := f } ∧
        (f = true ↔ c.fmt = true ∨ ∃ i off k, rows[i]? = some (off, true) ∧ k < tcBlk tc ∧ poisoned i off k) ∧
        (∀ r, tcRows tc ≤ r → vget u r 0 = vget (vget s.core.tiles t Tile.zero) r 0) ∧
        ∀ (i off k : Nat), k < tcBlk tc →
          (rows[i]? = some (off, true) → (poisoned i off k → u.block i k = poisonBlock (blk i k)) ∧
            (¬poisoned i off k → u.block i k = blk i k)) ∧
          (rows[i]? = some (off, false) → Sys2Proof.Num.fmtOf (tcFmt tc) 0 ≠ none →
            u.block i k = Sys2Proof.Num.header (tcFmt tc) (tcType tc) 0x7F0 +
              s.readNat (g i) / 2 ^ (wb * (k * p)) % 2 ^ (wb * min p (tcValid tc - k * p)) * 2 ^ 32)) ∧
    (∀ cap t tc rows (g : Nat → List Seg) (bs : Nat → List Byte), o.task = .tst cap t tc rows → rows.length = tcRows tc →
      let a := vget s.core.tiles t Tile.zero; let w := tcWidth tc
      (∀ (i off : Nat) d, rows[i]? = some (off, d) →
        (d = true → off % 64 = 0 ∧ bs i = (List.range (tcBlk tc)).flatMap fun k => bytesOf 64
          (let b := a.block i k; if Sys2Proof.Num.hFmt b = 0x10 then b else b - b / 2 ^ 30 % 4 * 2 ^ 30)) ∧
        (d = false → ∃ f, Sys2Proof.Num.fmtOf (tcFmt tc) (tcType tc) = some f ∧
          bs i = bytesOf ((tcValid tc * Sys2Proof.Num.widthBits w + 7) / 8) (Sys2Proof.Num.packCodes f.width
            ((List.range (tcValid tc)).map fun j => Sys2Proof.Num.encodeAt f 0x7F0 0 false (a.elem tc i j)))) ∧
        ∀ m : Memory, ({ s with mem := m } : State).accepts s.me.id o i cap off = true ∧
          ({ s with mem := m } : State).segsOf s.me.id o.iface cap off (bs i).length true = .ok (g i)) →
      ∃ u, exec (.longOpComplete s.me.id id) s = .next u ∧ u.core = s.core ∧ u.me.ctx = c ∧ u.slots = s.slots ∧
        u.me.ops = s.me.ops.filter (fun p => p.id != id) ∧
        u.mem = ((List.range rows.length).foldl (fun v i => v.writeSegs (g i) (bs i)) s).mem) ∧
    (∀ a pa pb ta tb n st (V : Nat → Bool × Nat), o.task = .tgemm a pa pb ta tb n st → n.armed = true → o.lvl = s.me.lvl →
      s.me.trapPend = none → (∀ e ∈ s.spills, e.slot ≠ s.me.id) → nestCount n.par.toNat 0 = max (tcRows ta) (tcRows tb) →
      (∀ e ∈ sweepRows ta tb n, s.nestReady s.me.id o e = true ∧ s.readNest s.me.id o.iface e = .ok (V e.key)) →
      let old (k : Nat) : Tile := vget s.core.tiles (if k = 0 then (if st % 2 = 0 then pa.1 else pa.2) else if st % 2 = 0 then pb.1 else pb.2) Tile.zero
      (if st % 2 = 0 then pa.1 ≠ pb.1 else pa.2 ≠ pb.2) →
      let p := Sys2Proof.Num.perBlock; let wb := Sys2Proof.Num.widthBits
      let poisoned (e : NestRow) (k : Nat) : Prop := e.short (V e.key).1 = true ∨ ((V e.key).1 = true ∧
        (e.off % 64 ≠ 0 ∨ Sys2Proof.Num.illFormed ((V e.key).2 / 2 ^ (512 * k) % 2 ^ 512) (tcWidth e.tc) = true))
      ∃ (t : State) (x y : Tile) (u : Acc) (f : Bool), exec (.macroStep s.me.id id) s = .next t ∧
        t.core = { s.core with
          tiles := vset (vset s.core.tiles (if st % 2 = 0 then pa.1 else pa.2) x) (if st % 2 = 0 then pb.1 else pb.2) y
          accs := vset s.core.accs a u } ∧
        t.me.ctx = { s.me.ctx with fmt := f } ∧ t.mem = s.mem ∧
        t.me.op? id = some { o with
          task := .tgemm a pa pb ta tb ((List.range (nestCount n.par.toNat 0)).foldl (fun q _ => q.next) n) (st + 1), begun := true } ∧
        sums u (vget s.core.accs a Acc.zero) x y ta tb ∧
        (f = true ↔ s.me.ctx.fmt = true ∨ ∃ e ∈ sweepRows ta tb n, ∃ k, k < tcBlk e.tc ∧ poisoned e k) ∧
        (∀ r, tcRows ta ≤ r → vget x r 0 = vget (old 0) r 0) ∧ (∀ r, tcRows tb ≤ r → vget y r 0 = vget (old 1) r 0) ∧
        ∀ e ∈ sweepRows ta tb n, ∀ k, k < tcBlk e.tc → let v := (V e.key).2
          let b := (if e.k = 0 then x else y).block (e.key / 2) k; let q := v / 2 ^ (512 * k) % 2 ^ 512
          (e.short (V e.key).1 = true → b = poisonBlock ((old e.k).block (e.key / 2) k)) ∧
          (e.short (V e.key).1 = false → (V e.key).1 = true → (poisoned e k → b = poisonBlock q) ∧ (¬poisoned e k → b = q)) ∧
          (e.short (V e.key).1 = false → (V e.key).1 = false → Sys2Proof.Num.fmtOf (tcFmt e.tc) 0 ≠ none →
            b = Sys2Proof.Num.header (tcFmt e.tc) (tcType e.tc) 0x7F0 +
              v / 2 ^ (wb (tcWidth e.tc) * (k * p (tcWidth e.tc))) %
                2 ^ (wb (tcWidth e.tc) * min (p (tcWidth e.tc)) (tcValid e.tc - k * p (tcWidth e.tc))) * 2 ^ 32)) ∧
    (∀ a route dest bar row, o.task = .drain a route dest bar row →
      let e := route.toNat; let u := vget s.core.accs a Acc.zero; let n := u.n * rtSize e
      let code (x : Nat) : Nat := if rtFmt e = 0x40 then x else
        Sys2Proof.Num.encode (if rtFmt e = 0x30 then .bf16 else .fp16) (rtRm e) false (Sys2Proof.Num.of32 x)
      let vals (i : Nat) : List Nat := (List.range u.n).map (u.get i)
      let bytes (i : Nat) : List Byte := bytesOf n (Sys2Proof.Num.packCodes (8 * rtSize e) ((vals i).map code))
      let at_ (i : Nat) : Nat := ((dest.off : Int) + i * rtPitch e).toNat
      (rtKind e = 2 → row = 0 → exec (.longOpComplete s.me.id id) s = .next (({ s.settleDue s.me.id with
        pushes := s.pushes ++ if u.n = 0 then [] else (List.range u.m).map fun i =>
          ⟨s.me.id / 16384, rtPort e, o.iface, (vals i).map fun x => if rtFmt e = 0x40 then x else
            Sys2Proof.Num.f32 0 (Sys2Proof.Num.decode (if rtFmt e = 0x30 then .bf16 else .fp16) (code x))⟩ } : State).dropOp s.me.id id)) ∧
      (rtKind e = 3 → row = 0 → rtPort e + u.m ≤ 32 → ∃ w : Vector VWord 32, done s.core { c with v := w } ∧
        ∀ k, k < 32 → (u.n ≠ 0 → rtPort e ≤ k → k < rtPort e + u.m → ∀ j, j < 64 →
            (vget w k 0).toNat / 2 ^ (32 * j) % 2 ^ 32 = if j < u.n then u.get (k - rtPort e) j else 0) ∧
          (u.n = 0 ∨ k < rtPort e ∨ rtPort e + u.m ≤ k → vget w k 0 = vget c.v k 0)) ∧
      (∀ g : Nat → List Seg, rtKind e = 1 → bar = none → row = 0 → (∀ i, i < u.m → ∀ m : Memory,
          ({ s with mem := m } : State).accepts s.me.id o i dest (at_ i) = true ∧
          ({ s with mem := m } : State).segsOf s.me.id o.iface dest (at_ i) n true = .ok (g i)) →
        stores ((List.range (if u.n = 0 then 0 else u.m)).foldl (fun v i => v.writeSegs (g i) (bytes i)) s).mem) ∧
      (∀ g : List Seg, rtKind e = 1 → row + 1 = u.m → u.n ≠ 0 → s.barLost bar = none →
        s.accepts s.me.id o row dest (at_ row) = true → s.segsOf s.me.id o.iface dest (at_ row) n true = .ok g →
        stores ((s.writeSegs g (bytes row)).countInto bar n).mem)) ∧
    (∀ cap tiles tcs accs left (g : Nat → List Seg), o.task = .tsave cap tiles tcs accs left →
      (∀ p ∈ left, ∀ m : Memory, ({ s with mem := m } : State).accepts s.me.id o p.1 cap p.1 = true ∧
        ({ s with mem := m } : State).segsOf s.me.id o.iface cap p.1 p.2 true = .ok (g p.1)) →
      ∃ bs : List Byte, bs.length = 256 + 16384 * tiles.length + 32768 * accs.length ∧
        bs.take 256 = bytesOf 256 (tiles.length + (accs.map (2 ^ ·)).sum % 2 ^ 8 * 2 ^ 8 +
          (accs.map fun a => (vget s.core.accs a Acc.zero).m % 2 ^ 8 * 2 ^ (8 * (8 + 2 * a)) +
            (vget s.core.accs a Acc.zero).n % 2 ^ 8 * 2 ^ (8 * (9 + 2 * a))).sum +
          ((List.range 14).map fun i => (tcs.getD i 0).toNat * 2 ^ (8 * (64 + 8 * i))).sum) ∧
        (∀ (i r : Nat) p, tiles[i]? = some p → r < 128 → (bs.drop (256 + 16384 * i + 128 * r)).take 128 =
          bytesOf 128 (vget (vget s.core.tiles p.1 Tile.zero) r 0).toNat) ∧
        (∀ (j r a : Nat), accs[j]? = some a → r < 128 → (bs.drop (256 + 16384 * tiles.length + 32768 * j + 256 * r)).take 256 =
          bytesOf 256 (vget (vget s.core.accs a Acc.zero).rows r 0).toNat) ∧
        stores (left.foldl (fun v p => v.writeSegs (g p.1) ((bs.drop (p.1 - cap.off)).take p.2)) s).mem) ∧
    (∀ cap tiles accs (g : Nat → List Seg), o.task = .trest cap tiles accs → (∀ e ∈ s.spills, e.slot ≠ s.me.id) →
      (tiles.map (·.1)).Nodup → accs.Nodup → (∀ p ∈ tiles, p.1 < 16) → (∀ a ∈ accs, a < 4) →
      let parts := pages cap.off (256 + 16384 * tiles.length + 32768 * accs.length)
      (∀ p ∈ parts, s.accepts s.me.id o p.1 cap p.1 = true ∧ s.segsOf s.me.id o.iface cap p.1 p.2 false = .ok (g p.1)) →
      let bs := parts.flatMap fun p => bytesOf p.2 (s.readNat (g p.1))
      let at_ (off n : Nat) : Nat := natOfBytes ((bs.drop off).take n)
      let pair : Prop := (tiles.map (·.1)).head? = some 14
      ∃ (core : Core) (f : Vector (BitVec 28) 16), done core { c with tc := f } ∧
        core = { s.core with tiles := core.tiles, accs := core.accs } ∧
        (∀ (i r : Nat) p, tiles[i]? = some p → r < 128 →
          vget (vget core.tiles p.1 Tile.zero) r 0 = .ofNat 1024 (at_ (256 + 16384 * i + 128 * r) 128)) ∧
        (∀ p, p ∉ tiles.map (·.1) → vget core.tiles p Tile.zero = vget s.core.tiles p Tile.zero) ∧
        (∀ (j a : Nat), accs[j]? = some a → let u := vget core.accs a Acc.zero
          u.m = at_ (8 + 2 * a) 1 ∧ u.n = at_ (9 + 2 * a) 1 ∧ ∀ r, r < 128 →
            vget u.rows r 0 = .ofNat 2048 (at_ (256 + 16384 * tiles.length + 32768 * j + 256 * r) 256)) ∧
        (∀ a, a ∉ accs → vget core.accs a Acc.zero = vget s.core.accs a Acc.zero) ∧
        (¬pair → (∀ i, i < 14 → vget f i 0 = .ofNat 28 (at_ (64 + 8 * i) 8)) ∧ ∀ i, 14 ≤ i → vget f i 0 = vget c.tc i 0) ∧
        (pair → vget f 14 0 = .ofNat 28 (at_ 64 8) ∧ vget f 15 0 = .ofNat 28 (at_ 72 8) ∧ ∀ i, i < 14 → vget f i 0 = vget c.tc i 0))

/-! ### Braids, attention -/

/-- BGLOAD, BGRUN, BGFREE and BGSTAT (17 R246, R249-R252), while the die's fabric takes jobs (02 R25). An image that passes its
checks is loaded into the lowest free slots under the handle BGLOAD returns. BGRUN clears the braid's counters and, where V is
not 0 and both edges agree, arms it for V vectors of its sequence and ply; with V = 0 it arms nothing, and where an edge does
not agree it records the edge and arms nothing (edge 0 where neither agrees, log 90). BGFREE closes the braid to input and
BGSTAT reads its status. All count in class C; BGLOAD, whose image in scratchpad takes its entry of the range scoreboard (10
R161), and BGSTAT write the handle or the status, without a push, as they leave it, 0 where no braid is loaded. That BGSTAT faults on a handle that is freed or being freed is the model's reading (log 61, DEDUCED). -/
def Obligations.BraidInstructions : Prop :=
  ∀ (s : State) (d x y : BitVec 6) (c k : BitVec 4) (b : Braid) (hs segs : List Seg), s.onCompute → s.hasRoom .C →
    vget s.module.engHold s.myDie 0 ≤ s.time → (∀ o ∈ s.me.ops, o.task.acquires = false) →
    let cap := s.rc c
    let h := s.readNat hs; let img := s.readNat segs
    let nodes := entries img 64 64 (bhNodes h)
    let slots := (bhNodes h + 131071) / 131072
    (∀ (chk : NodeChk) (i : Nat), s.checkTag cap { rd := true } cap.off = .ok () → cap.off % 64 = 0 →
      s.checkRange cap { rd := true } cap.off 64 = .ok () → s.translateEach cap false (accessPieces cap cap.off 64) = .ok hs →
      bhOk h = true → s.checkRange cap { rd := true } cap.off (bhLen h) = .ok () →
      s.translateEach cap false (accessPieces cap cap.off (bhLen h)) = .ok segs →
      s.board cap cap.off (bhLen h) false = .ok () → nodesCheck h nodes = .ok chk →
      listsOk h chk (entries img (bhP h) 16 (bhNin h)) (entries img (bhQ h) 16 (bhNout h)) = true →
      chk.seen.all (fun p => decide (p.2 ≤ 1024)) = true → s.freeBraidSlots s.myDie slots = some i →
      s.boardRoom (spRange cap cap.off (bhLen h) false).length = .ok () →
      ∃ n : Braid, exec (.bgload d c) s = .next { s.starts .C (.bgload d (.ofNat 64 (i + slots * 2 ^ 8)))
            (spRange cap cap.off (bhLen h) false) with
          braids := s.braids ++ [n], gone := s.gone.filter fun g => !(g.1 == s.myDie && g.2.1 == i) } ∧
        n.die = s.myDie ∧ n.handle = i ∧ n.nslot = slots ∧ n.iface = s.me.iface ∧ n.run = none ∧ n.freeing = none ∧
        n.nodes.map BitVec.toNat = nodes) ∧
    (s.braidOf (s.rx x) = .ok b →
      exec (.bgfree x) s = .next ((s.starts .C (.bgfree b.handle) []).onBraid b.die b.handle fun q =>
        { q with run := q.run.map fun r => { r with open_ := false }, freeing := some (s.me.id, s.nextOp) })) ∧
    (s.braidOf (s.rx x) = .ok b → b.armed = false → (∀ k, k ≤ 2 → s.boardRoom k = .ok ()) →
      ∀ (e : Nat) (dest bo : Cap) (bar : Bar),
      s.route k.toNat = .ok (e, dest, bo) → rtOk e = true → let u := (s.rx x).toNat; let v := (s.rx y).toNat
      let n := v % 2 ^ 32; let sf := v / 2 ^ 40 % 2 ^ 8; let ls := v / 2 ^ 48 % 2 ^ 16
      (c ≠ 0 → s.checkCap cap { rd := true } cap.off (n * ls * sfmtSize sf) = .ok ()) →
      (rtKind e = 1 → s.checkDest dest e n (b.nout * rtSize e) = .ok () ∧ s.routeBar e dest bo = .ok bar) →
      (rtKind e ≠ 1 → bar = none) →
      let input : Prop := c = 0 ∨ (sf ∈ [0x40, 0x30, 0x31] ∧ ls ≠ 0 ∧ ∀ i ∈ b.list, i < ls)
      let output : Prop := (rtKind e = 1 ∧ rtFmt e = b.ofmt) ∨
        (rtKind e = 3 ∧ b.ofmt = 0x40 ∧ rtPort e + (b.nout + 63) / 64 ≤ 32) ∨
        (rtKind e = 2 ∧ ∃ t, s.braid? b.die (rtPort e) = some t ∧ t.iface = b.iface ∧ ∀ i ∈ t.list, i < b.nout)
      ∃ (f : Braid → Braid) (regs : Bool) (sp : List (Nat × Nat × Bool)),
        exec (.bgrun x y c k) s = .next ((s.starts .C (.bgrun b.handle regs) sp).onBraid b.die b.handle f) ∧
        ∀ q, (f q).cut = 0 ∧ (f q).done = 0 ∧ (f q).lost = false ∧ (f q).nan = false ∧ (f q).nodes = q.nodes ∧
          (n = 0 → (f q).run = none ∧ (f q).ev = false) ∧
          (n ≠ 0 → ¬input → (f q).run = none ∧ (f q).ev = true ∧ (f q).edge = false) ∧
          (n ≠ 0 → input → ¬output → (f q).run = none ∧ (f q).ev = true ∧ (f q).edge = true) ∧
          (n ≠ 0 → input → output → (f q).ev = false ∧ (f q).run = some
            { slot := s.me.id, op := s.nextOp, seq := u / 2 ^ 32 % 2 ^ 24, ply := v / 2 ^ 32 % 2 ^ 5, total := n, taken := 0,
              flight := [], src := if c = 0 then none else some (cap, sf, ls), route := .ofNat 512 e, dest := dest, bar := bar,
              open_ := true })) ∧
    (let g := (s.rx x).toNat % 64;
      (∀ q ∈ s.braids, q.die = s.myDie → q.handle = g → q.iface = s.me.iface ∧ q.freeing = none) →
      (s.myDie, g, s.me.iface) ∉ s.gone → exec (.bgstat d x) s = .next (s.starts .C (.bgstat g d) [])) ∧
    (∀ (id : Nat) (o : Op), s.mayComplete id o →
      let ends (v : XWord) : State := ((s.settleDue s.me.id).onSlot s.me.id fun m => { m with ctx := m.ctx.writeX d v }).dropOp s.me.id id
      (∀ v, o.task = .bgload d v → exec (.longOpComplete s.me.id id) s = .next (ends v)) ∧
      (∀ h, o.task = .bgstat h d →
        (∀ q, s.braids.find? (fun q => q.die == s.me.id / 16384 && q.handle == h) = some q → q.iface = o.iface → q.nslot < 64 →
          exec (.longOpComplete s.me.id id) s = .next (ends (.ofNat 64 (q.done % 2 ^ 32 + q.nslot * 2 ^ 32 + 2 ^ 38 +
            (if q.armed then 2 ^ 39 else 0) + (if q.nan then 2 ^ 40 else 0) + (if q.edge then 2 ^ 41 else 0) +
            (if q.ev then 2 ^ 42 else 0) + (if q.lost then 2 ^ 43 else 0) + min q.cut 0xFFFF * 2 ^ 48)))) ∧
        ((∀ q ∈ s.braids, q.die = s.me.id / 16384 → q.handle ≠ h) → exec (.longOpComplete s.me.id id) s = .next (ends 0))))

/-- ATTN, AMERGE, SUMM, KVAPP, KVMAP and KVSHOOT (19 R272-R277) start in class C once what they read at issue is within
its limits and their ranges pass: ATTN as the youngest job of its die's queue, with its record, its query, destination and
barrier; SUMM with its key and count; KVAPP with its descriptor; AMERGE with the arrays' count, dimension and miss flag.
Performed, KVMAP writes what R276 makes of the entry that the buffers hold or the walk of R258 hits, here in the main table, and 0
for a miss; SUMM writes nothing for a key that misses, and else takes its heads in turn once the frame is its own, each with the means rounded RNE and the
greatest magnitudes rounded RUP of its columns (R274), its bytes counted; KVAPP finds its entry, or takes a frame, zeroes it and
inserts one (R275, R259, R271), and takes its heads in turn, the key row and the value row of each encoded with saturation;
AMERGE writes its records, here the last, merged (R265) or finalised (R266), and then the header (R273). A head of SUMM and
KVAPP and a record of AMERGE are elements of a stream by log 19, and FP32 rows are read whatever their pages' D by log 58.
That KVAPP's row offsets count from its capability's own OFFSET is log 32, that SUMM's count goes up to 128 log 38, and that
a block's frame fit is judged by its entry's precision code as the command issues log 62: readings of the model's. -/
def Obligations.AttentionInstructions : Prop :=
  ∀ (s : State) (d a : BitVec 6) (c q b : BitVec 4) (ar : Arena) (y : Nat) (segs : List Seg) (bar : Bar) (g : Seg),
    s.onCompute → s.hasRoom .C → (∀ k, k ≤ 3 → s.boardRoom k = .ok ()) →
    let cap := s.rc c; let x := (s.rx a).toNat; let z := (s.rx d).toNat
    let desc := s.readNat segs
    (s.arena = .ok ar →
    (s.access cap { rd := true } cap.off 128 64 [] false = .ok segs → s.layer ar (jbLayer desc) = .ok y → jobOk desc = true →
      s.jobFits ar y desc = true →
      let qry := s.fieldCap cap segs 1; let dest := s.fieldCap cap segs 2; let bo := s.fieldCap cap segs 3
      s.checkRange qry { rd := true } qry.off (jbQn desc * lyH y * lyDh y * (if jbQfmt desc = 0 then 4 else 2)) = .ok () →
      s.checkRange dest { wr := true } dest.off (arrayLen (jbQn desc * lyH y) (lyDh y)) = .ok () →
      (bo.tag = false ∧ bar = none ∨ bo.tag = true ∧ s.barObject bo ⟨true, true, true, false⟩ bo.off = .ok g ∧ bar = some g) →
      ∃ (j : Job) (sp : _), exec (.attn c) s =
          .next { s.starts .C (.attn (jbSeq desc) (jbPly desc)) sp with jobs := s.jobs ++ [j] } ∧
        j.slot = s.me.id ∧ j.op = s.nextOp ∧ j.iface = s.me.iface ∧ j.die = s.myDie ∧ j.qry = qry ∧ j.dest = dest ∧
        j.bar = bar ∧ j.arena = ar ∧ j.layer.toNat = y % 2 ^ 128 ∧ j.desc.toNat = desc % 2 ^ 1024) ∧
    (s.layer ar (x / 2 ^ 24 % 2 ^ 8) = .ok y → s.keyFits ar y (x % 2 ^ 56) = true → s.barAt c = .ok bar →
      exec (.summ c a) s =
        .next (s.starts .C (.summ (x % 2 ^ 56) (x / 2 ^ 56 % 2 ^ 7 + 1) bar ar (.ofNat 128 y) none) [])) ∧
    (s.access cap { rd := true } (cap.off + (s.rx a).toInt) 32 32 [] false = .ok segs → s.layer ar (apLayer desc) = .ok y →
      apOk y desc = true → s.keyFits ar y (kvKey (apSeq desc) (apLayer desc) (apBlock y desc).1) = true →
      let n := 4 * lyG y * lyDh y
      s.checkCap cap { rd := true } (cap.off + desc / 2 ^ 128 % 2 ^ 48 : Nat) n = .ok () →
      s.checkCap cap { rd := true } (cap.off + desc / 2 ^ 192 % 2 ^ 48 : Nat) n = .ok () →
      ∃ sp, exec (.kvapp c a) s = .next (s.starts .C (.kvapp cap (.ofNat 256 desc) ar (.ofNat 128 y) none) sp)) ∧
    exec (.kvmap d a) s = .next (s.starts .C (.kvmap d (x % 2 ^ 56) ar) []) ∧
    exec (.kvshoot a d) s = .next (s.starts .C (.kvshoot (x % 2 ^ 24) (z % 2 ^ 24) (z / 2 ^ 24 % 2 ^ 24)) [])) ∧
    (∀ ha hb : Nat, s.arrayHead (s.rc q) = .ok ha → (b ≠ 0 → s.arrayHead (s.rc b) = .ok hb) → (b = 0 → hb = 0) →
      let n := ha % 2 ^ 32; let dh := ha / 2 ^ 32 % 2 ^ 10; let len := arrayLen n dh
      ha / 2 ^ 42 % 2 = 0 → (b ≠ 0 → hb / 2 ^ 42 % 2 = 0 ∧ hb % 2 ^ 32 = n ∧ hb / 2 ^ 32 % 2 ^ 10 = dh) →
      s.checkCap (s.rc q) { rd := true } (s.rc q).off len = .ok () →
      (b ≠ 0 → s.checkCap (s.rc b) { rd := true } (s.rc b).off len = .ok ()) →
      s.checkCap cap { wr := true } cap.off len = .ok () →
      ∃ (miss : Bool) (sp : _), exec (.amerge c q b) s =
        .next (s.starts .C (.amerge cap (s.rc q) (if b = 0 then none else some (s.rc b)) n dh miss ⟨0, [], false, false, false⟩) sp) ∧
        (miss = true ↔ ha / 2 ^ 46 % 2 = 1 ∨ hb / 2 ^ 46 % 2 = 1)) ∧
    (∀ (id : Nat) (o : Op), s.mayComplete id o → s.spills = [] →
      let v := s.settleDue s.me.id; let w := Sys2Proof.Num.widthClass
      let leaves (m : Memory) : Prop := ∃ t, exec (.longOpComplete s.me.id id) s = .next t ∧ t.core = s.core ∧
        t.me.ctx = v.me.ctx ∧ t.mem = m ∧ t.me.ops = s.me.ops.filter (fun p => p.id != id)
      let at_ (t : State) (off n : Nat) (write : Bool) (g : List Seg) : Prop :=
        t.segsOf s.me.id o.iface (arenaCap ar.oid) off n write = .ok g
      (∀ e key, o.task = .kvmap e key ar →
        let value (k : Nat) : Nat := 2 ^ 63 + k / 2 ^ 109 % 2 * 2 ^ 53 + k / 2 ^ 108 % 2 * 2 ^ 52 + k / 2 ^ 119 % 16 * 2 ^ 48 +
          k / 2 ^ 111 % 256 * 2 ^ 40 + k / 2 ^ 56 % 2 ^ 40
        let writes (u : Nat) : Prop := ∃ t, exec (.longOpComplete s.me.id id) s = .next t ∧
          t.me.ctx = v.me.ctx.writeX e (.ofNat 64 u) ∧ t.mem = s.mem ∧ t.core = s.core ∧
          t.me.ops = s.me.ops.filter (fun p => p.id != id)
        (∀ off k, s.kvCached s.me.id o.iface key = some (off, k) → writes (value k)) ∧
        (∀ (j : Nat) (p : Nat → List Seg), s.kvCached s.me.id o.iface key = none → j < 8 →
          let h := key * 0x9E3779B97F4A7C15 % 2 ^ 64 / 2 ^ (64 - ar.mapLog)
          let k (i : Nat) : Nat := v.readNat (p i)
          let hit (i : Nat) : Prop := k i / 2 ^ 110 % 2 = 1 ∧ k i / 2 ^ 123 % 2 = 0 ∧ k i % 2 ^ 56 = key
          (∀ i, i ≤ j → at_ v (ar.mapOff + 16 * ((h + i) % 2 ^ ar.mapLog)) 16 false (p i)) → (∀ i, i < j → ¬hit i ∧ k i ≠ 0) →
          (hit j → writes (value (k j))) ∧ (k j = 0 → writes 0))) ∧
      (∀ key count b l, o.task = .summ key count b ar l none → v.kvLookup s.me.id o.iface ar key = .ok (v, none) → leaves s.mem) ∧
      (∀ off k n, v.kvCount s.me.id o.iface ar (k / 2 ^ 56 % 2 ^ 40) = .ok n → n ≤ 1 →
        (∀ key count b l, o.task = .summ key count b ar l none → v.kvLookup s.me.id o.iface ar key = .ok (v, some (off, k)) →
          codeFits l.toNat (k / 2 ^ 119 % 16) ar.frameLog = true → let gs := List.range (lyG l.toNat)
          exec (.longOpComplete s.me.id id) s = .next ((v.beginHeads v s.me.id o (.summ key count b ar l (some (k, gs)))).summHeads
            s.me.id o key count b ar l k gs)) ∧
        (∀ cap q l, o.task = .kvapp cap q ar l none → let e := q.toNat; let b := apBlock l.toNat e
          v.kvLookup s.me.id o.iface ar (kvKey (apSeq e) (apLayer e) b.1) = .ok (v, some (off, k)) →
          codeFits l.toNat (k / 2 ^ 119 % 16) ar.frameLog = true → b.2.2 = none → e / 2 ^ 37 % 2 = 0 →
          let gs := List.range (lyG l.toNat)
          exec (.longOpComplete s.me.id id) s = .next ((v.beginHeads v s.me.id o (.kvapp cap q ar l (some (k, gs)))).kvappHeads
            s.me.id o cap q ar l k gs))) ∧
      (∀ key count b l k h (p : Nat → List Seg) (m n : List Seg), o.task = .summ key count b ar l (some (k, [h])) →
        let f := frameOf l.toNat ((k / 2 ^ 119 % 16)); let base := 64 * (k / 2 ^ 56 % 2 ^ 40)
        let col (i : Nat) : List Sys2Proof.Num.FV := (List.range count).map fun r => if 3 ≤ k / 2 ^ 119 % 16 then .nan qnan else
          let q := Sys2Proof.Num.perBlock ((w f.kf).getD 0)
          Sys2Proof.Num.readElem (v.readNat (p r) / 2 ^ (512 * (i / q)) % 2 ^ 512) ((w f.kf).getD 0) (i % q)
        let nan (i : Nat) : Bool := (col i).any (·.isNan)
        let mean (i : Nat) : Sys2Proof.Num.FV := if nan i then .nan qnan else
          Sys2Proof.Num.div ((col i).tail.foldl (Sys2Proof.Num.add 0) ((col i).headD (.fin false 0 0))) (.fin false count 0)
        let mag (i : Nat) : Sys2Proof.Num.FV := if nan i then .nan qnan else
          (col i).foldl (fun a x => Sys2Proof.Num.maxV a x.abs) (.fin false 0 0)
        let row (rm : Nat) (x : Nat → Sys2Proof.Num.FV) : List Byte := bytesOf (64 * f.rbs)
          (rowOf (lySfmt l.toNat) 0 rm false f.rbs ((List.range (lyDh l.toNat)).map x))
        (k / 2 ^ 119 % 16 < 3 → ∀ r, r < count → at_ v (base + f.keyRow h r) (64 * f.rbk) false (p r)) → at_ v (base + f.meanRow h) (64 * f.rbs) true m →
        at_ (v.writeSegs m (row 0 mean)) (base + f.meanRow h + 64 * f.rbs) (64 * f.rbs) true n → v.barLost b = none →
        leaves ((((v.writeSegs m (row 0 mean)).writeSegs n (row 2 mag)).countInto b (2 * 64 * f.rbs)).mem)) ∧
      (∀ cap q l k h (rk rv wk wv : List Seg), o.task = .kvapp cap q ar l (some (k, [h])) →
        let e := q.toNat; let f := frameOf l.toNat ((k / 2 ^ 119 % 16)); let base := 64 * (k / 2 ^ 56 % 2 ^ 40); let dh := lyDh l.toNat
        let r := e / 2 ^ 64 % 64
        let read (off : Nat) (g : List Seg) : Prop := v.segsOf s.me.id o.iface cap (cap.off + off + 4 * dh * h) (4 * dh) false = .ok g
        let row (fmt ty n : Nat) (g : List Seg) : List Byte := bytesOf (64 * n) (rowOf fmt ty 0 true n
          ((List.range dh).map fun i => Sys2Proof.Num.of32 (v.readNat g / 2 ^ (32 * i) % 2 ^ 32)))
        read (e / 2 ^ 128 % 2 ^ 48) rk → read (e / 2 ^ 192 % 2 ^ 48) rv →
        at_ v (base + f.keyRow h r) (64 * f.rbk) true wk →
        at_ (v.writeSegs wk (row f.kf f.kt f.rbk rk)) (base + f.valRow h r) (64 * f.rbv) true wv →
        leaves ((v.writeSegs wk (row f.kf f.kt f.rbk rk)).writeSegs wv (row f.vf f.vt f.rbv rv)).mem) ∧
      (∀ cap q l off u us last (z ge gc : List Seg), o.task = .kvapp cap q ar l none →
        let e := q.toNat; let b := apBlock l.toNat e; let i := o.iface; let key := kvKey (apSeq e) (apLayer e) b.1
        let spec := e / 2 ^ 37 % 2; let gs := List.range (lyG l.toNat)
        v.kvCached s.me.id i key = none → v.kvWalk s.me.id i ar key = .ok ⟨none, some off, last⟩ → (v.iface i).kvPool = u :: us →
        let k := key + u % 2 ^ 40 * 2 ^ 56 + b.2.2.getD 0 % 4096 * 2 ^ 96 + spec * 2 ^ 109 + 2 ^ 110 + e / 2 ^ 32 % 32 * 2 ^ 111
        k < 2 ^ 119 → key < 2 ^ 56 → codeFits l.toNat 0 ar.frameLog = true →
        let t1 := (v.setIface i { v.iface i with kvPool := us }).writeSegs z (bytesOf (2 ^ ar.frameLog) 0)
        let t2 : State := { t1.writeSegs ge (bytesOf 16 k) with
          kvBufs := ⟨s.me.id / 16384, i, key, off, k⟩ :: v.kvBufs.filter fun x => !(x.iface == i && (x.off == off || x.key == key)) }
        let t3 := t2.writeSegs gc (bytesOf 4 1)
        at_ (v.setIface i { v.iface i with kvPool := us }) (64 * u) (2 ^ ar.frameLog) true z → at_ t1 off 16 true ge →
        at_ t2 (ar.countOff u) 4 true gc →
        exec (.longOpComplete s.me.id id) s =
          .next ((v.beginHeads t3 s.me.id o (.kvapp cap q ar l (some (k, gs)))).kvappHeads s.me.id o cap q ar l k gs)) ∧
      (∀ dst ca cb n dh miss k nan empty (ga gb gd gh : List Seg), o.task = .amerge dst ca cb n dh miss ⟨k, [], nan, empty, false⟩ →
        k + 1 = n → let off := 64 + k * (16 + 4 * dh); let len := 16 + 4 * dh
        let seen (t : State) (x : Cap) (f m : Nat) (write : Bool) (g : List Seg) : Prop := t.segsOf s.me.id o.iface x f m write = .ok g
        seen v ca (ca.off + off) len false ga → (∀ x, cb = some x → seen v x (x.off + off) len false gb) → seen v dst (dst.off + off) len true gd →
        let r : SRec := if cb.isSome then ⟨SState.merge (readRec (v.readNat ga) dh) (readRec (v.readNat gb) dh), false, false⟩
          else SState.finalise (readRec (v.readNat ga) dh)
        let t := v.writeSegs gd (bytesOf len (packWords 32 (r.words dh)))
        seen t dst dst.off 64 true gh → leaves (t.writeSegs gh (bytesOf 64 (n % 2 ^ 32 + dh % 1024 * 2 ^ 32 +
          (if cb.isSome then 0 else 2 ^ 42) + (if nan || r.st.isNone then 2 ^ 43 else 0) +
          (if empty || r.empty then 2 ^ 44 else 0) + if miss then 2 ^ 46 else 0))).mem)) ∧
    (∀ x y : SState, let p := mergeWeight x.m (max32 x.m y.m); let q := mergeWeight y.m (max32 x.m y.m)
      let mix (i j : Nat) : Nat := Sys2Proof.Num.add32 (Sys2Proof.Num.mul32 p i) (Sys2Proof.Num.mul32 q j)
      let r : SState := ⟨max32 x.m y.m, mix x.l y.l, List.zipWith mix x.o y.o⟩
      SState.merge (some x) (some y) = (if x.anyNan || y.anyNan || r.anyNan then none else some r) ∧
      SState.finalise (some x) = (if x.l = 0 then ⟨some { x with o := x.o.map fun _ => 0 }, true, true⟩
        else ⟨some { x with o := x.o.map fun i => Sys2Proof.Num.f32 0 (Sys2Proof.Num.div (Sys2Proof.Num.of32 i) (Sys2Proof.Num.of32 x.l)) }, false, true⟩))

/-! ### Soft registers, the position log and the splice tree -/

/-- SLDH, SST, SMIX and SEMB (22 R278-R282): a well-formed image becomes the soft register as it stands in memory; SST
stores it as 32 bytes; SMIX adds its weight to the lowest pair of its token, or appends a pair, and clears DV; SEMB turns a
token, with weight 1.0, or a MIX into the FP32 vector whose every element is the weighted sum over the pairs, in pair order,
one rounding a pair, and whose bytes go to its destination's offset. A register that an earlier operation is to write waits
for it, and one that is to be written also for those that are to read it (15 R226, 22 R279). That what SEMB and SMIX read is read at issue is log 40,
that a TEXT may have any LEN log 41: the model's readings. -/
def Obligations.SoftRegisters : Prop :=
  ∀ (s : State) (d a : BitVec 3) (x y : BitVec 6) (c : BitVec 4) (segs : List Seg), s.onCompute →
    let cap := s.rc c; let q := (s.rs d).desc.toNat; let v := s.readNat segs
    (∀ k, k ≤ 20 → s.boardRoom k = .ok ()) →
    (s.softFree d = .ok () → s.access cap { rd := true } cap.off 32 32 [] false = .ok segs →
      s.syncAccess segs false = .ok () → softOk (v % 2 ^ 128) = true →
      exec (.sldh d c) s = .next (s.passes fun m => { m with ctx := { m.ctx with
        s := vset m.ctx.s d.toNat ⟨.ofNat 128 v, .ofNat 64 (v / 2 ^ 128)⟩ } })) ∧
    (s.softReady d = .ok () → s.hasRoom .S → s.access cap { wr := true } cap.off 32 32 [] false = .ok segs →
      exec (.sst d c) s =
        .next (s.starts .S (.store segs (bytesOf 32 (q + (s.rs d).dig.toNat * 2 ^ 128)) false) [])) ∧
    (let pad := padSeg (s.me.id / 128) (sfOff q) (8 * sfLen q);
      s.softFree d = .ok () → s.hasRoom .S → sfKind q = 3 → s.syncAccess [pad] false = .ok () →
      let id := (s.rx x).toNat % 2 ^ 32; let add := (s.rx y).toNat % 2 ^ 32
      let pairs := mixPairs (sfLen q) (s.readNat [pad])
      let mixes (n at_ w : Nat) : Prop := ∃ r sp, exec (.smix d x y) s =
          .next (s.starts .S (.smix d r (sfOff q + 8 * at_) (bytesOf 8 (id + w * 2 ^ 32))) sp) ∧ r.dig = (s.rs d).dig ∧
        sfKind r.desc.toNat = 3 ∧ sfDv r.desc.toNat = 0 ∧ sfLen r.desc.toNat = n ∧ sfOff r.desc.toNat = sfOff q ∧
        sfSeq r.desc.toNat = sfSeq q ∧ sfPly r.desc.toNat = sfPly q ∧ sfSpec r.desc.toNat = sfSpec q
      (∀ j, pairs[j]?.map (·.1) = some id → (∀ i, i < j → pairs[i]?.map (·.1) ≠ some id) →
        mixes (sfLen q) j (Sys2Proof.Num.add32 (pairs.getD j (0, 0)).2 add)) ∧
      ((∀ p ∈ pairs, p.1 ≠ id) → sfLen q < 16 → sfOff q + 8 * (sfLen q + 1) ≤ softLimit → mixes (sfLen q + 1) (sfLen q) add)) ∧
    (∀ ps : List (Nat × Nat), let p := (s.rs a).desc.toNat
      s.hasRoom .C → s.softReady a = .ok () → s.softFree d = .ok () →
      (sfKind p = 1 ∧ ps = [(sfTok p, 0x3F800000)] ∨
        sfKind p = 3 ∧ sfLen p ≤ 16 ∧ ∃ w, s.padRead (sfOff p) (8 * sfLen p) = .ok w ∧ ps = mixPairs (sfLen p) w) →
      s.access cap { rd := true } cap.off 64 64 [] false = .ok segs → s.syncCommand = .ok () → embOk v = true →
      let dim := v / 2 ^ 32 % 2 ^ 16; let fmt := v / 2 ^ 48 % 2 ^ 8; let pitch := v / 2 ^ 64 % 2 ^ 64
      let width := 8 * sfmtSize fmt
      ∀ row : Nat → List Seg, (∀ e ∈ ps, e.1 < v % 2 ^ 32 ∧
        s.access cap { rd := true } (cap.off + 64 + e.1 * pitch : Nat) (dim * sfmtSize fmt) 1 [] false = .ok (row e.1)) →
      sfOff q % 64 = 0 → sfOff q + 4 * dim ≤ softLimit →
      ∃ (r : Soft) (o : List Nat) (sp : _),
        exec (.semb d a c) s = .next (s.starts .C (.soft d r (sfOff q) (o.flatMap fun e => bytesOf 4 e)) sp) ∧
        o.length = dim ∧
        (∀ i, i < dim → o[i]? = some (ps.foldl (fun b e => Sys2Proof.Num.f32 0 (Sys2Proof.Num.add 0 (Sys2Proof.Num.of32 b)
          (Sys2Proof.Num.mul (Sys2Proof.Num.of32 e.2)
            (Sys2Proof.Num.decode (ofmtOf fmt) (s.readNat (row e.1) / 2 ^ (width * i) % 2 ^ width))))) 0)) ∧
        sfKind r.desc.toNat = 2 ∧ sfFmt r.desc.toNat = 0x40 ∧ sfLen r.desc.toNat = dim ∧ sfOff r.desc.toNat = sfOff q ∧
        sfDv r.desc.toNat = 0 ∧ sfSeq r.desc.toNat = sfSeq p ∧ sfPly r.desc.toNat = sfPly p ∧ sfSpec r.desc.toNat = sfSpec p)

/-- SCOLL, SDIG, SLOG and SREPLAY (22 R283-R287). SCOLL gives a TEXT's own token, and of a MIX the heaviest token, ties to
the lower ID, or the one its sample reaches, as a collapsed TEXT; SDIG returns a TEXT's token, or the digest of the content,
which it also keeps; SLOG reserves its record and its arena bytes in the log's header as it starts, and writes its content
there and a record of it, with the digest of a HID or a MIX; SREPLAY restores a record, a HID or a MIX once its stored bytes
have the record's digest, with those bytes. That sources and logs are read, and the head advanced, at issue is log 40. -/
def Obligations.SoftPositions : Prop :=
  ∀ (s : State) (d a : BitVec 3) (x u : BitVec 6) (c : BitVec 4) (hs rs : List Seg) (w : Nat), s.onCompute → s.hasRoom .C →
    s.softReady a = .ok () → (∀ k, k ≤ 2 → s.boardRoom k = .ok ()) →
    let cap := s.rc c; let q := (s.rs a).desc.toNat; let p := (s.rs d).desc.toNat; let pairs := mixPairs (sfLen q) w
    let gives (i : Instr) (tok col : Nat) : Prop := ∃ r sp, exec i s = .next (s.starts .C (.soft d r 0 []) sp) ∧
      sfKind r.desc.toNat = 1 ∧ sfTok r.desc.toNat = tok ∧ sfCol r.desc.toNat = col ∧ sfOff r.desc.toNat = sfOff p ∧
      sfDv r.desc.toNat = 0 ∧ sfSeq r.desc.toNat = sfSeq q ∧ sfPly r.desc.toNat = sfPly q ∧ sfSpec r.desc.toNat = sfSpec q ∧
      r.dig = 0
    let digest (fmt : Nat) (bytes : List Byte) : Nat := natOfBytes (Keccak.shake256 8 (.ofNat 8 fmt :: bytes))
    let fmt := if sfKind q = 2 then sfFmt q else 0
    let n := (s.rx x).toNat % 2 ^ 32
    let rw : Rights := ⟨true, true, true, false⟩
    (s.softFree d = .ok () → sfKind q = 1 → gives (.scollMax d a) (sfTok q) (sfCol q) ∧ gives (.scollSmp d a u) (sfTok q) (sfCol q)) ∧
    (s.softFree d = .ok () → sfKind q = 3 → sfLen q ≠ 0 → s.padRead (sfOff q) (8 * sfLen q) = .ok w →
      (∃ e ∈ pairs, gives (.scollMax d a) e.1 1 ∧
        ((∀ f ∈ pairs, fpNan f.2 ∧ e.1 ≤ f.1) ∨ (¬fpNan e.2 ∧ ∀ f ∈ pairs, fpNan f.2 ∨
          Sys2Proof.Num.lt (Sys2Proof.Num.of32 f.2) (Sys2Proof.Num.of32 e.2) = true ∨
          (Sys2Proof.Num.lt (Sys2Proof.Num.of32 e.2) (Sys2Proof.Num.of32 f.2) = false ∧ e.1 ≤ f.1)))) ∧
      gives (.scollSmp d a u) (collSmp ((s.rx u).toNat % 2 ^ 32) (byId pairs)) 1) ∧
    (s.softFree a = .ok () → sfKind q = 1 → exec (.sdig x a) s = .next (s.starts .C (.sdig x (.ofNat 64 (sfTok q)) a (s.rs a)) [])) ∧
    (s.softFree a = .ok () → 2 ≤ sfKind q → s.padRead (sfOff q) (sfBytes q) = .ok w →
      let g := digest fmt (bytesOf (sfBytes q) w)
      ∃ sp, exec (.sdig x a) s =
        .next (s.starts .C (.sdig x (.ofNat 64 g) a ⟨(s.rs a).desc ||| (1#128 <<< 19), .ofNat 64 g⟩) sp)) ∧
    (s.softFree a = .ok () → 1 ≤ sfKind q → s.access cap rw cap.off 64 64 [1, 2, 5] true = .ok hs → s.syncCommand = .ok () →
      let h := logHead (s.readNat hs); let used := (h.used + 63) / 64 * 64
      let at_ := (64 + 32 * h.limit + 63) / 64 * 64 + used
      h.next ≠ h.limit → used + sfBytes q ≤ h.alimit →
      s.checkCap cap rw (cap.off + 64 + 32 * h.next : Nat) 32 = .ok () →
      (sfBytes q ≠ 0 → s.checkCap cap rw (cap.off + at_ : Nat) (sfBytes q) = .ok ()) →
      s.padRead (sfOff q) (sfBytes q) = .ok w →
      let bytes := bytesOf (sfBytes q) w
      let fresh : Prop := 2 ≤ sfKind q ∧ sfDv q = 0
      ∃ (r : Soft) (l : Nat) (sp : _), exec (.slog a c x) s =
        .next ((s.starts .C (.slog a r cap at_ h.next bytes (bytesOf 32 l)) sp).writeSegs hs
          (bytesOf 64 (setBits (setBits (s.readNat hs % 2 ^ 256) 63 0 (h.next + 1)) 191 128 (used + sfBytes q)))) ∧
        (fresh → r = ⟨(s.rs a).desc ||| (1#128 <<< 19), .ofNat 64 (digest fmt bytes)⟩) ∧ (¬fresh → r = s.rs a) ∧
        lrKind l = (if sfKind q = 1 ∧ sfCol q = 1 then 4 else sfKind q) ∧ l / 2 ^ 24 % 2 ^ 40 = (s.rx x).toNat % 2 ^ 40 ∧
        lrPly l = sfPly q ∧ l % 2 ^ 12 = sfSpec q ∧ l / 2 ^ 128 % 2 ^ 8 = 0 ∧ l / 2 ^ 224 = 0 ∧
        (sfKind q = 1 → lrTok l = sfTok q ∧ lrAoff l = 0 ∧ lrCount l = 1 ∧ lrFmt l = 0) ∧
        (sfKind q ≠ 1 → lrTok l = r.dig.toNat ∧ lrAoff l = at_ % 2 ^ 48 ∧ lrCount l = sfLen q ∧ lrFmt l = fmt)) ∧
    (let r := s.readNat rs;
      s.softFree d = .ok () → s.access cap { rd := true } cap.off 64 64 [1, 2, 5] false = .ok hs → s.syncCommand = .ok () →
      n < (logHead (s.readNat hs)).next → s.access cap { rd := true } (cap.off + 64 + 32 * n : Nat) 32 1 [] false = .ok rs →
      lrOk (logHead (s.readNat hs)) r = true →
      (lrKind r = 1 ∨ lrKind r = 4 → ∃ o sp, exec (.sreplay d c x) s = .next (s.starts .C (.soft d o 0 []) sp) ∧
        sfKind o.desc.toNat = 1 ∧ sfTok o.desc.toNat = lrTok r ∧ sfLen o.desc.toNat = 1 ∧ sfFmt o.desc.toNat = 0 ∧
        sfCol o.desc.toNat = (if lrKind r = 4 then 1 else 0) ∧ sfDv o.desc.toNat = 0 ∧ o.dig = 0 ∧
        sfPly o.desc.toNat = lrPly r ∧ sfSpec o.desc.toNat = r % 2 ∧ sfSeq o.desc.toNat = sfSeq p ∧
        sfOff o.desc.toNat = sfOff p) ∧
      (∀ (g : List Seg) (bytes : List Byte), lrKind r = 2 ∨ lrKind r = 3 →
        (lrBytes r = 0 ∧ bytes = [] ∨ 0 < lrBytes r ∧ bytes = s.readSegs g ∧
          s.access cap { rd := true } (cap.off + lrAoff r : Nat) (lrBytes r) 1 [] false = .ok g) →
        digest (if lrKind r = 2 then lrFmt r else 0) bytes = lrTok r → sfOff p % 64 = 0 → sfOff p + lrBytes r ≤ softLimit →
        ∃ o sp, exec (.sreplay d c x) s = .next (s.starts .C (.soft d o (sfOff p) bytes) sp) ∧
          sfKind o.desc.toNat = lrKind r ∧ sfFmt o.desc.toNat = lrFmt r ∧ sfLen o.desc.toNat = lrCount r % 2 ^ 16 ∧
          sfDv o.desc.toNat = 1 ∧ sfCol o.desc.toNat = 0 ∧ sfTok o.desc.toNat = 0 ∧ o.dig.toNat = lrTok r ∧
          sfPly o.desc.toNat = lrPly r ∧ sfSpec o.desc.toNat = r % 2 ∧ sfSeq o.desc.toNat = sfSeq p ∧
          sfOff o.desc.toNat = sfOff p))

/-- SPLFIND, SPLINS, SPLREF and PLYCUT (22 R289-R295) start in class C once their checks pass: SPLFIND with the handles of
the path it matched, a word each, to be written after the keys, and the position it reached; the others with their operands'
fields. Performed, SPLFIND writes its handles and its position. SPLINS writes nothing for a list that the tree holds, appends to a node that is not full, or takes
a free node, shown here as the first of an empty tree. SPLREF, whose layers come in turn, releases what its target maps and
shares what its handle maps, shown here for one layer that it finds: the entry, and the frame's count, which frees it at 0.
PLYCUT clears the soft registers and drops the jobs, the pending appends and the braid vectors of the sequence from ply k on,
and invalidates their map entries, shown for one such entry, once no append that it covers has begun. That SPLFIND's walk is made at issue is log 40, the model's reading. -/
def Obligations.SpliceTreeInstructions : Prop :=
  ∀ (s : State) (d x y : BitVec 6) (c : BitVec 4) (k : BitVec 5) (hs : List Seg) (kv : Nat) (ar : Arena), s.onCompute →
    s.hasRoom .C → (∀ k, k ≤ 2 → s.boardRoom k = .ok ()) →
    let cap := s.rc c; let u := (s.rx x).toNat; let v := (s.rx y).toNat
    let p := u % 2 ^ 22; let n := u / 2 ^ 32 % 2 ^ 16
    (p % 8 = 0 → 1 ≤ n → n ≤ 4096 → p + 8 * n ≤ softLimit → s.syncCommand = .ok () →
      (∀ t : TreeWalk, s.access cap { rd := true } cap.off 64 64 [1, 2, 3, 5] false = .ok hs →
        s.padRead p (8 * n) = .ok kv →
        s.unspilled.treeWalk s.me.id s.me.iface cap (s.readNat hs)
          ((List.range n).map fun i => kv / 2 ^ (64 * i) % 2 ^ 64) = .ok t →
        p + 8 * n + 8 * t.handles.length ≤ softLimit →
        ∃ sp, exec (.splfind d c x) s =
          .next (s.starts .C (.splfind d (p + 8 * n) (t.handles.flatMap fun h => bytesOf 8 h) t.pos) sp)) ∧
      (s.access cap ⟨true, true, false, false⟩ cap.off 64 64 [1, 2, 3, 5] false = .ok hs →
        ∃ sp, exec (.splins c x y) s =
          .next (s.starts .C (.splins cap p n (v % 2 ^ 24) (v / 2 ^ 24 % 2 ^ 24)) sp))) ∧
    (s.arena = .ok ar → exec (.splref x y) s = .next (s.starts .C
      (.splref (u % 2 ^ 24) (u / 2 ^ 24 % 2 ^ 24) (u / 2 ^ 63 % 2 == 1) (v % 2 ^ 24) (v / 2 ^ 24 % 2 ^ 24) ar) [])) ∧
    exec (.plycut x k) s = .next (s.starts .C (.plycut (u % 2 ^ 24) k.toNat) []) ∧
    (∀ (id : Nat) (o : Op), s.mayComplete id o → s.spills = [] →
      let w := s.settleDue s.me.id; let i := o.iface
      let leaves (m : Memory) : Prop := ∃ t, exec (.longOpComplete s.me.id id) s = .next t ∧ t.core = s.core ∧
        t.me.ctx = w.me.ctx ∧ t.mem = m ∧ t.me.ops = s.me.ops.filter (fun p => p.id != id)
      let at_ (t : State) (ar : Arena) (off n : Nat) (write : Bool) (g : List Seg) : Prop :=
        t.segsOf s.me.id i (arenaCap ar.oid) off n write = .ok g
      let ends (t : State) : Prop := exec (.longOpComplete s.me.id id) s = .next (t.dropOp s.me.id id)
      (∀ e off bytes pos, o.task = .splfind e off bytes pos → ends ((w.writeSegs [padSeg (s.me.id / 128) off bytes.length] bytes).onSlot
        s.me.id fun m => { m with ctx := m.ctx.writeX e (.ofNat 64 pos) })) ∧
      (∀ c p n seq blk hdr (t : TreeWalk), o.task = .splins c p n seq blk → w.treeRead s.me.id i c 0 64 = .ok hdr →
        let v := w.readNat [padSeg (s.me.id / 128) p (8 * n)]; let keys := (List.range n).map fun i => v / 2 ^ (64 * i) % 2 ^ 64
        let tree (s : State) (off n : Nat) (write : Bool) (g : List Seg) : Prop :=
          inBounds c (c.off + off : Nat) n = true ∧ s.segsOf s.me.id i c (c.off + off) n write = .ok g
        w.treeWalk s.me.id i c hdr keys = .ok t →
        (t.pos = n → leaves s.mem) ∧
        (∀ b l h (gk gn : List Seg), t.pos < n → t.best = some (b, l, h) → l = nhFill h → n - t.pos ≤ 64 - l → l < 64 →
          nhSeq h = seq → nhBlk h = (blk + t.pos / 64) % 2 ^ 24 → let m := n - t.pos
          let u := w.writeSegs gk (bytesOf (8 * m) (packWords 64 (keys.drop t.pos)))
          tree w (nodeOff b + 64 + 8 * l) (8 * m) true gk → tree u (nodeOff b) 64 true gn →
          leaves (u.writeSegs gn (bytesOf 64 (nodeHeader (setBits h 102 96 (l + m))))).mem) ∧
        (∀ f fh (gh gf gk : List Seg), 0 < n → n ≤ 64 → hdr / 2 ^ 32 % 2 ^ 32 = noNode → hdr / 2 ^ 64 % 2 ^ 32 = f → f ≠ noNode →
          f < hdr % 2 ^ 32 → w.treeRead s.me.id i c (nodeOff f) 64 = .ok fh →
          let a := w.writeSegs gh (bytesOf 64 (treeHeader (setBits hdr 95 64 (nhNext fh))))
          let b := a.writeSegs gf (bytesOf 64 (noNode + noNode * 2 ^ 32 + noNode * 2 ^ 64 + n * 2 ^ 96 + seq * 2 ^ 128 + blk % 2 ^ 24 * 2 ^ 152))
          let d := b.writeSegs gk (bytesOf (8 * n) (packWords 64 keys))
          tree w 0 64 true gh → tree a (nodeOff f) 64 true gf → tree b (nodeOff f + 64) (8 * n) true gk → tree d 0 64 false gh →
          tree d 0 64 true gh → d.readNat gh / 2 ^ 32 % 2 ^ 32 = noNode →
          leaves (d.writeSegs gh (bytesOf 64 (treeHeader (setBits (d.readNat gh) 63 32 f)))).mem)) ∧
      (∀ seq blk hseq hblk ar off e j (ge gc : List Seg), o.task = .splref seq blk true hseq hblk ar → j < 256 →
        (∀ l, l < j → w.kvLookup s.me.id i ar (kvKey seq l blk) = .ok (w, none)) →
        w.kvLookup s.me.id i ar (kvKey seq j blk) = .ok (w, some (off, e)) →
        let f := e / 2 ^ 56 % 2 ^ 40; let z := (e - e / 2 ^ 110 % 2 * 2 ^ 110) % 2 ^ 124
        let a : State := { w.writeSegs ge (bytesOf 16 z) with
          kvBufs := w.kvBufs.filter fun b => !(b.iface == i && (b.off == off || b.key == keK e)) }
        let b := a.writeSegs gc (bytesOf 4 ((a.readNat gc + 2 ^ 32 - 1) % 2 ^ 32))
        let t : State := if a.readNat gc % 2 ^ 32 = 1 then { b with freed := b.freed ++ [⟨i, f, w.lookedUp i⟩] } else b
        at_ w ar off 16 true ge → at_ a ar (ar.countOff f) 4 false gc → at_ a ar (ar.countOff f) 4 true gc →
        (∀ l, j < l → l < 256 → t.kvLookup s.me.id i ar (kvKey seq l blk) = .ok (t, none)) → ends t) ∧
      (∀ seq blk hseq hblk ar off e j q last (ge gc : List Seg), o.task = .splref seq blk false hseq hblk ar → j < 256 →
        (∀ l, l < j → w.kvLookup s.me.id i ar (kvKey seq l blk) = .ok (w, none) ∧
          w.kvLookup s.me.id i ar (kvKey hseq l hblk) = .ok (w, none)) →
        w.kvLookup s.me.id i ar (kvKey seq j blk) = .ok (w, none) → w.kvLookup s.me.id i ar (kvKey hseq j hblk) = .ok (w, some (q, e)) →
        w.kvWalk s.me.id i ar (kvKey seq j blk) = .ok ⟨none, some off, last⟩ →
        let f := e / 2 ^ 56 % 2 ^ 40
        let n := kvKey seq j blk + f * 2 ^ 56 + e / 2 ^ 96 % 2 ^ 12 * 2 ^ 96 + e / 2 ^ 108 % 2 * 2 ^ 108 + 2 ^ 110 + e / 2 ^ 119 % 16 * 2 ^ 119
        kvKey seq j blk < 2 ^ 56 →
        let a : State := { w.writeSegs ge (bytesOf 16 n) with
          kvBufs := ⟨s.me.id / 16384, i, kvKey seq j blk, off, n⟩ ::
            w.kvBufs.filter fun b => !(b.iface == i && (b.off == off || b.key == kvKey seq j blk)) }
        let t := a.writeSegs gc (bytesOf 4 ((a.readNat gc + 1) % 2 ^ 32))
        at_ w ar off 16 true ge → at_ a ar (ar.countOff f) 4 false gc → at_ a ar (ar.countOff f) 4 true gc →
        (∀ l, j < l → l < 256 → t.kvLookup s.me.id i ar (kvKey seq l blk) = .ok (t, none) ∧
          t.kvLookup s.me.id i ar (kvKey hseq l hblk) = .ok (t, none)) → ends t) ∧
      (∀ seq k, o.task = .plycut seq k → w.appending i seq k id = false →
        let cut (p : Op) : Prop := p.id ≠ id ∧ p.iface = i ∧ ((∃ q, p.task = .attn seq q ∧ k ≤ q) ∨
          ∃ c d a l at_, p.task = .kvapp c d a l at_ ∧ d.toNat / 2 ^ 37 % 2 = 1 ∧ d.toNat % 2 ^ 24 = seq ∧ k ≤ d.toNat / 2 ^ 32 % 32)
        let gone (j : Nat) : Prop := ∃ p, cut p ∧ p.id = j ∧ ((∃ m ∈ s.allSlots, p ∈ m.ops) ∨ ∃ k, (k, p) ∈ s.orphans)
        let cuts (m : Memory) : Prop := ∃ t, exec (.longOpComplete s.me.id id) s = .next t ∧ t.mem = m ∧ t.core = s.core ∧
          (s.me.iface = i → t.me.ctx = { w.me.ctx with s := w.me.ctx.s.map fun r =>
            if r.spec = true ∧ r.seq = seq ∧ k ≤ r.ply then ⟨0, 0⟩ else r }) ∧
          (s.me.iface ≠ i → t.me.ctx = w.me.ctx) ∧ t.braids = s.braids.map (·.cutBy i seq k) ∧
          (∀ j, j ∈ t.jobs ↔ j ∈ s.jobs ∧ ¬gone j.op) ∧ (∀ p, p ∈ t.pipes ↔ p ∈ s.pipes ∧ ¬gone p.job.op) ∧
          (∀ j, j ∈ t.me.ops.map (·.id) ↔ j ∈ s.me.ops.map (·.id) ∧ j ≠ id ∧ ¬gone j)
        (s.arenaOid i = none → cuts s.mem) ∧
        ∀ ar es, w.cutArena s.me.id i = .ok (some ar) → let u := w.cutUnits i seq k id
          u.kvEntries s.me.id i ar = .ok es →
          let hits (e : Nat) : Bool := e / 2 ^ 110 % 2 == 1 && e / 2 ^ 123 % 2 == 0 && e / 2 ^ 109 % 2 == 1 && e % 2 ^ 24 == seq &&
            decide (k ≤ e / 2 ^ 111 % 256)
          (es.filter (fun p => hits p.2) = [] → cuts s.mem) ∧
          ∀ off e (ge gc : List Seg), es.filter (fun p => hits p.2) = [(off, e)] →
            let a := u.writeSegs ge (bytesOf 16 ((e - 2 ^ 110) % 2 ^ 124))
            at_ u ar off 16 true ge → at_ a ar (ar.countOff (e / 2 ^ 56 % 2 ^ 40)) 4 false gc →
            at_ a ar (ar.countOff (e / 2 ^ 56 % 2 ^ 40)) 4 true gc →
            cuts (a.writeSegs gc (bytesOf 4 ((a.readNat gc + 2 ^ 32 - 1) % 2 ^ 32))).mem))

/-! ### System registers, traps -/

/-- MFS, MTS and IDLE (07 R92, 26 R306, R307, R319, R320): task mode reads SLOTID, TIME and TSTAT; a handler reads and
writes the bank of its level, TBASE and TK0-TK3 too, reserved bits discarded; outside steward mode TSTAT's IDX and FMT are
cleared by writing 1 and its other fields stay; IDLE parks until the core's own clock, whose count is log 49, has gone on by
64 cycles. A supervisor's register in task mode is a privilege trap. OTINV and TLBINV (26 R321, R322) start in class C in a handler, naming every object for bit 63 and else the object of
bits [31:0], TLBINV at die or package scope; in task mode they and ERET take the privilege trap (26 R305). -/
def Obligations.SystemRegisters : Prop :=
  (∀ (s : State) (d x : BitVec 6) (k : BitVec 2), let b := s.me.bank; let v := s.rx x; let m := s.me.ctx
    let super : Prop := 1 ≤ s.me.lvl
    let reads (n : BitVec 12) (u : XWord) : Prop := exec (.mfs d n) s = .next (s.results 2 (.x d u) false)
    let banked (q : Bank) : Slot → Slot := fun p => if 2 ≤ s.me.lvl then { p with bank2 := q } else { p with bank1 := q }
    reads 0x000 (.ofNat 64 (s.me.id + (if s.module.dom then 2 ^ 26 + s.module.dev % 1024 * 2 ^ 16 else 0))) ∧
    reads 0x001 (.ofNat 64 s.time) ∧
    reads 0x013 (.ofNat 64 (s.me.lvl % 4 * 256 + s.me.pre.toNat * 128 + s.me.ht.toNat * 64 + m.idx.toNat * 2 + m.fmt.toNat)) ∧
    (super ∨ s.me.steward = none → exec (.mts x 0x013) s = .next (s.passes fun p => { p with ctx := { p.ctx with
      idx := p.ctx.idx && !v.getLsbD 1, fmt := p.ctx.fmt && !v.getLsbD 0 } })) ∧
    exec .idle s = .next (s.passes fun p => { p with block := some (.idle (s.clockOf s.core.id + 64)) }) ∧
    (super →
      reads 0x010 (b.tpc.zeroExtend 64) ∧ reads 0x011 (b.cause.zeroExtend 64) ∧ reads 0x012 b.val ∧
      reads 0x014 (s.iface s.me.iface).tbase ∧ reads (0x018 + k.zeroExtend 12) (vget s.me.tk k.toNat 0) ∧
      exec (.mts x 0x010) s = .next (s.passes (banked { b with tpc := v.truncate 48 })) ∧
      exec (.mts x 0x011) s = .next (s.passes (banked { b with cause := v.truncate 12 })) ∧
      exec (.mts x 0x012) s = .next (s.passes (banked { b with val := v })) ∧
      exec (.mts x (0x018 + k.zeroExtend 12)) s = .next (s.passes fun p => { p with tk := vset p.tk k.toNat v }) ∧
      ∃ t, exec (.mts x 0x014) s = .next t ∧ t.me = (s.passes id).me ∧ t.mem = s.mem ∧
        (t.iface s.me.iface).tbase = v &&& 0x0000FFFFFFFFFC00 ∧ ∀ i, i ≠ s.me.iface → t.iface i = s.iface i) ∧
    (s.me.lvl = 0 → s.me.steward = none → s.mayTrap → ∀ n ∈ [0x010, 0x011, 0x012, 0x014, 0x018, 0x019, 0x01A, 0x01B],
      exec (.mfs d n) s = .next (s.trapped 2 0 (s.ir.zeroExtend 64) s.me.ctx.pc) ∧
      exec (.mts x n) s = .next (s.trapped 2 0 (s.ir.zeroExtend 64) s.me.ctx.pc))) ∧
  (∀ (s : State) (x : BitVec 6) (p : BitVec 3), p = 1 ∨ p = 2 →
    let obj := if (s.rx x).getLsbD 63 then none else some ((s.rx x).toNat % 2 ^ 32)
    (1 ≤ s.me.lvl → s.hasRoom .C →
      exec (.otinv x) s = .next (s.starts .C (.otinv obj) []) ∧
      exec (.tlbinv x p) s = .next (s.starts .C (.tlbinv obj (p == 2)) [])) ∧
    (s.me.lvl = 0 → s.me.steward = none → s.mayTrap → ∀ i ∈ [Instr.otinv x, .tlbinv x p, .eret],
      exec i s = .next (s.trapped 2 0 (s.ir.zeroExtend 64) s.me.ctx.pc)))

/-- TRAP, BRK and the illegal word (07 R107, 26 R306, R308, R317) take their trap in any mode: cause 9 with the next
word's place, causes 8 and 1 with the word's own. Every word of majors 0x40-0x44 takes the illegal-instruction trap in super
mode (26 R305). What has to drain first (log 23) keeps the trap pending, with the word not
issued. At level 2 each is a double trap (26 R310, R314): no handler is entered; the slot is freed and its continuation's
restart state enqueued as a restart at the die's queue of its priority. Where the ring of that queue is full the slot stalls
with the restart state (03 R40) and enqueues it once there is room; when it tries again is log 26, the model's choice. Memory changes in the control block and the record
of the interface's fault ring alone (28 R327), and nowhere where the interface names none, its object is of a kind that is no
device memory (log 68, the model's reading), or its pages cannot be reached; a ring with room takes a record of cause 16 from the steward unit, with the slot and the level-1 TPC. -/
def Obligations.TrapsAreTaken : Prop :=
  (∀ (s : State) (i : BitVec 16) (w : Word), let pc := s.me.ctx.pc
    (s.mayTrap →
      exec (.trap i) s = .next (s.trapped 9 0 (i.zeroExtend 64) (pc + 4)) ∧
      exec (.brk i) s = .next (s.trapped 8 0 (i.zeroExtend 64) pc) ∧
      exec (.illegalWord w) s = .next (s.trapped 1 0 (w.zeroExtend 64) pc)) ∧
    (s.me.lvl < 2 → s.me.drained false = false →
      let waits (j : Instr) (cause : Nat) (val : XWord) (tpc : BitVec 48) : Prop :=
        exec j s = .next { s with me := { s.me with trapPend := some ⟨cause, 0, val, tpc, false⟩ } }
      waits (.trap i) 9 (i.zeroExtend 64) (pc + 4) ∧ waits (.brk i) 8 (i.zeroExtend 64) pc ∧
      waits (.illegalWord w) 1 (w.zeroExtend 64) pc)) ∧
  (∀ (s : State) (x y z : BitVec 6) (a : BitVec 4) (p : BitVec 10) (q : BitVec 16), s.me.mode = .super → s.mayTrap →
    ∀ j ∈ [Instr.spawn x y p, .spawnReg x y z, .spawnj x q, .spawnjReg x y, .endc, .commit, .launch a, .lgrow x, .prio x,
        .join a, .leave a, .gsync a],
      exec j s = .next (s.trapped 1 0 (s.ir.zeroExtend 64) s.me.ctx.pc)) ∧
  (∀ (s : State) (i : BitVec 16) (w : Word), 2 ≤ s.me.lvl → s.me.groups = [] → s.me.steward = none →
    let full := s.ringFull (s.me.id / 16384) s.me.restart.prio
    ∀ j ∈ [Instr.trap i, .brk i, .illegalWord w], ∃ t, exec j s = .next t ∧ t.me.lvl = 0 ∧ t.me.window = [] ∧ t.me.accs = [] ∧
      (full = false → t.me.busy = false ∧ t.queue (s.me.id / 16384) s.me.restart.prio =
        s.queue (s.me.id / 16384) s.me.restart.prio ++ [⟨s.me.restart.item, s.me.spawnj, true, s.stamp⟩]) ∧
      (full = true → t.me.busy = true ∧ t.me.block = some .restart ∧ t.me.restart = s.me.restart ∧ t.me.spawnj = s.me.spawnj ∧
        t.queues = s.queues) ∧
      (s.cfg s.me.iface = none → t.mem = s.mem) ∧
      ∀ f, s.cfg s.me.iface = some f → (f.faultRing = none → t.mem = s.mem) ∧
        ∀ oid off, f.faultRing = some (oid, off) →
          let cap := s.objCap s.me.iface oid
          let at_ (o : Nat) := s.stream 0 s.me.iface cap o 64 true
          (cap.tag = false ∨ (cap.kind ≠ 0 ∧ cap.kind ≠ 4) → t.mem = s.mem) ∧ (∀ e, at_ off = .error e → t.mem = s.mem) ∧
          ∀ cb key, at_ off = .ok cb → (∀ g ∈ cb, g.key = key) →
            let v := s.readNat cb; let slots := v / 2 ^ 128 % 2 ^ 32; let pub := v % 2 ^ 64
            let spot := off + 64 + 64 * (pub % slots)
            (∀ e, at_ spot = .error e → ∀ k a, s.apart cb key k a → t.mem.read k a = s.mem.read k a) ∧
            ∀ rs, at_ spot = .ok rs → (∀ g ∈ rs, g.key = key) →
              (∀ k a, s.apart (cb ++ rs) key k a → t.mem.read k a = s.mem.read k a) ∧
              (cap.tag = true → cap.kind = 0 ∨ cap.kind = 4 → pub - v / 2 ^ 64 % 2 ^ 64 < slots → s.separate (cb ++ rs) → (cb.map (·.len)).sum = 64 →
                (rs.map (·.len)).sum = 64 → let r := t.readNat rs
                r / 2 ^ 160 % 2 ^ 8 = 16 ∧ r / 2 ^ 168 % 2 ^ 8 = 7 ∧ r / 2 ^ 176 % 2 ^ 16 = s.me.id % 2 ^ 16 ∧
                r / 2 ^ 112 % 2 ^ 48 = s.me.bank1.tpc.toNat ∧ r / 2 ^ 204 % 2 ^ 20 = s.me.ctx.r.lid % 2 ^ 20 ∧
                t.readNat cb % 2 ^ 64 = (pub + 1) % 2 ^ 64)) ∧
  (∀ (s : State) (k : Nat) (as : List Act), s.agenda = .requeue k :: as → s.module.boot ≠ .off → (s.slot k).id = k →
    (s.slot k).block = some .restart → let p := (s.slot k).restart.prio
    (s.ringFull (k / 16384) p = true → step s = .next { s with agenda := as }) ∧
    (s.ringFull (k / 16384) p = false → ∃ t, step s = .next t ∧ (t.slot k).busy = false ∧ t.mem = s.mem ∧
      t.queue (k / 16384) p = s.queue (k / 16384) p ++ [⟨(s.slot k).restart.item, (s.slot k).spawnj, true, s.stamp⟩]))

/-- A trap's entry, field by field (26 R306, R308), as `State.takeTrap` and so TRAP makes it once nothing has to drain: the
level rises by one; the bank of the new level holds TPC, the cause with its sub-cause, TVAL, and l0-l3 and c15 as the
results issued before leave them; c15 becomes the supervisor's data capability and the pc TBASE + 64 × cause; the other
registers, memory, and the bank of the other level stay. A watchdog's trap marks its bank, so that its return is a restart,
and starts the interval its handler has, unless it runs already (26 R313). -/
def Obligations.TrapEntryState : Prop :=
  ∀ (s : State) (cause sub : Nat) (val : XWord) (tpc : BitVec 48) (wd : Bool) (i : BitVec 16), s.me.lvl < 2 →
    cause < 2 ^ 8 → sub < 2 ^ 4 → s.me.drained wd = true →
    let t := s.takeTrap s.me.id ⟨cause, sub, val, tpc, wd⟩
    let c := (sortPend s.me.pend).foldl Ctx.apply s.me.ctx
    t.me.lvl = s.me.lvl + 1 ∧ t.me.pend = [] ∧ t.me.ops = s.me.ops ∧ t.mem = s.mem ∧ t.core = s.core ∧
    t.me.bank.tpc = tpc ∧ t.me.bank.cause.extractLsb' 0 8 = .ofNat 8 cause ∧ t.me.bank.cause.extractLsb' 8 4 = .ofNat 4 sub ∧
    t.me.bank.val = val ∧ t.me.bank.l = c.l ∧ t.me.bank.c15 = c.c[15] ∧ t.me.bank.wd = wd ∧
    t.me.ctx.c[15] = s.superData s.me.iface ∧ (∀ k, (h : k < 15) → t.me.ctx.c[k] = c.c[k]) ∧
    t.me.ctx.pc = (s.iface s.me.iface).tbase.truncate 48 + .ofNat 48 (64 * cause) ∧
    t.me.ctx.x = c.x ∧ t.me.ctx.v = c.v ∧ t.me.ctx.m = c.m ∧ t.me.ctx.l = c.l ∧ t.me.ctx.s = c.s ∧ t.me.ctx.n = c.n ∧
    t.me.ctx.tc = c.tc ∧ t.me.tk = s.me.tk ∧ t.me.trapPend = none ∧
    (s.me.lvl = 0 → t.me.bank2 = s.me.bank2) ∧ (s.me.lvl = 1 → t.me.bank1 = s.me.bank1) ∧
    (wd = false ∨ s.me.dogHand.isSome = true → t.me.dogHand = s.me.dogHand) ∧
    (∀ f, wd = true → s.me.dogHand = none → s.cfg s.me.iface = some f →
      t.me.dogHand = some (s.time + 1400 * f.watchdogUs)) ∧
    (cause = 9 → sub = 0 → val = i.zeroExtend 64 → tpc = s.me.ctx.pc + 4 → wd = false → exec (.trap i) s = .next t)

/-- ERET (26 R318), with the counts of its level at zero and every result visible: the pc, l0-l3 and c15 come back from
the bank of the level and the level falls by one; at level 1 the reserved tiles and the handler's accumulators are
released, and a watchdog expiry that the handler held is applied, its interval going on from the expiry (26 R313). After a
watchdog's trap ERET is a restart: the slot is freed and its restart state enqueued, once the ring of its queue has room
(03 R40). -/
def Obligations.ReturnFromATrap : Prop :=
  ∀ s : State, 1 ≤ s.me.lvl → (∀ o ∈ s.me.ops, o.lvl ≠ s.me.lvl) → s.me.pend = [] →
    let b := s.me.bank; let last := s.me.lvl = 1
    let back := s.jumps b.tpc fun m => { m with
        ctx := { m.ctx with l := b.l, c := vset m.ctx.c 15 b.c15 }
        lvl := m.lvl - 1, block := none
        ht := if last then false else m.ht, haccs := if last then [] else m.haccs
        dogHand := if last ∧ m.dogHeld = false then none else m.dogHand, dogHeld := if last then false else m.dogHeld }
    (b.wd = false → (last → s.me.dogHeld = false) → exec .eret s = .next back) ∧
    (b.wd = false → last → s.me.dogHeld = true → exec .eret s = .next (back.expire s.me.id)) ∧
    (b.wd = true → s.me.groups = [] →
      (s.me.steward = none → s.ringFull (s.me.id / 16384) s.me.restart.prio = false) → ∃ t, exec .eret s = .next t ∧ t.me.busy = false ∧ t.me.lvl = 0 ∧ t.mem = s.mem ∧
      (s.me.steward = none → t.queue (s.me.id / 16384) s.me.restart.prio =
        s.queue (s.me.id / 16384) s.me.restart.prio ++ [⟨s.me.restart.item, s.me.spawnj, true, s.stamp⟩]))

/-! ### Events of other agents -/

/-- Events at a slot: results fall due, and long operations complete; a walk or a page lets a stalled word go on, which is
tried again with its leaf in the TLB, waits for a page it asks for, or traps; pre-emption is requested of a slot that does not only keep a restart state; its watchdog expires:
in a handler the expiry is held for the return, its second interval running, and at level 0, where a trap that waits for its
drain gives way to it (log 43, the model's reading), the commands that have not begun writing are dropped, with their jobs,
their waiting records, launches and braids, the slot's runs stop accepting, a stalled word's page is asked for no more, and the cause-10 trap follows once every count is zero;
firmware restarts after a machine error or a handler's time-out, IDLE wakes, and ENDC and COMMIT go on once what they wait
for has drained (03 R46, R56, 08 R135, 10 R150, R151, 26 R310-R313, R320). -/
def Obligations.SlotEvents : Prop :=
  ∀ (s : State) (k : Nat), let m := s.slot k
    exec (.resultVisible k) s = .next (s.onSlot k fun q => q.deliver (s.coreAt (k / 128)).cycle) ∧
    (∀ id o live, s.findOp k id = some (o, live) → s.mayGo k o live = true → s.storesDone k o live = true →
      exec (.longOpComplete k id) s = .next ((s.settleDue k).perform k o live)) ∧
    (∀ i oid off val e ev, s.objEntry i oid = some e → m.id = k →
      (m.block = some (.walk i oid off val) ∧ oeKind e ≠ 3 ∧ ev = Instr.pageWalkReturn k ∨
        m.block = some (.page i oid off val) ∧ s.walk e off ≠ .absent ∧ ev = .pagePresentResume k) →
      ∃ t, exec ev s = .next t ∧
      (∀ l at_ page, s.walk e off = .leaf l at_ page → t.slot k = { m with block := none } ∧
        t.tlbFind (tlbDie k) i oid off = some l ∧ t.mem = s.mem) ∧
      (s.walk e off = .absent → t.slot k = { m with block := some (.page i oid off val) } ∧
        (oid, off) ∈ (t.iface i).requests ∧ t.mem = s.mem) ∧
      (s.walk e off = .bad → t = (s.onSlot k fun q => { q with block := none }).takeTrap k ⟨4, 0, val, m.ctx.pc, false⟩)) ∧
    (m.busy = true → m.pre = false → m.steward = none → m.block ≠ some .restart → exec (.preemptionRequest k) s =
      .next (s.onSlot k fun q => { q with pre := true, dog := some (s.time + s.dogInterval q.iface) })) ∧
    (∀ d, m.dog = some d → d ≤ s.time → m.busy = true → m.id = k → s.retiring k = false →
      (1 ≤ m.lvl → exec (.watchdogExpiry k) s = .next (s.setSlot
        { m with dog := none, dogHeld := true, dogHand := some (s.time + s.dogInterval m.iface) })) ∧
      (m.lvl = 0 → ∃ t, exec (.watchdogExpiry k) s = .next t ∧ t.mem = s.mem ∧
        let dropped (o : Op) : Prop := (o.cls = .C ∨ o.cls = .T) ∧ o.begun = false ∧ ∀ h r, o.task ≠ .bgrun h r
        ((∀ o ∈ m.ops, dropped o) → (t.slot k).lvl = 1 ∧ (t.slot k).ops = [] ∧ (t.slot k).bank1.wd = true ∧
          (t.slot k).bank1.cause = 10 ∧ (t.slot k).bank1.tpc = m.ctx.pc) ∧
        ((∃ o ∈ m.ops, ∀ p ∈ m.ops, dropped p → p.id ≠ o.id) → (t.slot k).lvl = 0 ∧ (t.slot k).trapPend = some ⟨10, 0, 0, m.ctx.pc, true⟩ ∧
          ∀ o, o ∈ (t.slot k).ops ↔ o ∈ m.ops ∧ ∀ p ∈ m.ops, dropped p → p.id ≠ o.id) ∧
        (∀ b ∈ t.braids, ∀ r, b.run = some r → r.slot = k → r.open_ = false) ∧
        (∀ i oid off val, (t.slot k).block ≠ some (.walk i oid off val) ∧ (t.slot k).block ≠ some (.page i oid off val)) ∧
        (∀ o ∈ m.ops, dropped o → ∀ d v, o.task = .bgload d v →
          ∀ b ∈ t.braids, b.die = k / 16384 → b.handle ≠ v.toNat % 64) ∧
        ∀ o ∈ m.ops, dropped o → (∀ j ∈ t.jobs, j.slot = k → j.op ≠ o.id) ∧ (∀ p ∈ t.pipes, p.job.slot = k → p.job.op ≠ o.id) ∧
          (∀ w ∈ t.waiting, w.from_ ≠ some (k, o.id)) ∧ (∀ lid, o.task = .launch lid → ∀ p ∈ t.launches, p.1 ≠ lid) ∧
          ∀ b ∈ t.braids, b.freeing ≠ some (k, o.id))) ∧
    (∀ t, m.dogHand = some t → t ≤ s.time → m.busy = true →
      exec (.watchdogHandlerTimeout k) s = .next (s.stewardRestart k 18)) ∧
    (m.busy = true → exec (.machineError k) s = .next (s.stewardRestart k 17)) ∧
    (∀ n, m.block = some (.idle n) → m.pre = true ∨ n < s.clockOf (k / 128) →
      exec (.idleWake k) s = .next (s.onSlot k fun q => { q with block := none })) ∧
    (∀ w l, m.block = some (.endc w) → m.quiet = true → m.trapPend = none →
      let u : State := { s.turnTo k with ir := w }
      let ends (v : State) : State :=
        (((v.leaveGroups u.me.id).freeSlot u.me.id).liveDown u.me.ctx.r.lid u.me.id).unmark u.me.id
      u.launch? u.me.ctx.r.lid = some l →
      (u.me.ctx.r.join = .allOnes 32 → exec (.endcRelease k) s = .next (ends u)) ∧
      (∀ segs, u.me.ctx.r.join ≠ .allOnes 32 →
        u.joinSegs l.r.frame (u.me.ctx.r.foff.toNat + u.me.ctx.r.join.toNat) = .ok segs → u.releaseRoom segs = .ok () →
        exec (.endcRelease k) s = .next (ends (u.decJoin segs)))) ∧
    (let q := m.deliver (s.coreAt (k / 128)).cycle;
      ∀ w, q.block = some (.commit w) → q.quiet = true → q.pend = [] → q.trapPend = none →
      (q.pre = true → s.ringFull (q.id / 16384) q.ctx.r.prio.toNat = false) →
      exec (.commitRetire k) s = .next (commitRetire { (s.setSlot q).turnTo k with ir := w }))

/-- A dispatch sets the slot (03 R38, R39, R41, R44, 07 R89, 08 R135, 26 R316), while no guard of a die is armed. From its own
core's deque, whose tail outranks the die's queues, from a die queue, from the head of another core's deque, where no core
comes before it (R42; log 72), or as the next index of a launch entry, which stays in its queue until its last: the record's
continuation gets the current slot with its code and frame capabilities in c0 and c1, its argument in x1,
every other register of every file zero, exactly NEED of the tiles that no window held, the lowest, with zero blocks, task
mode, and its restart point at the dispatch; the other tiles and memory stay. A checkpoint gets its context, its tiles and its
accumulators back, TC14 and TC15 zero as at any dispatch. The record leaves the place it was taken from. -/
def Obligations.DispatchSetsTheSlot : Prop :=
  ∀ (s : State) (core : Nat), s.module.boot = .open_ → coreOk core = true →
    s.mayDispatch core = true → (∀ d, d < 3 → (s.guard d).armed = false) → (s.guard (core / 128)).count < 63 →
    s.idleSlot core = some s.me.id → s.me.id / 128 = core → (∀ k, (s.coreAt k).id = k) →
    let window (t : State) (need : Nat) : Prop := let m := t.me
      m.window.length = need ∧ m.window.Nodup ∧ (∀ w ∈ m.window, w < 14 ∧ (∀ k ∈ coreSids core, w ∉ (s.slot k).window) ∧
        ∀ v, v < w → v ∈ m.window ∨ ∃ k ∈ coreSids core, v ∈ (s.slot k).window) ∧
      (∀ w, w < 16 → w ∉ m.window → vget (t.coreAt core).tiles w Tile.zero = vget (s.coreAt core).tiles w Tile.zero)
    let fresh (t : State) (l : Launch) (r : Rec) (sj : List (Nat × Nat)) (rerun : Bool) : Prop := let m := t.me
      m.busy = true ∧ m.lvl = 0 ∧ m.steward = none ∧ m.ops = [] ∧ m.pend = [] ∧ m.block = none ∧ m.iface = l.iface ∧
      m.groups = [] ∧ m.accs = [] ∧ m.pre = false ∧ m.ctx.r = r ∧ m.ctx.pc = r.coff ∧
      m.ctx.x[1] = r.arg.zeroExtend 64 ∧ (∀ k, (h : k < 56) → k ≠ 1 → m.ctx.x[k] = 0) ∧
      m.ctx.l = #v[0, 0, 0, 0] ∧ m.ctx.c[0] = l.r.code.setOff r.coff ∧ m.ctx.c[1] = l.r.frame.setOff r.foff ∧
      (∀ k, (h : k < 16) → 2 ≤ k → m.ctx.c[k] = Cap.null) ∧ (∀ k, (h : k < 32) → m.ctx.v[k] = 0) ∧
      (∀ k, (h : k < 8) → m.ctx.m[k] = 0 ∧ m.ctx.s[k] = ⟨0, 0⟩) ∧ (∀ k, (h : k < 4) → m.ctx.n[k] = Nest.clear) ∧
      (∀ k, (h : k < 16) → m.ctx.tc[k] = 0) ∧ m.ctx.idx = false ∧ m.ctx.fmt = false ∧
      m.restart = .fresh r ∧ m.spawnj = sj ∧ m.rerun = rerun ∧ window t r.need.toNat ∧
      (∀ w ∈ m.window, vget (t.coreAt core).tiles w Tile.zero = Tile.zero) ∧ t.mem = s.mem
    (∀ r l, s.source core = some .own → (s.coreAt core).deque.getLast? = some r → s.launch? r.lid = some l →
      ∃ t, exec (.dispatch core) s = .next t ∧ fresh t l r [] false ∧
        (t.coreAt core).deque = (s.coreAt core).deque.dropLast) ∧
    (∀ k r rest l, s.source core = some (.steal k) → s.outranked [] core (.steal k) = false → k ≠ core →
      (s.coreAt k).deque = r :: rest → s.launch? r.lid = some l →
      ∃ t, exec (.dispatch core) s = .next t ∧ fresh t l r [] false ∧ (t.coreAt k).deque = rest ∧
        (t.coreAt core).deque = (s.coreAt core).deque) ∧
    (∀ d p i e, s.source core = some (.die d p i) → s.outranked [] core (.die d p i) = false → (s.queue d p)[i]? = some e →
      let left (t : State) : Prop := t.queue d p = (s.queue d p).eraseIdx i ∧ (t.coreAt core).deque = (s.coreAt core).deque
      (∀ r l, e.item = .one r → s.launch? r.lid = some l →
        ∃ t, exec (.dispatch core) s = .next t ∧ fresh t l r e.sj e.rerun ∧ left t) ∧
      (∀ lid l, e.item = .launch lid → s.launch? lid = some l → let n := l.r.next
        ∃ t, exec (.dispatch core) s = .next t ∧
          fresh t { l with r := { l.r with next := n + 1 } } ⟨.ofNat 48 l.r.code.off, l.r.prio, l.r.place, l.r.need,
            .ofNat 48 (l.r.frame.off + n.toNat * l.r.stride.toNat), .allOnes 32, lid, n, 0⟩ [] false ∧
          t.launch? lid = some { l with r := { l.r with next := n + 1 } } ∧
          (n + 1 = l.r.count → left t) ∧ (n + 1 ≠ l.r.count → t.queue d p = s.queue d p)) ∧
      (∀ v, e.item = .saved v → (v.accs.map (·.1)).Nodup → (∀ q ∈ v.accs, q.1 < 4) →
        ∃ t, exec (.dispatch core) s = .next t ∧ left t ∧ window t v.ctx.r.need.toNat ∧ t.mem = s.mem ∧ let m := t.me
          m.busy = true ∧ m.lvl = 0 ∧ m.ops = [] ∧ m.pend = [] ∧ m.block = none ∧ m.groups = [] ∧ m.pre = false ∧ m.iface = v.iface ∧
          m.ctx = { v.ctx with tc := vset (vset v.ctx.tc 14 0) 15 0 } ∧ m.accs = v.accs.map (·.1) ∧ m.restart = .saved v ∧
          m.spawnj = e.sj ∧ m.rerun = e.rerun ∧
          (∀ (j w : Nat) (q : Tile), m.window[j]? = some w → v.tiles[j]? = some q → vget (t.coreAt core).tiles w Tile.zero = q) ∧
          ∀ q ∈ v.accs, vget (t.coreAt core).accs q.1 Acc.zero = q.2))

/-- Events of launches, engines and migrations. The guard arms; a completed launch's barrier, then or join action is done, or
skipped with a message, or waits for its page (03 R33, R34, R43; the OFFSET of such a message is log 59, and which of several
failing causes it names log 21); a waiting record takes an ID, and a launch register accepts
a record or counts its refusal (03 R30-R32, 28 R325; which record takes an ID first is log 57, that an interface without a configuration accepts
one log 48). A chunk of a copy is written,
counted as it is performed, unless it lies at or above a stop chunk (log 27, DEDUCED), and gone, out of a spill queue too, and
the chunks below it to its destination are marked as issued; of a
copy without a barrier object it is held while an earlier chunk to its destination waits in a spill queue (log 74, DEDUCED). An
element of VGATH in a spill queue is read, and kept until its turn. A
page of a move goes under migration, its leaf's M set; CRED adds a group at a
destination, one rounding an element, once what its block reads as is rounded to FP32 (log 77), on pages of any D (log 58), and
then writes its residuals; COPYN issues a point as chunks and TLDN loads a row
(10 R152, R153, R155, R160, 13 R197-R200, 15 R230). A migrated page's bytes stand in the new frame, as they read under the page's
key, and its leaf then names that frame, with M and the reserved bits clear; the old frame returns to its tier's pool once
the TLBs have dropped the page (10 R160, logs 15 and 18). A migration from or to a frame that a failed port has taken ends
without a copy, and such a frame goes to no pool (28 R334, log 65). -/
def Obligations.LaunchAndEngineEvents : Prop :=
  ∀ (s : State) (n k id : Nat) (o : Op) (live : Bool),
    let tabled (t : State) (lid i die : Nat) (w : LaunchRec) : Prop :=
      let r := { w with prio := s.clampPrio i w.prio }
      t.launch? lid = some ⟨i, r, die, w.count.toNat - w.next.toNat, false, [], 0⟩
    let queued (t : State) (die : Nat) (p : BitVec 4) (i : Item) : Prop :=
      t.queue die p.toNat = s.queue die p.toNat ++ [⟨i, [], false, s.stamp⟩]
    (n < 3 → 63 ≤ (s.guard n).count →
      exec (.starvationGuardArm n) s = .next { s with guards := vset s.guards n ⟨0, true, (s.guard n).served⟩ }) ∧
    (∀ l, s.launch? n = some l → l.complete = true →
      let bar := l.r.frame.off + l.r.barOff.toNat; let cnt := l.r.frame.off + l.r.joinOff.toNat
      let done (t : State) : Prop := t.launch? n = if l.live = 0 then none else some { l with actions := [] }
      (∀ g, l.actions = [1] → s.actionSegs l true bar = .ok [g] →
        ∃ t, exec (.completionActionResume n) s = .next t ∧ done t ∧ t.mem = (s.arriveAt g 1).mem) ∧
      (l.actions = [2] → s.ringFull l.home l.r.prio.toNat = false →
        ∃ t, exec (.completionActionResume n) s = .next t ∧ t.launch? n = some { l with actions := [], live := 1 } ∧ t.mem = s.mem ∧
          queued t l.home l.r.prio (.one ⟨l.r.thenOff, l.r.prio, l.r.place, l.r.need, .ofNat 48 l.r.frame.off,
            if l.r.joinV then l.r.joinOff else .allOnes 32, n, 0, 0⟩)) ∧
      (∀ segs, l.actions = [3] → s.actionSegs l false cnt = .ok segs → s.releaseFull segs = none →
        ∃ t, exec (.completionActionResume n) s = .next t ∧ done t ∧
          t.mem = (s.writeSegs segs (bytesOf 8 ((s.readNat segs + (2 ^ 64 - 1)) % 2 ^ 64))).mem ∧
          (s.readNat segs % 2 ^ 64 ≠ 1 → t.queues = s.queues) ∧
          ∀ j, s.readNat segs % 2 ^ 64 = 1 → s.joins.find? (·.pa == segsPa s segs) = some j → queued t j.die j.r.prio (.one j.r)) ∧
      (∀ b off, (l.actions = [1] ∧ b = true ∧ off = bar) ∨ (l.actions = [3] ∧ b = false ∧ off = cnt) →
        (s.actionSegs l b off = .error none →
          exec (.completionActionResume n) s = .next (s.requestPage (s.tableOf l.iface l.r.frame.obj) l.r.frame.obj off)) ∧
        (∀ c, s.actionSegs l b off = .error (some c) → ∃ t, exec (.completionActionResume n) s = .next t ∧ done t ∧
          t.mem = (s.postFault l.iface { unit := 8, cause := c, offset := off, lid := n, slot := l.ender }).mem))) ∧
    (∀ (w : Waiting) (lid : Nat), s.waiting[n]? = some w → s.freeLid = some lid →
      let home (d : Nat) := if w.r.place = 1 then 2 else if d = 2 then lid % 2 else d
      (w.from_ = none → s.launchRoom lid w.iface w.r = true → w.r.next ≠ w.r.count →
        ∃ t, exec (.launchIdAssign n) s = .next t ∧ t.waiting = s.waiting.eraseIdx n ∧ tabled t lid w.iface (home 2) w.r ∧
          queued t (home 2) (s.clampPrio w.iface w.r.prio) (.launch lid) ∧ t.mem = s.mem) ∧
      (∀ sid op, w.from_ = some (sid, op) → s.findOp sid op = some (o, live) → (s.slot sid).id = sid →
        ∃ t, exec (.launchIdAssign n) s = .next t ∧ t.waiting = s.waiting.eraseIdx n ∧
          tabled t lid w.iface (home (sid / 16384)) w.r ∧ t.findOp sid op = some ({ o with task := .launch lid }, live) ∧
          (t.slot sid).block ≠ some (.launch op) ∧ t.mem = s.mem)) ∧
    (∀ (off : Nat) (bytes : List Byte), s.module.boot = .open_ → (s.iface n).stopped = false → n < 128 →
      ((s.iface n).posted ≠ [] → exec (.launchRegisterWrite n ⟨off, bytes⟩) s = .next (s.setIface n
        { s.iface n with posted := (s.iface n).posted ++ [⟨.register, off, bytes, 0⟩] })) ∧
      ((s.iface n).posted = [] →
      let waits := (s.waiting.filter fun w => w.iface == n && w.from_.isNone).length
      let refuses (c : BitVec 8) : Prop := exec (.launchRegisterWrite n ⟨off, bytes⟩) s =
        .next (s.setIface n { s.iface n with refused := (s.iface n).refused + 1, cause := c })
      let v := natOfBytes bytes; let r0 := launchRec v true true
      let r := launchRec v (s.registerTag n r0.code) (s.registerTag n r0.frame)
      (off ≠ 0 ∨ bytes.length ≠ 64 → refuses 2) ∧
      (off = 0 → bytes.length = 64 → (64 ≤ waits → refuses 3) ∧ (waits < 64 →
        (launchRefuses v r = some 0 → refuses 2) ∧ (∀ c, launchRefuses v r = some (c + 1) → refuses 1) ∧
        (launchRefuses v r = none →
          (s.freeLid = none →
            exec (.launchRegisterWrite n ⟨off, bytes⟩) s = .next { s with waiting := s.waiting ++ [⟨n, r, none⟩] }) ∧
          ∀ lid, s.freeLid = some lid → s.launchRoom lid n r = true → r.next ≠ r.count →
            ∃ t, exec (.launchRegisterWrite n ⟨off, bytes⟩) s = .next t ∧ t.mem = s.mem ∧
              tabled t lid n (if r.place = 1 then 2 else lid % 2) r ∧
              queued t (if r.place = 1 then 2 else lid % 2) (s.clampPrio n r.prio) (.launch lid)))))) ∧
    (let copies (ev : Instr) (i : Nat) : Prop :=
        ∀ src dsts todo tags bar p g, o.task = .copy src dsts todo [] tags bar → todo[i]? = some p →
          let d := dsts.getD p.dst Cap.null
          (∀ q ∈ todo.take (i + 1), ∀ c f, s.pieceSegs k o.iface src dsts bar q ≠ .bad c f) →
          s.accepts k o p.key src (src.off + p.off) = true → s.accepts k o p.key d (d.off + p.off) = true →
          s.chunkSegs k o.iface src d (src.off + p.off) (d.off + p.off) p.len = .ok g →
          (bar = none → ∀ q ∈ todo, q.spilled = true → q.dst = p.dst → p.off ≤ q.off) →
          let moved := s.moveChunk g tags
          ∃ t, exec ev s = .next t ∧ t.mem = (moved.countInto bar (if p.late then 0 else p.len)).mem ∧
            t.findOp k id = some ({ o with task := .copy src dsts ((markIssued todo p).filter (· != p)) [] tags bar, begun := true }, live) ∧
            (∀ e ∈ t.spills, ¬(e.slot = k ∧ e.op = id ∧ e.key = p.key)) ∧
            (tags = false → moved.mem = (s.writeSegs g.2 (s.readSegs g.1)).mem);
      s.findOp k id = some (o, live) → (s.slot k).id = k → s.mayGo k o live = true →
      copies (.chunkComplete k id n) n ∧
      (∀ (e : Spill) (port i : Nat), (s.spillQueue port)[n]? = some e → e.slot = k → e.op = id →
        (∀ src dsts todo stops tags bar, o.task = .copy src dsts todo stops tags bar →
          indexWhere (fun p => p.key == e.key) todo = some i) → copies (.spillElementPerform port n) i) ∧
      (∀ (e : Spill) (port f : Nat) c offs et v g, (s.spillQueue port)[n]? = some e → e.slot = k → e.op = id →
        o.task = .gather c offs et v → e.key < 64 → offs[e.key]? = some (some f) →
        s.segsOf k o.iface c f ((etFmt et).width / 8) false = .ok g →
        exec (.spillElementPerform port n) s = .next { s with
          spills := s.spills.map fun x => if x.slot = k ∧ x.op = id ∧ x.key = e.key then
            { x with val := some (g.any (·.d), s.readNat g) } else x }) ∧
      (∀ cap target todo stop bar p e l leafPa page frame g, o.task = .move cap target true todo stop bar → todo[n]? = some p →
        p.late = false → s.objEntry o.iface cap.obj = some e → s.keysOk o.iface e = true →
        (target = 8 → oeTier e ≠ 0) → s.accepts k o p.key cap p.off = true → s.walk e p.off = .leaf l leafPa page →
        let size := lfSize l; let lo := p.off / size * size
        oeAdmits e cap.kind p.off 1 = true → oeAdmits e cap.kind p.off (min p.len (lo + size - p.off)) = true →
        s.useLeaf e l p.off (min p.len (lo + size - p.off)) false = .ok g → lfM l = false →
        (∀ m ∈ s.moves, ¬(m.iface = o.iface ∧ m.oid = cap.obj ∧ m.off = lo)) → s.freeFrame o.iface target size = some frame →
        s.barLost bar = none → (bar = none → ∀ q ∈ todo, q.spilled = true → p.off ≤ q.off) →
        (∀ q, stop = some q → q.sent = true ∨ p.off < q.unit) →
        ∃ t, exec (.chunkComplete k id n) s = .next t ∧ t.readLeaf (oeTkey e) leafPa = l ||| (1#64 <<< 58) ∧
          t.moves = s.moves ++ [⟨o.iface, cap.obj, lo, leafPa, (if lfT l then cxlBase else 0) + lfFrame l,
            (if target = 8 then cxlBase else 0) + frame, size, oeTkey e, oeKey e, false, some (k, id)⟩]) ∧
      (∀ src res dsts f m todo bar g d left segs, o.task = .cred src res dsts f m todo none bar → todo[n]? = some g →
        let a := (credSpan f m g.g).1; let w := (credSpan f m g.g).2
        let c := dsts.getD d Cap.null
        g.g < (todo.headD g).g + 8 → g.left = d :: left → d < 16 → g.vals ≠ [] → g.vals.length = w → g.part = [] →
        s.accepts k o (credKey g.g d) c (c.off + 4 * a) = true →
        s.segsOf k o.iface c (c.off + 4 * a) (4 * w) true = .ok segs → s.barLost bar = none →
        (bar = none → ∀ h ∈ todo, h.g < g.g → s.queued k id (h.g * 32 + d) = false) →
        ∃ (t : State) (vs : List Nat), exec (.chunkComplete k id n) s = .next t ∧ vs.length = w ∧
          t.mem = ((s.writeSegs segs (vs.flatMap fun x => bytesOf 4 x)).countInto bar (4 * w)).mem ∧
          (∀ i, i < w → vs[i]? = some (Sys2Proof.Num.f32 0 (Sys2Proof.Num.add 0
            (Sys2Proof.Num.of32 (s.readNat segs / 2 ^ (32 * i) % 2 ^ 32))
            (Sys2Proof.Num.of32 (Sys2Proof.Num.f32 0 ((credBlock f g.vals).1.getD i (.fin false 0 0)))))))) ∧
      (live = false ∨ (o.lvl = (s.slot k).lvl ∧ (s.slot k).trapPend = none) →
        (∀ c bar pts todo, o.task = .copyn c bar pts todo none → c.armed = true →
          ∃ t ps, exec (.macroStep k id) s = .next t ∧ t.mem = s.mem ∧
            t.findOp k id = some ({ o with task := .copyn c.next bar (pts ++ [⟨c.number, c.at 0, c.at 1⟩]) (todo ++ ps) none }, live) ∧
            (ps.map (·.len)).sum = nestExt c.par.toNat 0 ∧
            ∀ p ∈ ps, p.dst = c.number ∧ 1 ≤ p.len ∧ p.len ≤ 4096 ∧
              (c.at 0 + p.off) / 65536 = (c.at 0 + p.off + p.len - 1) / 65536 ∧
              (c.at 1 + p.off) / 65536 = (c.at 1 + p.off + p.len - 1) / 65536) ∧
        (∀ t tc c p g1 g, o.task = .tldn t tc c p → c.armed = true → p < tcRows tc → t < 16 →
          (s.coreAt (k / 128)).id = k / 128 → s.padBusy k c 0 tc = false →
          let src := vget c.caps 0 Cap.null; let off := c.at 0; let len := 64 * tcBlk tc
          s.accepts k o p src off = true → s.heldVal k id p = none → s.segsOf k o.iface src off 1 false = .ok g1 → g1.any (·.d) = true →
          len ≤ nestExt c.par.toNat 0 → s.segsOf k o.iface src off len false = .ok g → off % 64 = 0 →
          ∃ u, exec (.macroStep k id) s = .next u ∧ u.mem = s.mem ∧
            u.findOp k id = some ({ o with task := .tldn t tc c.next (p + 1), begun := true }, live) ∧
            (∀ r, r ≠ p → vget (u.tile k t) r 0 = vget (s.tile k t) r 0) ∧
            ∀ q, q < tcBlk tc → let b := s.readNat g / 2 ^ (512 * q) % 2 ^ 512
              (u.tile k t).block p q = if Sys2Proof.Num.illFormed b (tcWidth tc) then poisonBlock b else b))) ∧
    (∀ g : Migration, s.moves[n]? = some g → g.switched = false →
      s.storageLost g.old g.size = true ∨ s.storageLost g.new g.size = true →
      ∃ t, exec (.migrationSwitch n) s = .next t ∧ t.moves = s.moves.eraseIdx n) ∧
    (∀ g : Migration, s.moves[n]? = some g → g.switched = false → s.storageLost g.old g.size = false →
      s.storageLost g.new g.size = false → ∃ t, exec (.migrationSwitch n) s = .next t ∧
      t.moves = s.moves.set n { g with switched := true } ∧
      (g.owner = none → s.mem.wf → g.old % 65536 = 0 → g.new % 65536 = 0 → g.size % 65536 = 0 → 0 < g.size →
        g.new + g.size ≤ cxlBase + 2 ^ 52 → (cxlBase ≤ g.new ∨ g.new + g.size ≤ 2 ^ 52) →
        (g.old + g.size ≤ g.new ∨ g.new + g.size ≤ g.old) →
        (g.leafPa + 8 ≤ g.new ∨ g.new + g.size ≤ g.leafPa / 64 * 64) →
        let l := s.readLeaf g.key g.leafPa; let m := t.readLeaf g.key g.leafPa
        (∀ i, i < g.size → t.mem.read (s.keyOf g.dkey) (g.new + i) = s.mem.read (s.keyOf g.dkey) (g.old + i) ∧
          t.mem.tag (g.new + i) = s.mem.tag (g.old + i)) ∧
        lfM m = false ∧ (if lfT m then cxlBase else 0) + lfFrame m = g.new ∧ lfP m = lfP l ∧ lfOrd m = lfOrd l ∧
        lfD m = lfD l ∧ lfS m = lfS l ∧ m.extractLsb' 52 5 = 0 ∧ m.extractLsb' 0 16 = l.extractLsb' 0 16)) ∧
    (∀ g : Migration, s.moves[n]? = some g → g.switched = true → s.stale g = false → ∃ t, exec (.shootdownComplete n) s = .next t ∧ t.moves = s.moves.eraseIdx n ∧ t.mem = s.mem ∧
        (∀ e ∈ t.tlb, e.covers g.iface g.oid g.off g.size = false) ∧
        (t.iface g.iface).hbmPool = (s.iface g.iface).hbmPool ++ (if g.old < cxlBase then [(g.old, g.size)] else []) ∧
        (t.iface g.iface).cxlPool = (s.iface g.iface).cxlPool ++
          (if g.old < cxlBase ∨ s.storageLost g.old g.size = true then [] else [(g.old - cxlBase, g.size)])) ∧
    (∀ src res dsts f m todo bar g segs, s.findOp k id = some (o, live) → (s.slot k).id = k →
      o.task = .cred src res dsts f m todo none bar → todo[n]? = some g → g.mask = 2 ^ dsts.length - 1 →
      let a := (credSpan f m g.g).1; let w := (credSpan f m g.g).2
      g.vals.length = w → s.accepts k o (credKey g.g 30) res (res.off + 4 * a) = true →
      s.segsOf k o.iface res (res.off + 4 * a) (4 * w) true = .ok segs →
      (bar = none → ∀ h ∈ todo, h.g < g.g → s.queued k id (h.g * 32 + 30) = false) →
      ∃ (t : State) (vs : List Nat), exec (.credGroupComplete k id n) s = .next t ∧ vs.length = w ∧
        t.mem = (s.writeSegs segs (vs.flatMap fun x => bytesOf 4 x)).mem ∧
        t.findOp k id = some ({ o with task := .cred src res dsts f m (todo.eraseIdx n) none bar, begun := true }, live) ∧
        ∀ i, i < w → vs[i]? = some (if (credBlock f g.vals).2 then 0 else Sys2Proof.Num.f32 0 (Sys2Proof.Num.add 0
          (Sys2Proof.Num.of32 (g.vals.getD i 0)) ((credBlock f g.vals).1.getD i (.fin false 0 0)).negate)))

/-- Events of braids, A-pipes, frames and dies. Outside a hold a pushed vector is accepted by its armed braid, quantised, or
is lost, and so is the next vector of a memory source, read as plain elements (log 58); a vector's outputs are written and counted, put into vector registers, or pushed on; a free
A-pipe takes the oldest job of its die, and its blocks are looked up and selected then (log 39, the model's reading), and merges a block; a freed frame returns to the end of its pool (the pool's order is
log 18) once the buffers have dropped it; cores retire, a spare's own storage being zero (log 34), and a core without a spare hands its
deque to its die's queues (02 R22; behind its own continuations, log 79), or are held (02 R18, R21, R22,
R25, 17 R243-R246, 19 R268, 22 R293, 31 R355). -/
def Obligations.BraidPipeAndDieEvents : Prop :=
  ∀ (s : State) (die n h : Nat),
    let named (t : State) : Option Braid := t.braids.find? fun b => b.die == die && b.handle == h
    let takes (b : Braid) (r : BRun) (vec : List Nat) : Braid :=
      let q := quantise b.wi (b.list.map fun e => Sys2Proof.Num.of32 (vec.getD e 0))
      { b with nan := b.nan || q.isNone, run := some { r with taken := r.taken + 1, flight := r.flight ++ [(r.taken, q)] } }
    (∀ p b, s.pushes.find? (fun p => p.die == die && p.handle == h) = some p → s.time ≥ vget s.module.engHold die 0 →
      named s = some b → b.freeing = none → b.iface = p.iface →
      ∃ t, exec (.braidInputVector die h) s = .next t ∧ t.pushes = s.pushes.erase p ∧ t.mem = s.mem ∧
        (∀ r, b.run = some r → b.armed = true → r.src = none → r.open_ = true → r.taken < r.total →
          (∀ e ∈ b.list, e < p.vec.length) → named t = some (takes b r p.vec)) ∧
        ((∀ r, b.run = some r → b.armed = false ∨ r.src ≠ none) → named t = some { b with lost := true })) ∧
    (∀ (b : Braid) (r : BRun) (cap : Cap) (fmt ls : Nat) (g : List Seg), s.time ≥ vget s.module.engHold die 0 →
      s.pushes.find? (fun p => p.die == die && p.handle == h) = none → named s = some b → b.run = some r →
      r.src = some (cap, fmt, ls) → r.open_ = true → r.taken < r.total → s.runMay r = true →
      let at_ := cap.off + r.taken * (ls * sfmtSize fmt)
      s.runAccepts r 0 cap at_ = true → s.segsOf r.slot b.iface cap at_ (ls * sfmtSize fmt) false = .ok g →
      ∃ t, exec (.braidInputVector die h) s = .next t ∧ t.mem = s.mem ∧
        named t = some (takes b r (sourceVec fmt ls (s.readNat g)))) ∧
    (∀ (b : Braid) r t q fs, named s = some b → b.run = some r → r.flight = (t, q) :: fs →
      let route := r.route.toNat; let size := b.nout * rtSize route
      let spent : Option Braid := some { b with done := (b.done + 1) % 2 ^ 32, run := some { r with flight := fs } }
      (∀ g, rtKind route = 1 → s.runMay r = true →
        let f := ((r.dest.off : Int) + t * rtPitch route).toNat
        s.runAccepts r 1 r.dest f = true → s.segsOf r.slot b.iface r.dest f size true = .ok g → s.barLost r.bar = none →
        ∃ u, exec (.braidVectorOutput die h) s = .next u ∧ named u = spent ∧ u.mem = ((s.writeSegs g (bytesOf size
          (Sys2Proof.Num.packCodes (8 * rtSize route) (b.outputs q)))).countInto r.bar size).mem) ∧
      (rtKind route = 2 → ∃ u, exec (.braidVectorOutput die h) s = .next u ∧ named u = spent ∧ u.mem = s.mem ∧
        u.pushes = s.pushes ++ [⟨die, rtPort route, b.iface, (b.outputs q).map fun c =>
          if b.ofmt = 0x40 then c else Sys2Proof.Num.f32 0 (Sys2Proof.Num.decode (ofmtOf b.ofmt) c)⟩]) ∧
      (let regs := (b.nout + 63) / 64; let port := rtPort route
        rtKind route = 3 → ((s.slot r.slot).op? r.op).isSome = true → (s.slot r.slot).id = r.slot → port + regs ≤ 32 →
        let c := ((s.slot r.slot).deliver (s.coreAt (r.slot / 128)).cycle).ctx
        ∃ (u : State) (vs : Vector VWord 32), exec (.braidVectorOutput die h) s = .next u ∧ named u = spent ∧ u.mem = s.mem ∧
          (u.slot r.slot).ctx = { c with v := vs } ∧
          (∀ i, i < port ∨ port + regs ≤ i → vget vs i 0 = vget c.v i 0) ∧
          ∀ i, i < b.nout → (vget vs (port + i / 64) 0).toNat / 2 ^ (32 * (i % 64)) % 2 ^ 32 = (b.outputs q).getD i 0 % 2 ^ 32)) ∧
    (∀ j, s.pipes.find? (fun p => p.die == die && p.pipe == n) = none → s.firstJob die = some j → n < 12 →
      s.time ≥ vget s.module.engHold die 0 →
      exec (.apipeJobTake die n) s = .next (({ s with
        jobs := s.jobs.erase j, pipes := s.pipes ++ [⟨die, n, j, false, [], [], [], false⟩] } : State).planPipe
          ⟨die, n, j, false, [], [], [], false⟩)) ∧
    (∀ p b q, s.pipes.find? (fun p => p.die == die && p.pipe == n) = some p → p.blocks[h]? = some b → p.planned = true →
      p.mayMerge h b = true → s.blockAccepted p b = true → b.tier = false → (s.roomFor p.job.slot p.job.op b.key).mergeBlock p b = .ok q →
      ∃ t, exec (.apipeBlockMerge die n h) s = .next t ∧ t.mem = s.mem ∧ q.blocks = p.blocks.erase b ∧
        t.pipes = s.pipes.map fun x => if x.die == q.die && x.pipe == q.pipe then q else x) ∧
    (∀ f, s.freed[n]? = some f → (∀ k ∈ f.jobs, s.outstanding k = false) → ∃ t, exec (.frameReturn n) s = .next t ∧
      t.freed = s.freed.eraseIdx n ∧ (t.iface f.iface).kvPool = (s.iface f.iface).kvPool ++ [f.unit] ∧ t.mem = s.mem ∧
      ∀ b ∈ t.kvBufs, b.iface = f.iface → keFrame b.val ≠ f.unit) ∧
    (die < 2 → n < 96 → (s.coreAt (die * 128 + n)).absent = false →
      (vget s.module.spares die 0 = 0 → exec (.coreRetire die n) s = .next ((s.dropCore (die * 128 + n)).note true)) ∧
      (∀ w, vget s.module.spares die 0 = 0 → s.busySlots (die * 128 + n) = [] → (s.coreAt (die * 128 + n)).id = die * 128 + n →
        (s.coreAt (die * 128 + n)).deque = [w] → s.ringFull die w.prio.toNat = false →
        ∃ t, exec (.coreRetire die n) s = .next t ∧ (t.coreAt (die * 128 + n)).absent = true ∧
          (t.coreAt (die * 128 + n)).deque = [] ∧ t.mem = s.mem ∧
          t.queue die w.prio.toNat = s.queue die w.prio.toNat ++ [⟨.one w, [], false, s.stamp⟩]) ∧
      (0 < vget s.module.spares die 0 → exec (.coreRetire die n) s =
        .next ((((({ s with module := { s.module with spares := vset s.module.spares die (vget s.module.spares die 0 - 1) } } : State).busySlots
            (die * 128 + n)).foldl State.replace
          (({ s with module := { s.module with spares := vset s.module.spares die (vget s.module.spares die 0 - 1) } } : State).clearCore
            (die * 128 + n))).note true)))) ∧
    (coreOk n = true → ∃ t, exec (.powerHold n h) s = .next t ∧ t.me = s.me ∧ t.mem = s.mem ∧
      (n = s.core.id → t.core = { s.core with hold := s.core.hold + h }) ∧ s.time + h ≤ vget t.module.engHold (n / 128) 0) ∧
    (die < 3 → ∃ t, exec (.thermalHold die h) s = .next t ∧ t.me = s.me ∧ t.mem = s.mem ∧ die ∈ t.module.hot ∧
      s.time + h ≤ vget t.module.engHold die 0) ∧
    exec (.dieTemperatureFall die) s = .next { s with module := { s.module with hot := s.module.hot.filter (· != die) } } ∧
    (∃ t, exec .thermalShutdown s = .next t ∧ t.module.boot = .off)

/-- Events of the host, the links and firmware: an interface is configured or reset; its window is written and read, in the
order in which the accesses arrive; vector 0 is raised for every change of the capability list; lanes and ports fail, and
the data behind a failed CXL port is lost, and an access translated to it before fails with cause 11; the domain comes up;
other devices' accesses, atomics, barrier arrivals, group updates, counter decrements and CRED
blocks are performed here while a port is up; a slot that waits for a far barrier object wakes as its PHASE changes, the record
that waits on a far join counter is enqueued as it comes to zero, and a far granule takes a tag; an
access of ours whose home device does not answer traps, and a command stops
with cause 10 at the element that is not answered; the module is reset, takes an image, and reports, with the configuration
digest of every interface; a container is loaded
and its sequence stepped (02 R19, R20, 03 R46, R48, R51, 28 R324-R334, 31 R349-R354). Reset values are log 5, signatures and the
report's layout log 13, what home devices hold log 14, the BRAID table log 35, requests of other devices log 44, firmware's
events, and that INTERFACE_RESET forgets the interface's freed braid handles, log 45, that a command
is timed out as if no port were up log 46, the capability list's bodies log 64, the second tier's capacity and what is lost with
a port log 65, that a CRED block's value is rounded to FP32 before it is added log 77, that a remote contribution is applied by itself,
rounded at once, where 05 R81 allows any tree, log 80, that a message's OFFSET counts within the object log 59: the model's
readings. -/
def Obligations.HostLinkAndFirmwareEvents : Prop :=
  ∀ (s : State) (i n : Nat) (bytes sig : List Byte) (g : List Seg) (c : Cap),
    let lost (t : State) (a : Nat) : Prop :=
      cxlBase ≤ a ∧ a < encryptedEnd ∧ t.frameLost ((a - cxlBase) / 65536 * 65536) 65536 = true
    (∀ cfg, s.answers i = true → s.launchFree i = true → cfgOk cfg = true → ∃ t,
      exec (.interfaceConfigure i cfg) s = .next t ∧ t.iface i = { s.iface i with cfg := some cfg } ∧ t.mem = s.mem ∧
        t.module = { s.module with
          changes := s.module.changes + if t.ifaceBody i = s.ifaceBody i then 0 else 1 }) ∧
    exec (.interfaceReset i) s = .next { s with
      joins := s.joins.filter (·.iface != i), gone := s.gone.filter fun x => x.2.2 != i } ∧
    (s.answers i = true → s.windowCap i = some c →
      (bytes ≠ [] → (s.iface i).posted = [] → s.stream 0 i c n bytes.length true = .ok g →
        ∃ t, exec (.hostWindowWrite i n bytes) s = .next t ∧ t.mem = (s.writeSegs g bytes).mem ∧ t.me = s.me) ∧
      (∀ size, (s.iface i).posted = [] → s.stream 0 i c n size false = .ok g → ∃ t, exec (.hostWindowRead i n size) s = .next t ∧
        (t.iface i).reads = s.readNat g :: (s.iface i).reads ∧ t.mem = s.mem) ∧
      (∀ a as, bytes ≠ [] → (s.iface i).posted = a :: as → (∃ p, s.hostAccess i a = .error p) →
        ∃ t, exec (.hostWindowWrite i n bytes) s = .next t ∧ t.mem = s.mem ∧
          (t.iface i).posted = a :: as ++ [⟨.window, n, bytes, 0⟩])) ∧
    exec .capabilityListUpdate s = .next { s with
      module := { s.module with raised0 := s.module.raised0 + s.module.changes, changes := 0 } } ∧
    (∃ t, exec (.ndoedLaneFail n) s = .next t ∧ t.mem = s.mem ∧ t.me = s.me ∧ t.module = { s.module with
      lanes := vset s.module.lanes n (vget s.module.lanes n 0 - 1)
      changes := s.module.changes + if t.ndoedBody = s.ndoedBody then 0 else 1 }) ∧
    (s.module.boot = .open_ → n < 900 → ∃ t, exec (.domainBringUp n) s = .next t ∧ t.mem = s.mem ∧ t.me = s.me ∧
      t.module = { s.module with
        dom := true, dev := n, changes := s.module.changes + if t.ndoedBody = s.ndoedBody then 0 else 1 }) ∧
    (∀ r : RemoteReq, s.linked = false → exec (.remoteRequest r) s = .next s) ∧
    (∀ (r : RemoteReq) (e : BitVec 256), s.module.dom = true → s.answers r.iface = true → s.linked = true →
      s.objEntry r.iface r.oid = some e → oeAdmits e (oeKind e) r.off (remoteSize r.op) = true → oeKind e ∈ [0, 4, 5] →
      s.stream 0 r.iface ⟨.ofNat 128 (r.oid * 2 ^ 96 + oeKind e * 2 ^ 12), true⟩ r.off (remoteSize r.op) (remoteWrites r.op) =
        .ok g →
      (remotePlaced r.op r.off g = false → exec (.remoteRequest r) s = .next s) ∧
      (remotePlaced r.op r.off g = true →
      let answers (t : State) (v : Nat) : State :=
        t.setIface r.iface { t.iface r.iface with reads := v :: (t.iface r.iface).reads }
      (∀ m, r.op = .load m → exec (.remoteRequest r) s = .next (answers s (s.readNat g))) ∧
      (∀ bs, r.op = .store bs → exec (.remoteRequest r) s = .next (s.writeSegs g bs)) ∧
      (r.op = .loadCap → exec (.remoteRequest r) s =
        .next (answers s (s.readNat g + (s.mem.tag (segsPa s g)).toNat * 2 ^ 128))) ∧
      (∀ v, r.op = .storeCap v → exec (.remoteRequest r) s = .next (s.putCap g v)) ∧
      (∀ b m, g = [b] → r.op = .binit m → exec (.remoteRequest r) s =
        .next (s.writeSegs [b] (bytesOf 16 (m % 2 ^ 40 + s.readNat [b] / 2 ^ 80 % 2 * 2 ^ 80)))) ∧
      (∀ b m, g = [b] → r.op = .barr m → exec (.remoteRequest r) s =
        .next (if m % 2 ^ 40 = 0 ∧ s.readNat [b] % 2 ^ 40 ≠ 0 then s else s.arriveAt b (m % 2 ^ 40))) ∧
      (∀ p v, r.op = .amo p v → exec (.remoteRequest r) s = .next (answers (s.rmw g p v).1 (s.rmw g p v).2.toNat)) ∧
      (∀ p v, r.op = .red p v → exec (.remoteRequest r) s = .next (s.rmw g p v).1) ∧
      (∀ b, g = [b] → let c : Seg := { b with pa := s.canon b.pa }; let q := s.group c
        let becomes (u : Group) : Prop := exec (.remoteRequest r) s = .next (answers (s.updateGroup c 2 u) q.phase)
        (r.op = .join → q.members + q.joins + 1 < 2 ^ 32 → becomes { q with joins := q.joins + 1 }) ∧
        (r.op = .arrive → becomes { q with arrived := q.arrived + 1 }) ∧
        (r.op = .leave true → becomes { q with leaves := q.leaves + 1 }) ∧
        (r.op = .leave false → becomes { q with arrived := q.arrived + 1, leaves := q.leaves + 1 }) ∧
        (r.op = .withdraw → 0 < q.joins → q.joins < 2 ^ 32 → becomes { q with joins := q.joins - 1 })) ∧
      (r.op = .joinDec → s.releaseFull g = none → ∃ t, exec (.remoteRequest r) s = .next t ∧
        let v := s.readNat g % 2 ^ 64
        t.mem = (s.writeSegs g (bytesOf 8 ((v + 2 ^ 64 - 1) % 2 ^ 64))).mem ∧
        (v ≠ 1 → t.joins = s.joins ∧ t.queues = s.queues) ∧
        ∀ j, v = 1 → s.joins.find? (·.pa == segsPa s g) = some j →
          t.queue j.die j.r.prio.toNat = s.queue j.die j.r.prio.toNat ++ [⟨.one j.r, [], false, s.stamp⟩]) ∧
      (∀ x y : XWord, r.op = .cas x y → let old : XWord := .ofNat 64 (s.readNat g)
        exec (.remoteRequest r) s =
          .next (answers (if old = x then s.writeSegs g (bytesOf 8 y.toNat) else s) old.toNat)) ∧
      (∀ f k b, r.op = .cred f k b → ∃ vs : List Nat, vs.length = k ∧
        exec (.remoteRequest r) s = .next (s.writeSegs g (vs.flatMap fun x => bytesOf 4 x)) ∧
        ∀ j, j < k → vs[j]? = some (Sys2Proof.Num.f32 0 (Sys2Proof.Num.add 0
          (Sys2Proof.Num.of32 (s.readNat g / 2 ^ (32 * j) % 2 ^ 32))
          (Sys2Proof.Num.of32 (Sys2Proof.Num.f32 0 (Sys2Proof.Num.readElem b.toNat (if 3 ≤ f then 0 else 1) j)))))))) ∧
    (∀ k oid off val e, (s.slot n).block = some (.walk k oid off val) → (s.slot n).id = n → oid < 2 ^ 32 →
      s.objEntry k oid = some e → ¬(s.module.dom = true ∧ oeHome e = s.module.dev) →
      (oeKind e = 3 → exec (.remoteAccessTimeout n i) s = .next ((s.onSlot n fun q => { q with block := none }).takeTrap n
        ⟨4, 0, val, (s.slot n).ctx.pc, false⟩)) ∧
      (oeKind e ≠ 3 → s.findOp n i = none → exec (.remoteAccessTimeout n i) s = .next s)) ∧
    (∀ o live, (∀ k oid off val, (s.slot n).block ≠ some (.walk k oid off val)) → s.findOp n i = some (o, live) →
      s.mayGo n o live = true →
      let ends (t : State) : Prop := exec (.remoteAccessTimeout n i) s = .next (t.relink s)
      (∀ cap offs et v e f, o.task = .gather cap offs et v → s.far o.iface cap = true → s.spills = [] →
        s.objEntry o.iface cap.obj = some e → offs.length = 64 → offs.find? (·.isSome) = some (some f) →
        (∀ p ∈ pages f ((etFmt et).width / 8), oeAdmits e cap.kind p.1 p.2 = true) →
        let u := if live then s.cutOff.onSlot n (·.setIdx (offs.any (·.isNone))) else s.cutOff
        ends ((u.dropOp n i).stopMessage n o 1 10 f 0 0)) ∧
      (∀ src dsts p todo stops tags bar f, o.task = .copy src dsts (p :: todo) stops tags bar →
        s.cutOff.pieceSegs n o.iface src dsts bar p = .bad 10 f →
        ends (s.cutOff.copyStop n i src dsts (p :: todo) stops tags bar p 10 f))) ∧
    (n < 16 → n ∉ s.module.cxlDown → let up := 16 - s.module.cxlDown.length
      ∃ t, exec (.cxlPortFail n) s = .next t ∧
      t.module = { s.module with
        cxlDown := s.module.cxlDown ++ [n], cxlGiB := s.module.cxlGiB * (up - 1) / up
        changes := s.module.changes + if t.cxlBody = s.cxlBody then 0 else 1 } ∧
      (∀ k a, ¬lost t a → t.mem.read k a = s.mem.read k a ∧ t.mem.tag a = s.mem.tag a) ∧
      (∀ a, lost t a → t.mem.read 0 a = 0 ∧ t.mem.tag a = false) ∧ t.me = s.me ∧ ∀ k, ∀ f ∈ (t.iface k).cxlPool, t.frameLost f.1 f.2 = false) ∧
    (∀ o live, s.findOp n i = some (o, live) → s.mayGo n o live = true → (∃ x ∈ g, lost s (s.canon x.pa)) →
      (∃ sg d a, o.task = .load g sg d a) ∨ (∃ k d, o.task = .loadCap g k d) ∨ (∃ b a, o.task = .store g b a) ∨
        (∃ v, o.task = .storeCap g v) ∨ (∃ p x d a l, o.task = .amo g p x d a l) →
      ∃ x ∈ g, exec (.longOpComplete n i) s = .next (((s.settleDue n).dropOp n i).stopMessage n o 1 11 x.off 0 0)) ∧
    (∀ key pa as p, s.agenda = .poke key pa bytes :: as → remoteBase ≤ pa → (s.slot n).block = some (.barrier p) →
      remoteBase ≤ p → s.barPhase p ≠ ({ s with mem := s.mem.writes 0 pa bytes } : State).barPhase p →
      (∀ j ∈ s.joins, remoteBase ≤ j.pa → s.joinCount j.pa ≠ 0 →
        ({ s with mem := s.mem.writes 0 pa bytes } : State).joinCount j.pa ≠ 0) →
      ∃ t, step s = .next t ∧ (t.slot n).block = none) ∧
    (∀ (pa : Nat) as (m : Memory) (j : JoinEntry), remoteBase ≤ pa → s.module.boot ≠ .off →
      (∃ key, s.agenda = .poke key pa bytes :: as ∧ m = s.mem.writes 0 pa bytes) ∨
        (∃ v, s.agenda = .farCap pa v :: as ∧ pa % 16 = 0 ∧ m = (s.mem.writes 0 pa (bytesOf 16 v.toNat)).setTag pa true) →
      (s.joins.filter fun q => decide (remoteBase ≤ q.pa) && s.joinCount q.pa != 0 &&
        ({ s with mem := m } : State).joinCount q.pa == 0) = [j] → s.ringFull j.die j.r.prio.toNat = false →
      ∃ t, step s = .next t ∧ t.joins = s.joins.filter (·.pa != j.pa) ∧ (s.farGroups = [] → t.mem = m) ∧
        t.queue j.die j.r.prio.toNat = s.queue j.die j.r.prio.toNat ++ [⟨.one j.r, [], false, s.stamp⟩]) ∧
    (∃ t, exec .moduleReset s = .next t ∧ t.module.boot = .rom ∧ t.me = Slot.idle 0 ∧ t.time = 0 ∧ t.launches = [] ∧
      ∀ k a, ¬lost s a → t.mem.read k a = s.mem.read k a ∧ t.mem.tag a = s.mem.tag a) ∧
    (s.launches = [] → s.waiting = [] → ∃ t, exec (.firmwareImageLoad bytes sig) s = .next t ∧
      (Config.falconAccepts (Keccak.shake256 32 bytes) sig = true → t.module.boot = .open_) ∧
      (Config.falconAccepts (Keccak.shake256 32 bytes) sig = false → t.module.boot = .recovery)) ∧
    (s.module.boot = .open_ → bytes.length = 32 → ∃ (t : State) (dig rest body : List Byte),
      exec (.attestationRequest bytes) s = .next t ∧
      body = bytes ++ s.module.digest ++ dig ++ rest ∧ dig.length = 128 * 32 ∧ rest.length = 6 ∧
      t.module.reports = (body ++ Config.falconSign s.module.reports.length body) :: s.module.reports ∧
      ∀ k, k < 128 → ∃ f : IfaceCfg, (∀ c, s.cfg k = some c → f = c) ∧
        (s.cfg k = none → f.ceiling = 15 ∧ f.watchdogUs = 2000 ∧ f.joinCap = 65536) ∧
        (dig.drop (32 * k)).take 32 = Keccak.shake256 32 (Config.configBytes f)) ∧
    (∀ a : LoadArgs, s.answers a.iface = true →
      (∀ ss t q b, sectionsOf bytes = some ss → sectionsOk bytes ss = true → a.codeCap.kind = 5 → a.dataCap.kind = 0 →
        sectionOf ss idSeq = some q → sectionOf ss idBind = some b →
        let word (k size : Nat) : Nat := natOfBytes ((bytes.drop k).take size)
        let images := match sectionOf ss idBraid with | some r => braidTable bytes r | none => []
        let base := match sectionOf ss idBraid with | some r => r.off | none => 0
        let binds := (List.range (b.len / 32)).map fun k => word (b.off + 32 * k) 32
        (sectionOf ss idBraid = none ∨ a.stageCap.kind = 0 ∨ a.stageCap.kind = 4) →
        (∀ e ∈ binds, bindOk bytes a (images.map (base + ·)) e = true) → s.placeFile a bytes ss binds = .ok t →
        exec (.abxLoad a bytes) s = .next (t.setLoader a.iface
          ⟨(List.range (q.len / 16)).map fun k => .ofNat 128 (word (q.off + 16 * k) 16), 0, none, a.codeCap, a.dataCap,
            images.map fun o => a.stageCap.setOff (.ofNat 48 o), none⟩)) ∧
      (sectionsOf bytes = none ∨ (∃ ss, sectionsOf bytes = some ss ∧ sectionsOk bytes ss = false) ∨ a.codeCap.kind ≠ 5 ∨
        a.dataCap.kind ≠ 0 → exec (.abxLoad a bytes) s =
          .next (s.setLoader a.iface ⟨[], 0, none, a.codeCap, a.dataCap, [], some 0⟩))) ∧
    (∀ (l : Loader) q, s.answers i = true → (s.iface i).loader = some l → l.fault = none → l.wait = none →
      l.steps[l.pos]? = some q →
      (∀ t p, s.seqOne i l q.toNat = .ok (.go t p) → exec (.seqStep i) s = .next (t.setLoader i { l with pos := p })) ∧
      (q.toNat / 2 ^ 9 % 2 ^ 39 = 0 → q.toNat % 2 ^ 8 = 5 →
        exec (.seqStep i) s = .next (s.setLoader i { l with pos := l.steps.length })) ∧
      (q.toNat / 2 ^ 9 % 2 ^ 39 ≠ 0 ∨ q.toNat % 2 ^ 8 = 0 ∨ 5 < q.toNat % 2 ^ 8 →
        exec (.seqStep i) s = .next (s.setLoader i { l with fault := some l.pos })))

/-! ### Whole-machine rules -/

/-- No instruction of the table faults or is refused, whatever its operands and the state: a trap, a stall and an event
that finds nothing to do are next states too. The one thing that stops the machine is firmware's power-down (31 R355): a
step faults exactly where no act is due and the dies are powered down, and is never refused (which acts are due, and when,
is log 1: the model's choice). While they are, acts of the dies, of hosts and of firmware change nothing (which others still
act is log 81, the model's reading). -/
def Obligations.OnlyPowerDownStopsTheMachine : Prop :=
  (∀ (i : Instr) (s : State), ∃ t, exec i s = .next t) ∧
  (∀ s : State, (step s = .fault .poweredDown ↔ s.agenda = [] ∧ s.module.boot = .off) ∧
    (∀ r, step s ≠ .refused r) ∧ (¬(s.agenda = [] ∧ s.module.boot = .off) → Safe s)) ∧
  (∀ (s : State) (a : Act) (as : List Act), s.agenda = a :: as → s.module.boot = .off →
    (∀ k p b, a ≠ .poke k p b) → (∀ t, a ≠ .inlet t) →
    (∀ i, a = .event i → i ≠ .capabilityListUpdate ∧ i ≠ .moduleReset ∧
      ∀ n b c, i ∉ [.ndoedLaneFail n, .cxlPortFail n, .dieTemperatureFall n, .firmwareImageLoad b c]) →
    step s = .next { s with agenda := as })

/-- Memory keeps its canonical form in every step: addresses strictly rise, no listed byte, tag or key equals what an
unlisted one reads as. -/
def Obligations.MemoryKeepsItsForm : Prop := ∀ s t : State, s.mem.wf → step s = .next t → t.mem.wf

/-- The machine right after reset (02 R26, 26 R306, 31 R353): TIME and TSTAT are 0, no slot is busy, no core is held, the
boot ROM waits for an image, nothing is queued, and memory lists nothing and has its form. The register values that the
manual does not give are the model's own and are not stated here (log 5); that an unlisted byte reads 0 is the model's
choice (log 4). -/
def Obligations.ResetState : Prop :=
  let s := State.reset
  s.time = 0 ∧ s.me.tstat = 0 ∧ s.me.busy = false ∧ (∀ k, (s.slot k).busy = false) ∧ s.module.boot = .rom ∧ s.launches = [] ∧
  s.queues = [] ∧ s.joins = [] ∧ s.mem.wf ∧ (∀ k a, s.mem.read 0 a = 0 ∧ s.mem.tag a = false ∧ (s.coreAt k).hold = 0) ∧ Safe s
end

