-- ==== Sys2Proof/Laws/Map.lean ====
section
/-! SUPPORT. Laws of finite maps and of total access to vectors. -/

namespace Sys2Proof

variable {α : Type}

@[simp] theorem mget_nil (k : Nat) : mget ([] : Map α) k = none := rfl

@[simp] theorem mget_mset_same (m : Map α) (k : Nat) (v : α) : mget (mset m k v) k = some v := by
  induction m with
  | nil => simp [mset, mget]
  | cons p m ih =>
    obtain ⟨j, w⟩ := p
    simp only [mset]
    split
    · simp [mget]
    · split
      · simp [mget]
      · simp_all [mget, eq_comm]

theorem mget_mset_other (m : Map α) {j k : Nat} (v : α) (h : j ≠ k) : mget (mset m k v) j = mget m j := by
  induction m with
  | nil => simp [mset, mget, h.symm]
  | cons p m ih =>
    obtain ⟨i, w⟩ := p
    simp only [mset]
    split
    · simp [mget, h.symm]
    · split
      · subst k; simp [mget, h.symm]
      · simp [mget, ih]

theorem mget_mset (m : Map α) (j k : Nat) (v : α) : mget (mset m k v) j = if j = k then some v else mget m j := by
  split
  · subst j; simp
  · exact mget_mset_other m v ‹_›

theorem mget_mdel (m : Map α) (j k : Nat) : mget (mdel m k) j = if j = k then none else mget m j := by
  induction m with
  | nil => simp [mdel]
  | cons p m ih =>
    obtain ⟨i, w⟩ := p
    simp only [mdel] at ih ⊢
    by_cases hi : i = k
    · subst i
      by_cases hj : j = k
      · subst hj; simpa using ih
      · simp only [bne_self_eq_false, Bool.false_eq_true, not_false_eq_true, List.filter_cons_of_neg, if_neg hj] at ih ⊢
        simp [mget, Ne.symm hj, ih]
    · have hb : (i != k) = true := by simp [hi]
      rw [List.filter_cons_of_pos (by simpa using hb)]
      by_cases hj : i = j
      · subst hj; simp [mget, hi]
      · simp [mget, hj, ih]

@[simp] theorem mget_mdel_same (m : Map α) (k : Nat) : mget (mdel m k) k = none := by simp [mget_mdel]

/-- A key of a map with one put in is that key or an old one. -/
theorem mem_mset {m : Map α} {k : Nat} {v : α} {p : Nat × α} (h : p ∈ mset m k v) : p = (k, v) ∨ p ∈ m := by
  induction m with
  | nil => simpa [mset] using h
  | cons q m ih =>
    obtain ⟨j, w⟩ := q
    simp only [mset] at h
    split at h
    · simpa using h
    · split at h
      · rcases List.mem_cons.1 h with h | h
        · exact .inl h
        · exact .inr (List.mem_cons_of_mem _ h)
      · rcases List.mem_cons.1 h with h | h
        · exact .inr (h ▸ List.mem_cons_self)
        · rcases ih h with h | h
          · exact .inl h
          · exact .inr (List.mem_cons_of_mem _ h)

theorem rising_mset {m : Map α} (h : Rising m) (k : Nat) (v : α) : Rising (mset m k v) := by
  induction m with
  | nil => simp [mset, Rising]
  | cons q m ih =>
    obtain ⟨j, w⟩ := q
    obtain ⟨h1, h2⟩ := List.pairwise_cons.1 h
    simp only [mset]
    split
    · refine List.pairwise_cons.2 ⟨fun p hp => ?_, h⟩
      rcases List.mem_cons.1 hp with rfl | hp
      · assumption
      · exact Nat.lt_trans ‹_› (h1 p hp)
    · split
      · subst k; exact List.pairwise_cons.2 ⟨h1, h2⟩
      · refine List.pairwise_cons.2 ⟨fun p hp => ?_, ih h2⟩
        rcases mem_mset hp with rfl | hp
        · show j < k; omega
        · exact h1 p hp

theorem rising_filter {m : Map α} (h : Rising m) (p : Nat × α → Bool) : Rising (m.filter p) := List.Pairwise.filter p h

theorem rising_mdel {m : Map α} (h : Rising m) (k : Nat) : Rising (mdel m k) := rising_filter h _

theorem mem_mdel {m : Map α} {k : Nat} {p : Nat × α} (h : p ∈ mdel m k) : p ∈ m := List.mem_of_mem_filter h

/-! ### Vectors -/

variable {n : Nat}

theorem vget_eq (v : Vector α n) (i : Nat) (d : α) (h : i < n) : vget v i d = v[i] := by simp [vget, h]

@[simp] theorem vget_vset_same (v : Vector α n) (i : Nat) (a d : α) (h : i < n) : vget (vset v i a) i d = a := by
  simp [vget, vset, h]

theorem vget_vset_other (v : Vector α n) {i j : Nat} (a d : α) (h : j ≠ i) : vget (vset v i a) j d = vget v j d := by
  simp [vget, vset, h.symm]

end Sys2Proof
end

