-- ==== Sys2Proof/Laws/Memory.lean ====
section
/-! SUPPORT. Laws of memory: every operation keeps the canonical form; a read after a write; what a write leaves alone. -/

namespace Sys2Proof

/-! ### Bytes of numbers -/

@[simp] theorem length_bytesOf (n v : Nat) : (bytesOf n v).length = n := by simp [bytesOf]

theorem bytesOf_succ (n v : Nat) : bytesOf (n + 1) v = byteOf v 0 :: bytesOf n (v / 256) := by
  simp only [bytesOf, List.range_succ_eq_map, List.map_cons, List.map_map]
  congr 1
  apply List.map_congr_left
  intro i _
  simp [byteOf, Nat.div_div_eq_div_mul, Nat.pow_succ, Nat.mul_comm]

/-- A number written as n bytes is read back modulo 256^n. -/
theorem natOfBytes_bytesOf (n : Nat) : ∀ v, natOfBytes (bytesOf n v) = v % 256 ^ n := by
  induction n with
  | zero => intro v; simp [bytesOf, natOfBytes, Nat.mod_one]
  | succ n ih =>
    intro v
    rw [bytesOf_succ, natOfBytes, ih, Nat.pow_succ, Nat.mul_comm (256 ^ n), Nat.mod_mul]
    simp [byteOf]

theorem natOfBytes_lt (bs : List Byte) : natOfBytes bs < 256 ^ bs.length := by
  induction bs with
  | nil => simp [natOfBytes]
  | cons b bs ih =>
    have := b.isLt
    simp only [natOfBytes, List.length_cons, Nat.pow_succ]; omega

end Sys2Proof

namespace Sys2Proof.Machine

/-! ### The canonical form -/

theorem Memory.wf_zero : Memory.zero.wf := by simp [Memory.wf, Memory.zero, Rising]

theorem rising_setByte {bs : List Host.Cell} (h : Rising bs) (pa : Nat) (b : Byte) : Rising (setByte bs pa b) := by
  unfold setByte; split
  · exact rising_mdel h pa
  · exact rising_mset h pa b

theorem nonzero_setByte {bs : List Host.Cell} (h : ∀ c ∈ bs, c.2 ≠ 0) (pa : Nat) (b : Byte) :
    ∀ c ∈ setByte bs pa b, c.2 ≠ 0 := by
  unfold setByte; intro c hc; split at hc
  · exact h c (mem_mdel hc)
  · rcases mem_mset hc with rfl | hc
    · assumption
    · exact h c hc

theorem Memory.wf_rekey {m : Memory} (h : m.wf) (key blk : Nat) : (m.rekey key blk).wf := by
  obtain ⟨h1, h2, h3, h4, h5⟩ := h
  have hb : ∀ (l : List Nat) (bs : List Host.Cell), Rising bs ∧ (∀ c ∈ bs, c.2 ≠ 0) →
      let r := l.foldl (fun bs i => setByte bs (64 * blk + i) (m.read key (64 * blk + i))) bs
      Rising r ∧ ∀ c ∈ r, c.2 ≠ 0 := by
    intro l
    induction l with
    | nil => exact fun _ h => h
    | cons i l ih => exact fun bs h => ih _ ⟨rising_setByte h.1 _ _, nonzero_setByte h.2 _ _⟩
  obtain ⟨a, b⟩ := hb (List.range 64) m.bytes ⟨h1, h2⟩
  refine ⟨a, b, h3, ?_, ?_⟩ <;> simp only [Memory.rekey]
  · split
    · exact rising_mdel h4 _
    · exact rising_mset h4 _ _
  · intro c hc; split at hc
    · exact h5 c (mem_mdel hc)
    · rcases mem_mset hc with rfl | hc
      · assumption
      · exact h5 c hc

theorem Memory.wf_put {m : Memory} (h : m.wf) (pa : Nat) (b : Byte) : (m.put pa b).wf := by
  obtain ⟨h1, h2, h3, h4, h5⟩ := h
  exact ⟨rising_setByte h1 pa b, nonzero_setByte h2 pa b, rising_mdel h3 _, h4, h5⟩

theorem Memory.wf_write {m : Memory} (h : m.wf) (key pa : Nat) (b : Byte) : (m.write key pa b).wf := by
  unfold Memory.write; split
  · exact Memory.wf_put h pa b
  · exact Memory.wf_put (Memory.wf_rekey h key _) pa b

theorem Memory.wf_writes (bs : List Byte) : ∀ {m : Memory}, m.wf → ∀ key pa, (m.writes key pa bs).wf := by
  induction bs with
  | nil => exact fun h _ _ => h
  | cons b bs ih => exact fun h key pa => ih (Memory.wf_write h key pa b) key (pa + 1)

theorem Memory.wf_setTag {m : Memory} (h : m.wf) (pa : Nat) (t : Bool) : (m.setTag pa t).wf := by
  obtain ⟨h1, h2, h3, h4, h5⟩ := h
  refine ⟨h1, h2, ?_, h4, h5⟩
  simp only [Memory.setTag]; split
  · exact rising_mset h3 _ ()
  · exact rising_mdel h3 _

theorem wf_writeSegsTo (s : State) (segs : List Seg) :
    ∀ {m : Memory}, m.wf → ∀ bs, (writeSegsTo s m segs bs).wf := by
  induction segs with
  | nil => exact fun h _ => h
  | cons g gs ih => exact fun h bs => ih (Memory.wf_writes _ h _ _) _

theorem State.wf_writeSegs {s : State} (h : s.mem.wf) (segs : List Seg) (bs : List Byte) : (s.writeSegs segs bs).mem.wf :=
  wf_writeSegsTo s segs h bs

theorem wf_carryTags (old : Memory) (src dst k : Nat) : ∀ {m : Memory}, m.wf → (carryTags old src dst k m).wf := by
  induction k with
  | zero => exact fun h => h
  | succ k ih => exact fun h => Memory.wf_setTag (ih h) _ _

theorem rising_copyRange {α : Type} (b : Map α) {m : Map α} (h : Rising m) (old new n : Nat) : Rising (copyRange b m old new n) := by
  unfold copyRange
  generalize b.filter (fun p => decide (old ≤ p.1) && decide (p.1 < old + n)) = l
  have h0 : Rising (m.filter fun p => !(decide (new ≤ p.1) && decide (p.1 < new + n))) := rising_filter h _
  revert h0
  generalize (m.filter fun p => !(decide (new ≤ p.1) && decide (p.1 < new + n))) = a
  intro h0
  induction l generalizing a with
  | nil => exact h0
  | cons p l ih => exact ih _ (rising_mset h0 _ _)

theorem mem_copyRange {α : Type} {b m : Map α} {old new n : Nat} {c : Nat × α} (h : c ∈ copyRange b m old new n) :
    ∃ p, (p ∈ b ∨ p ∈ m) ∧ p.2 = c.2 := by
  unfold copyRange at h
  have hl : ∀ p ∈ b.filter (fun p => decide (old ≤ p.1) && decide (p.1 < old + n)), p ∈ b :=
    fun p hp => List.mem_of_mem_filter hp
  have ha : ∀ p ∈ m.filter (fun p => !(decide (new ≤ p.1) && decide (p.1 < new + n))), ∃ q, (q ∈ b ∨ q ∈ m) ∧ q.2 = p.2 :=
    fun p hp => ⟨p, .inr (List.mem_of_mem_filter hp), rfl⟩
  revert h hl ha
  generalize b.filter (fun p => decide (old ≤ p.1) && decide (p.1 < old + n)) = l
  generalize m.filter (fun p => !(decide (new ≤ p.1) && decide (p.1 < new + n))) = a
  intro h hl ha
  induction l generalizing a with
  | nil => exact ha c h
  | cons p l ih =>
    refine ih _ h (fun q hq => hl q (List.mem_cons_of_mem _ hq)) fun q hq => ?_
    rcases mem_mset hq with rfl | hq
    · exact ⟨p, .inl (hl p List.mem_cons_self), rfl⟩
    · exact ha q hq

theorem Memory.wf_rekeyRange {m : Memory} (h : m.wf) (key pa n : Nat) : (m.rekeyRange key pa n).wf := by
  unfold Memory.rekeyRange
  generalize List.range (n / 64) = l
  induction l generalizing m with
  | nil => exact h
  | cons i l ih => exact ih (by dsimp only; split; exacts [h, Memory.wf_rekey h _ _])

theorem Memory.wf_movePage {m : Memory} (h : m.wf) (key old new n : Nat) : (m.movePage key old new n).wf := by
  obtain ⟨-, a2, -, -, a5⟩ := Memory.wf_rekeyRange h key old n
  obtain ⟨h1, h2, h3, h4, h5⟩ := h
  refine ⟨rising_copyRange _ h1 _ _ _, ?_, rising_copyRange _ h3 _ _ _, rising_copyRange _ h4 _ _ _, ?_⟩
  · intro c hc; obtain ⟨p, hp | hp, e⟩ := mem_copyRange hc
    · exact e ▸ a2 p hp
    · exact e ▸ h2 p hp
  · intro c hc; obtain ⟨p, hp | hp, e⟩ := mem_copyRange hc
    · exact e ▸ a5 p hp
    · exact e ▸ h5 p hp

theorem Memory.wf_without {m : Memory} (h : m.wf) (gone : Nat → Bool) : (m.without gone).wf := by
  obtain ⟨h1, h2, h3, h4, h5⟩ := h
  exact ⟨rising_filter h1 _, fun c hc => h2 c (List.mem_of_mem_filter hc), rising_filter h3 _, rising_filter h4 _,
    fun c hc => h5 c (List.mem_of_mem_filter hc)⟩

/-- What is dropped reads as if nothing had written it; the rest stays. -/
theorem Memory.get_without (m : Memory) (gone : Nat → Bool) (a : Nat) :
    (m.without gone).get a = if gone a then 0 else m.get a := by
  simp only [Memory.get, Memory.without]
  induction m.bytes with
  | nil => simp [mget]
  | cons p l ih =>
    by_cases g : gone p.1 <;> by_cases e : p.1 = a <;> simp_all [List.filter, mget]

/-! ### Reads after writes -/

theorem mget_setByte (bs : List Host.Cell) (pa a : Nat) (b : Byte) :
    (mget (setByte bs pa b) a).getD 0 = if a = pa then b else (mget bs a).getD 0 := by
  unfold setByte; split <;> rename_i hb
  · subst hb; rw [mget_mdel]; split <;> rfl
  · rw [mget_mset]; split <;> rfl

theorem foldl_setByte (f : Nat → Byte) (lo a : Nat) : ∀ (l : List Nat) (bs : List Host.Cell), l.Nodup →
    (mget (l.foldl (fun bs i => setByte bs (lo + i) (f (lo + i))) bs) a).getD 0 =
      if lo ≤ a ∧ a - lo ∈ l then f a else (mget bs a).getD 0 := by
  intro l
  induction l with
  | nil => intro bs _; simp
  | cons i l ih =>
    intro bs h
    obtain ⟨hi, hl⟩ := List.nodup_cons.1 h
    rw [List.foldl_cons, ih _ hl, mget_setByte]
    by_cases e : a = lo + i
    · subst e; simp [hi]
    · have : ¬(lo ≤ a ∧ a - lo = i) := by omega
      by_cases g : lo ≤ a ∧ a - lo ∈ l
      · rw [if_pos g, if_pos ⟨g.1, List.mem_cons_of_mem _ g.2⟩]
      · rw [if_neg g, if_neg e, if_neg]
        rintro ⟨g1, g2⟩
        rcases List.mem_cons.1 g2 with g2 | g2
        · exact this ⟨g1, g2⟩
        · exact g ⟨g1, g2⟩

/-- A byte after its block, or another, has been written under another key. -/
theorem Memory.get_rekey (m : Memory) (key blk a : Nat) :
    (m.rekey key blk).get a = if a / 64 = blk then m.read key a else m.get a := by
  have h := foldl_setByte (m.read key) (64 * blk) a (List.range 64) m.bytes List.nodup_range
  simp only [Memory.get, Memory.rekey, h, List.mem_range]
  congr 1
  apply propext; omega

theorem Memory.keyAt_rekey (m : Memory) (key blk a : Nat) :
    (m.rekey key blk).keyAt a = if a / 64 = blk then key else m.keyAt a := by
  simp only [Memory.keyAt, Memory.rekey]
  split
  · rename_i h; subst h; rw [mget_mdel]; split <;> simp_all
  · rw [mget_mset]; split <;> simp_all

@[simp] theorem Memory.get_put (m : Memory) (pa a : Nat) (b : Byte) : (m.put pa b).get a = if a = pa then b else m.get a :=
  mget_setByte m.bytes pa a b

@[simp] theorem Memory.keyAt_put (m : Memory) (pa a : Nat) (b : Byte) : (m.put pa b).keyAt a = m.keyAt a := rfl

@[simp] theorem Memory.tags_rekey (m : Memory) (key blk : Nat) : (m.rekey key blk).tags = m.tags := rfl

/-- A read with the key of the write gives the byte written. -/
theorem Memory.read_write_same (m : Memory) (key pa : Nat) (b : Byte) : (m.write key pa b).read key pa = b := by
  unfold Memory.write
  split
  · rename_i h; simp [Memory.read, h]
  · simp [Memory.read, Memory.keyAt_rekey]

/-- A read with this key of a byte outside a write at pa goes on as before: the key is the write's, or the byte's block is
another or is not encrypted (10 R162). -/
abbrev keeps (key pa k a : Nat) : Prop := k = key ∨ encryptedEnd ≤ a ∨ a / 64 ≠ pa / 64

/-- Another block stays as it was written. -/
theorem Memory.block_put (m : Memory) {pa a : Nat} (b : Byte) (h : a / 64 ≠ pa / 64) : (m.put pa b).block a = m.block a := by
  refine List.map_congr_left fun i hi => ?_
  have := List.mem_range.1 hi
  rw [Memory.get_put, if_neg (by omega)]

theorem Memory.block_rekey (m : Memory) (key : Nat) {blk a : Nat} (h : a / 64 ≠ blk) : (m.rekey key blk).block a = m.block a := by
  refine List.map_congr_left fun i hi => ?_
  have := List.mem_range.1 hi
  rw [Memory.get_rekey, if_neg (by omega)]

/-- A write leaves every other address as a key reads it that keeps. -/
theorem Memory.read_write_other (m : Memory) {key pa a : Nat} (b : Byte) (k : Nat) (h : a ≠ pa) (hk : keeps key pa k a) :
    (m.write key pa b).read k a = m.read k a := by
  by_cases e : a / 64 = pa / 64
  · have hp : m.keyAt a = m.keyAt pa := by simp only [Memory.keyAt, e]
    have hlt : encryptedEnd ≤ a ↔ encryptedEnd ≤ pa := by simp only [encryptedEnd]; omega
    unfold Memory.write
    split <;> rename_i hw <;>
      simp only [Memory.read, Memory.keyAt_put, Memory.get_put, if_neg h, Memory.keyAt_rekey, Memory.get_rekey, if_pos e]
    · by_cases g : encryptedEnd ≤ a
      · simp [g]
      · have : m.keyAt a = k := by
          rcases hk with rfl | hk | hk
          · exact hp.trans (hw.resolve_right (mt hlt.2 g))
          · exact absurd hk g
          · exact absurd e hk
        simp [this]
    · have g : ¬encryptedEnd ≤ a := fun g => hw (.inr (hlt.1 g))
      rcases hk with rfl | hk | hk
      · simp
      · exact absurd hk g
      · exact absurd e hk
  · unfold Memory.write
    split <;> simp only [Memory.read, Memory.keyAt_put, Memory.get_put, if_neg h, Memory.keyAt_rekey, Memory.get_rekey, if_neg e,
      Memory.block_put _ _ e, Memory.block_rekey _ _ e]

theorem Memory.read_writes_outside (bs : List Byte) : ∀ (m : Memory) (key pa k a : Nat), a < pa ∨ pa + bs.length ≤ a →
    (k = key ∨ encryptedEnd ≤ a ∨ ∀ i, i < bs.length → a / 64 ≠ (pa + i) / 64) →
    (m.writes key pa bs).read k a = m.read k a := by
  induction bs with
  | nil => intros; rfl
  | cons b bs ih =>
    intro m key pa k a h hk
    simp only [List.length_cons] at h hk
    simp only [Memory.writes]
    have h0 : keeps key pa k a := by
      rcases hk with hk | hk | hk
      · exact .inl hk
      · exact .inr (.inl hk)
      · exact .inr (.inr (hk 0 (by omega)))
    rw [ih _ _ _ _ _ (by omega) ?_, Memory.read_write_other _ _ _ (by omega) h0]
    rcases hk with hk | hk | hk
    · exact .inl hk
    · exact .inr (.inl hk)
    · refine .inr (.inr fun i hi => ?_)
      rw [show pa + 1 + i = pa + (i + 1) by omega]; exact hk (i + 1) (by omega)

theorem Memory.read_writes_inside (bs : List Byte) : ∀ (m : Memory) (key pa i : Nat) (h : i < bs.length),
    (m.writes key pa bs).read key (pa + i) = bs[i] := by
  induction bs with
  | nil => intro _ _ _ _ h; simp at h
  | cons b bs ih =>
    intro m key pa i h
    simp only [Memory.writes]
    cases i with
    | zero => rw [Memory.read_writes_outside _ _ _ _ _ _ (by omega) (.inl rfl)]; exact Memory.read_write_same m key pa b
    | succ i => rw [show pa + (i + 1) = pa + 1 + i by omega, ih _ _ _ _ (by simpa using h)]; rfl

/-- The bytes written are read back with the key of the write. -/
theorem Memory.reads_writes (m : Memory) (key pa : Nat) (bs : List Byte) :
    (m.writes key pa bs).reads key pa bs.length = bs := by
  apply List.ext_getElem
  · simp [Memory.reads]
  · intro i h1 h2; simp [Memory.reads, Memory.read_writes_inside bs m key pa i h2]

/-- A write clears the tag of its granule and leaves the other tags. -/
theorem Memory.tag_write (m : Memory) (key pa a : Nat) (b : Byte) :
    (m.write key pa b).tag a = (decide (pa / 16 ≠ a / 16) && m.tag a) := by
  have ht : (m.write key pa b).tags = mdel m.tags (pa / 16) := by unfold Memory.write; split <;> rfl
  simp only [Memory.tag, ht, mget_mdel]
  by_cases h : pa / 16 = a / 16 <;> simp [h, eq_comm]

theorem Memory.tag_writes (bs : List Byte) : ∀ (m : Memory) (key pa a : Nat),
    (m.writes key pa bs).tag a = (decide (∀ i, i < bs.length → (pa + i) / 16 ≠ a / 16) && m.tag a) := by
  induction bs with
  | nil => intros; simp [Memory.writes]
  | cons b bs ih =>
    intro m key pa a
    simp only [Memory.writes]
    rw [ih, Memory.tag_write, ← Bool.and_assoc]
    congr 1
    rw [← Bool.decide_and]
    apply decide_eq_decide.2
    constructor
    · rintro ⟨h1, h2⟩ i hi
      cases i with
      | zero => exact h2
      | succ i => rw [show pa + (i + 1) = pa + 1 + i by omega]; exact h1 i (by simpa using hi)
    · intro h
      refine ⟨fun i hi => ?_, h 0 (by simp)⟩
      rw [show pa + 1 + i = pa + (i + 1) by omega]; exact h (i + 1) (by simpa using hi)

@[simp] theorem State.writeSegs_nil (s : State) (bs : List Byte) : s.writeSegs [] bs = s := rfl

theorem State.writeSegs_one (s : State) (g : Seg) (bs : List Byte) (h : bs.length ≤ g.len) :
    s.writeSegs [g] bs = { s with mem := s.mem.writes g.key (s.canon g.pa) bs } := by
  simp [State.writeSegs, writeSegsTo, List.take_of_length_le h]

end Sys2Proof.Machine
end

