-- ==== Sys2Proof/Laws/State.lean ====
section
/-! SUPPORT. What each named update of the state leaves as it was, field by field, and what it puts where it writes. -/

namespace Sys2Proof.Machine

/-! ### State.issuedTo -/

@[simp] theorem State.issuedTo_slots (s : State) (pc : BitVec 48) : (s.issuedTo pc).slots = s.slots := rfl
@[simp] theorem State.issuedTo_cores (s : State) (pc : BitVec 48) : (s.issuedTo pc).cores = s.cores := rfl
@[simp] theorem State.issuedTo_ir (s : State) (pc : BitVec 48) : (s.issuedTo pc).ir = s.ir := rfl
@[simp] theorem State.issuedTo_agenda (s : State) (pc : BitVec 48) : (s.issuedTo pc).agenda = s.agenda := rfl
@[simp] theorem State.issuedTo_nextOp (s : State) (pc : BitVec 48) : (s.issuedTo pc).nextOp = s.nextOp := rfl
@[simp] theorem State.issuedTo_time (s : State) (pc : BitVec 48) : (s.issuedTo pc).time = s.time := rfl
@[simp] theorem State.issuedTo_mem (s : State) (pc : BitVec 48) : (s.issuedTo pc).mem = s.mem := rfl
@[simp] theorem State.issuedTo_objects (s : State) (pc : BitVec 48) : (s.issuedTo pc).objects = s.objects := rfl
@[simp] theorem State.issuedTo_tlb (s : State) (pc : BitVec 48) : (s.issuedTo pc).tlb = s.tlb := rfl
@[simp] theorem State.issuedTo_moves (s : State) (pc : BitVec 48) : (s.issuedTo pc).moves = s.moves := rfl
@[simp] theorem State.issuedTo_spills (s : State) (pc : BitVec 48) : (s.issuedTo pc).spills = s.spills := rfl
@[simp] theorem State.issuedTo_launches (s : State) (pc : BitVec 48) : (s.issuedTo pc).launches = s.launches := rfl
@[simp] theorem State.issuedTo_waiting (s : State) (pc : BitVec 48) : (s.issuedTo pc).waiting = s.waiting := rfl
@[simp] theorem State.issuedTo_queues (s : State) (pc : BitVec 48) : (s.issuedTo pc).queues = s.queues := rfl
@[simp] theorem State.issuedTo_stamp (s : State) (pc : BitVec 48) : (s.issuedTo pc).stamp = s.stamp := rfl
@[simp] theorem State.issuedTo_guards (s : State) (pc : BitVec 48) : (s.issuedTo pc).guards = s.guards := rfl
@[simp] theorem State.issuedTo_joins (s : State) (pc : BitVec 48) : (s.issuedTo pc).joins = s.joins := rfl
@[simp] theorem State.issuedTo_orphans (s : State) (pc : BitVec 48) : (s.issuedTo pc).orphans = s.orphans := rfl
@[simp] theorem State.issuedTo_braids (s : State) (pc : BitVec 48) : (s.issuedTo pc).braids = s.braids := rfl
@[simp] theorem State.issuedTo_gone (s : State) (pc : BitVec 48) : (s.issuedTo pc).gone = s.gone := rfl
@[simp] theorem State.issuedTo_pushes (s : State) (pc : BitVec 48) : (s.issuedTo pc).pushes = s.pushes := rfl
@[simp] theorem State.issuedTo_jobs (s : State) (pc : BitVec 48) : (s.issuedTo pc).jobs = s.jobs := rfl
@[simp] theorem State.issuedTo_pipes (s : State) (pc : BitVec 48) : (s.issuedTo pc).pipes = s.pipes := rfl
@[simp] theorem State.issuedTo_kvBufs (s : State) (pc : BitVec 48) : (s.issuedTo pc).kvBufs = s.kvBufs := rfl
@[simp] theorem State.issuedTo_freed (s : State) (pc : BitVec 48) : (s.issuedTo pc).freed = s.freed := rfl
@[simp] theorem State.issuedTo_ifaces (s : State) (pc : BitVec 48) : (s.issuedTo pc).ifaces = s.ifaces := rfl
@[simp] theorem State.issuedTo_module (s : State) (pc : BitVec 48) : (s.issuedTo pc).module = s.module := rfl

/-! ### State.issued -/

@[simp] theorem State.issued_slots (s : State) : (s.issued).slots = s.slots := rfl
@[simp] theorem State.issued_cores (s : State) : (s.issued).cores = s.cores := rfl
@[simp] theorem State.issued_ir (s : State) : (s.issued).ir = s.ir := rfl
@[simp] theorem State.issued_agenda (s : State) : (s.issued).agenda = s.agenda := rfl
@[simp] theorem State.issued_nextOp (s : State) : (s.issued).nextOp = s.nextOp := rfl
@[simp] theorem State.issued_time (s : State) : (s.issued).time = s.time := rfl
@[simp] theorem State.issued_mem (s : State) : (s.issued).mem = s.mem := rfl
@[simp] theorem State.issued_objects (s : State) : (s.issued).objects = s.objects := rfl
@[simp] theorem State.issued_tlb (s : State) : (s.issued).tlb = s.tlb := rfl
@[simp] theorem State.issued_moves (s : State) : (s.issued).moves = s.moves := rfl
@[simp] theorem State.issued_spills (s : State) : (s.issued).spills = s.spills := rfl
@[simp] theorem State.issued_launches (s : State) : (s.issued).launches = s.launches := rfl
@[simp] theorem State.issued_waiting (s : State) : (s.issued).waiting = s.waiting := rfl
@[simp] theorem State.issued_queues (s : State) : (s.issued).queues = s.queues := rfl
@[simp] theorem State.issued_stamp (s : State) : (s.issued).stamp = s.stamp := rfl
@[simp] theorem State.issued_guards (s : State) : (s.issued).guards = s.guards := rfl
@[simp] theorem State.issued_joins (s : State) : (s.issued).joins = s.joins := rfl
@[simp] theorem State.issued_orphans (s : State) : (s.issued).orphans = s.orphans := rfl
@[simp] theorem State.issued_braids (s : State) : (s.issued).braids = s.braids := rfl
@[simp] theorem State.issued_gone (s : State) : (s.issued).gone = s.gone := rfl
@[simp] theorem State.issued_pushes (s : State) : (s.issued).pushes = s.pushes := rfl
@[simp] theorem State.issued_jobs (s : State) : (s.issued).jobs = s.jobs := rfl
@[simp] theorem State.issued_pipes (s : State) : (s.issued).pipes = s.pipes := rfl
@[simp] theorem State.issued_kvBufs (s : State) : (s.issued).kvBufs = s.kvBufs := rfl
@[simp] theorem State.issued_freed (s : State) : (s.issued).freed = s.freed := rfl
@[simp] theorem State.issued_ifaces (s : State) : (s.issued).ifaces = s.ifaces := rfl
@[simp] theorem State.issued_module (s : State) : (s.issued).module = s.module := rfl

/-! ### State.produce -/

@[simp] theorem State.produce_slots (s : State) (n : Nat) (w : RegWrite) (p : Bool) : (s.produce n w p).slots = s.slots := rfl
@[simp] theorem State.produce_cores (s : State) (n : Nat) (w : RegWrite) (p : Bool) : (s.produce n w p).cores = s.cores := rfl
@[simp] theorem State.produce_ir (s : State) (n : Nat) (w : RegWrite) (p : Bool) : (s.produce n w p).ir = s.ir := rfl
@[simp] theorem State.produce_agenda (s : State) (n : Nat) (w : RegWrite) (p : Bool) : (s.produce n w p).agenda = s.agenda := rfl
@[simp] theorem State.produce_nextOp (s : State) (n : Nat) (w : RegWrite) (p : Bool) : (s.produce n w p).nextOp = s.nextOp := rfl
@[simp] theorem State.produce_time (s : State) (n : Nat) (w : RegWrite) (p : Bool) : (s.produce n w p).time = s.time := rfl
@[simp] theorem State.produce_mem (s : State) (n : Nat) (w : RegWrite) (p : Bool) : (s.produce n w p).mem = s.mem := rfl
@[simp] theorem State.produce_objects (s : State) (n : Nat) (w : RegWrite) (p : Bool) : (s.produce n w p).objects = s.objects := rfl
@[simp] theorem State.produce_tlb (s : State) (n : Nat) (w : RegWrite) (p : Bool) : (s.produce n w p).tlb = s.tlb := rfl
@[simp] theorem State.produce_moves (s : State) (n : Nat) (w : RegWrite) (p : Bool) : (s.produce n w p).moves = s.moves := rfl
@[simp] theorem State.produce_spills (s : State) (n : Nat) (w : RegWrite) (p : Bool) : (s.produce n w p).spills = s.spills := rfl
@[simp] theorem State.produce_launches (s : State) (n : Nat) (w : RegWrite) (p : Bool) : (s.produce n w p).launches = s.launches := rfl
@[simp] theorem State.produce_waiting (s : State) (n : Nat) (w : RegWrite) (p : Bool) : (s.produce n w p).waiting = s.waiting := rfl
@[simp] theorem State.produce_queues (s : State) (n : Nat) (w : RegWrite) (p : Bool) : (s.produce n w p).queues = s.queues := rfl
@[simp] theorem State.produce_stamp (s : State) (n : Nat) (w : RegWrite) (p : Bool) : (s.produce n w p).stamp = s.stamp := rfl
@[simp] theorem State.produce_guards (s : State) (n : Nat) (w : RegWrite) (p : Bool) : (s.produce n w p).guards = s.guards := rfl
@[simp] theorem State.produce_joins (s : State) (n : Nat) (w : RegWrite) (p : Bool) : (s.produce n w p).joins = s.joins := rfl
@[simp] theorem State.produce_orphans (s : State) (n : Nat) (w : RegWrite) (p : Bool) : (s.produce n w p).orphans = s.orphans := rfl
@[simp] theorem State.produce_braids (s : State) (n : Nat) (w : RegWrite) (p : Bool) : (s.produce n w p).braids = s.braids := rfl
@[simp] theorem State.produce_gone (s : State) (n : Nat) (w : RegWrite) (p : Bool) : (s.produce n w p).gone = s.gone := rfl
@[simp] theorem State.produce_pushes (s : State) (n : Nat) (w : RegWrite) (p : Bool) : (s.produce n w p).pushes = s.pushes := rfl
@[simp] theorem State.produce_jobs (s : State) (n : Nat) (w : RegWrite) (p : Bool) : (s.produce n w p).jobs = s.jobs := rfl
@[simp] theorem State.produce_pipes (s : State) (n : Nat) (w : RegWrite) (p : Bool) : (s.produce n w p).pipes = s.pipes := rfl
@[simp] theorem State.produce_kvBufs (s : State) (n : Nat) (w : RegWrite) (p : Bool) : (s.produce n w p).kvBufs = s.kvBufs := rfl
@[simp] theorem State.produce_freed (s : State) (n : Nat) (w : RegWrite) (p : Bool) : (s.produce n w p).freed = s.freed := rfl
@[simp] theorem State.produce_ifaces (s : State) (n : Nat) (w : RegWrite) (p : Bool) : (s.produce n w p).ifaces = s.ifaces := rfl
@[simp] theorem State.produce_module (s : State) (n : Nat) (w : RegWrite) (p : Bool) : (s.produce n w p).module = s.module := rfl

/-! ### State.produceX -/

@[simp] theorem State.produceX_slots (s : State) (n : Nat) (d : BitVec 6) (v : XWord) : (s.produceX n d v).slots = s.slots := rfl
@[simp] theorem State.produceX_cores (s : State) (n : Nat) (d : BitVec 6) (v : XWord) : (s.produceX n d v).cores = s.cores := rfl
@[simp] theorem State.produceX_ir (s : State) (n : Nat) (d : BitVec 6) (v : XWord) : (s.produceX n d v).ir = s.ir := rfl
@[simp] theorem State.produceX_agenda (s : State) (n : Nat) (d : BitVec 6) (v : XWord) : (s.produceX n d v).agenda = s.agenda := rfl
@[simp] theorem State.produceX_nextOp (s : State) (n : Nat) (d : BitVec 6) (v : XWord) : (s.produceX n d v).nextOp = s.nextOp := rfl
@[simp] theorem State.produceX_time (s : State) (n : Nat) (d : BitVec 6) (v : XWord) : (s.produceX n d v).time = s.time := rfl
@[simp] theorem State.produceX_mem (s : State) (n : Nat) (d : BitVec 6) (v : XWord) : (s.produceX n d v).mem = s.mem := rfl
@[simp] theorem State.produceX_objects (s : State) (n : Nat) (d : BitVec 6) (v : XWord) : (s.produceX n d v).objects = s.objects := rfl
@[simp] theorem State.produceX_tlb (s : State) (n : Nat) (d : BitVec 6) (v : XWord) : (s.produceX n d v).tlb = s.tlb := rfl
@[simp] theorem State.produceX_moves (s : State) (n : Nat) (d : BitVec 6) (v : XWord) : (s.produceX n d v).moves = s.moves := rfl
@[simp] theorem State.produceX_spills (s : State) (n : Nat) (d : BitVec 6) (v : XWord) : (s.produceX n d v).spills = s.spills := rfl
@[simp] theorem State.produceX_launches (s : State) (n : Nat) (d : BitVec 6) (v : XWord) : (s.produceX n d v).launches = s.launches := rfl
@[simp] theorem State.produceX_waiting (s : State) (n : Nat) (d : BitVec 6) (v : XWord) : (s.produceX n d v).waiting = s.waiting := rfl
@[simp] theorem State.produceX_queues (s : State) (n : Nat) (d : BitVec 6) (v : XWord) : (s.produceX n d v).queues = s.queues := rfl
@[simp] theorem State.produceX_stamp (s : State) (n : Nat) (d : BitVec 6) (v : XWord) : (s.produceX n d v).stamp = s.stamp := rfl
@[simp] theorem State.produceX_guards (s : State) (n : Nat) (d : BitVec 6) (v : XWord) : (s.produceX n d v).guards = s.guards := rfl
@[simp] theorem State.produceX_joins (s : State) (n : Nat) (d : BitVec 6) (v : XWord) : (s.produceX n d v).joins = s.joins := rfl
@[simp] theorem State.produceX_orphans (s : State) (n : Nat) (d : BitVec 6) (v : XWord) : (s.produceX n d v).orphans = s.orphans := rfl
@[simp] theorem State.produceX_braids (s : State) (n : Nat) (d : BitVec 6) (v : XWord) : (s.produceX n d v).braids = s.braids := rfl
@[simp] theorem State.produceX_gone (s : State) (n : Nat) (d : BitVec 6) (v : XWord) : (s.produceX n d v).gone = s.gone := rfl
@[simp] theorem State.produceX_pushes (s : State) (n : Nat) (d : BitVec 6) (v : XWord) : (s.produceX n d v).pushes = s.pushes := rfl
@[simp] theorem State.produceX_jobs (s : State) (n : Nat) (d : BitVec 6) (v : XWord) : (s.produceX n d v).jobs = s.jobs := rfl
@[simp] theorem State.produceX_pipes (s : State) (n : Nat) (d : BitVec 6) (v : XWord) : (s.produceX n d v).pipes = s.pipes := rfl
@[simp] theorem State.produceX_kvBufs (s : State) (n : Nat) (d : BitVec 6) (v : XWord) : (s.produceX n d v).kvBufs = s.kvBufs := rfl
@[simp] theorem State.produceX_freed (s : State) (n : Nat) (d : BitVec 6) (v : XWord) : (s.produceX n d v).freed = s.freed := rfl
@[simp] theorem State.produceX_ifaces (s : State) (n : Nat) (d : BitVec 6) (v : XWord) : (s.produceX n d v).ifaces = s.ifaces := rfl
@[simp] theorem State.produceX_module (s : State) (n : Nat) (d : BitVec 6) (v : XWord) : (s.produceX n d v).module = s.module := rfl

/-! ### State.issueOp -/

@[simp] theorem State.issueOp_slots (s : State) (k : Cls) (t : Task) (sp : List (Nat × Nat × Bool)) : (s.issueOp k t sp).slots = s.slots := rfl
@[simp] theorem State.issueOp_cores (s : State) (k : Cls) (t : Task) (sp : List (Nat × Nat × Bool)) : (s.issueOp k t sp).cores = s.cores := rfl
@[simp] theorem State.issueOp_ir (s : State) (k : Cls) (t : Task) (sp : List (Nat × Nat × Bool)) : (s.issueOp k t sp).ir = s.ir := rfl
@[simp] theorem State.issueOp_agenda (s : State) (k : Cls) (t : Task) (sp : List (Nat × Nat × Bool)) : (s.issueOp k t sp).agenda = s.agenda := rfl
@[simp] theorem State.issueOp_time (s : State) (k : Cls) (t : Task) (sp : List (Nat × Nat × Bool)) : (s.issueOp k t sp).time = s.time := rfl
@[simp] theorem State.issueOp_mem (s : State) (k : Cls) (t : Task) (sp : List (Nat × Nat × Bool)) : (s.issueOp k t sp).mem = s.mem := rfl
@[simp] theorem State.issueOp_objects (s : State) (k : Cls) (t : Task) (sp : List (Nat × Nat × Bool)) : (s.issueOp k t sp).objects = s.objects := rfl
@[simp] theorem State.issueOp_tlb (s : State) (k : Cls) (t : Task) (sp : List (Nat × Nat × Bool)) : (s.issueOp k t sp).tlb = s.tlb := rfl
@[simp] theorem State.issueOp_moves (s : State) (k : Cls) (t : Task) (sp : List (Nat × Nat × Bool)) : (s.issueOp k t sp).moves = s.moves := rfl
@[simp] theorem State.issueOp_spills (s : State) (k : Cls) (t : Task) (sp : List (Nat × Nat × Bool)) : (s.issueOp k t sp).spills = s.spills := rfl
@[simp] theorem State.issueOp_launches (s : State) (k : Cls) (t : Task) (sp : List (Nat × Nat × Bool)) : (s.issueOp k t sp).launches = s.launches := rfl
@[simp] theorem State.issueOp_waiting (s : State) (k : Cls) (t : Task) (sp : List (Nat × Nat × Bool)) : (s.issueOp k t sp).waiting = s.waiting := rfl
@[simp] theorem State.issueOp_queues (s : State) (k : Cls) (t : Task) (sp : List (Nat × Nat × Bool)) : (s.issueOp k t sp).queues = s.queues := rfl
@[simp] theorem State.issueOp_stamp (s : State) (k : Cls) (t : Task) (sp : List (Nat × Nat × Bool)) : (s.issueOp k t sp).stamp = s.stamp := rfl
@[simp] theorem State.issueOp_guards (s : State) (k : Cls) (t : Task) (sp : List (Nat × Nat × Bool)) : (s.issueOp k t sp).guards = s.guards := rfl
@[simp] theorem State.issueOp_joins (s : State) (k : Cls) (t : Task) (sp : List (Nat × Nat × Bool)) : (s.issueOp k t sp).joins = s.joins := rfl
@[simp] theorem State.issueOp_orphans (s : State) (k : Cls) (t : Task) (sp : List (Nat × Nat × Bool)) : (s.issueOp k t sp).orphans = s.orphans := rfl
@[simp] theorem State.issueOp_braids (s : State) (k : Cls) (t : Task) (sp : List (Nat × Nat × Bool)) : (s.issueOp k t sp).braids = s.braids := rfl
@[simp] theorem State.issueOp_gone (s : State) (k : Cls) (t : Task) (sp : List (Nat × Nat × Bool)) : (s.issueOp k t sp).gone = s.gone := rfl
@[simp] theorem State.issueOp_pushes (s : State) (k : Cls) (t : Task) (sp : List (Nat × Nat × Bool)) : (s.issueOp k t sp).pushes = s.pushes := rfl
@[simp] theorem State.issueOp_jobs (s : State) (k : Cls) (t : Task) (sp : List (Nat × Nat × Bool)) : (s.issueOp k t sp).jobs = s.jobs := rfl
@[simp] theorem State.issueOp_pipes (s : State) (k : Cls) (t : Task) (sp : List (Nat × Nat × Bool)) : (s.issueOp k t sp).pipes = s.pipes := rfl
@[simp] theorem State.issueOp_kvBufs (s : State) (k : Cls) (t : Task) (sp : List (Nat × Nat × Bool)) : (s.issueOp k t sp).kvBufs = s.kvBufs := rfl
@[simp] theorem State.issueOp_freed (s : State) (k : Cls) (t : Task) (sp : List (Nat × Nat × Bool)) : (s.issueOp k t sp).freed = s.freed := rfl
@[simp] theorem State.issueOp_ifaces (s : State) (k : Cls) (t : Task) (sp : List (Nat × Nat × Bool)) : (s.issueOp k t sp).ifaces = s.ifaces := rfl
@[simp] theorem State.issueOp_module (s : State) (k : Cls) (t : Task) (sp : List (Nat × Nat × Bool)) : (s.issueOp k t sp).module = s.module := rfl

/-! ### State.issuedPark -/

@[simp] theorem State.issuedPark_slots (s : State) (b : Block) : (s.issuedPark b).slots = s.slots := rfl
@[simp] theorem State.issuedPark_cores (s : State) (b : Block) : (s.issuedPark b).cores = s.cores := rfl
@[simp] theorem State.issuedPark_ir (s : State) (b : Block) : (s.issuedPark b).ir = s.ir := rfl
@[simp] theorem State.issuedPark_agenda (s : State) (b : Block) : (s.issuedPark b).agenda = s.agenda := rfl
@[simp] theorem State.issuedPark_nextOp (s : State) (b : Block) : (s.issuedPark b).nextOp = s.nextOp := rfl
@[simp] theorem State.issuedPark_time (s : State) (b : Block) : (s.issuedPark b).time = s.time := rfl
@[simp] theorem State.issuedPark_mem (s : State) (b : Block) : (s.issuedPark b).mem = s.mem := rfl
@[simp] theorem State.issuedPark_objects (s : State) (b : Block) : (s.issuedPark b).objects = s.objects := rfl
@[simp] theorem State.issuedPark_tlb (s : State) (b : Block) : (s.issuedPark b).tlb = s.tlb := rfl
@[simp] theorem State.issuedPark_moves (s : State) (b : Block) : (s.issuedPark b).moves = s.moves := rfl
@[simp] theorem State.issuedPark_spills (s : State) (b : Block) : (s.issuedPark b).spills = s.spills := rfl
@[simp] theorem State.issuedPark_launches (s : State) (b : Block) : (s.issuedPark b).launches = s.launches := rfl
@[simp] theorem State.issuedPark_waiting (s : State) (b : Block) : (s.issuedPark b).waiting = s.waiting := rfl
@[simp] theorem State.issuedPark_queues (s : State) (b : Block) : (s.issuedPark b).queues = s.queues := rfl
@[simp] theorem State.issuedPark_stamp (s : State) (b : Block) : (s.issuedPark b).stamp = s.stamp := rfl
@[simp] theorem State.issuedPark_guards (s : State) (b : Block) : (s.issuedPark b).guards = s.guards := rfl
@[simp] theorem State.issuedPark_joins (s : State) (b : Block) : (s.issuedPark b).joins = s.joins := rfl
@[simp] theorem State.issuedPark_orphans (s : State) (b : Block) : (s.issuedPark b).orphans = s.orphans := rfl
@[simp] theorem State.issuedPark_braids (s : State) (b : Block) : (s.issuedPark b).braids = s.braids := rfl
@[simp] theorem State.issuedPark_gone (s : State) (b : Block) : (s.issuedPark b).gone = s.gone := rfl
@[simp] theorem State.issuedPark_pushes (s : State) (b : Block) : (s.issuedPark b).pushes = s.pushes := rfl
@[simp] theorem State.issuedPark_jobs (s : State) (b : Block) : (s.issuedPark b).jobs = s.jobs := rfl
@[simp] theorem State.issuedPark_pipes (s : State) (b : Block) : (s.issuedPark b).pipes = s.pipes := rfl
@[simp] theorem State.issuedPark_kvBufs (s : State) (b : Block) : (s.issuedPark b).kvBufs = s.kvBufs := rfl
@[simp] theorem State.issuedPark_freed (s : State) (b : Block) : (s.issuedPark b).freed = s.freed := rfl
@[simp] theorem State.issuedPark_ifaces (s : State) (b : Block) : (s.issuedPark b).ifaces = s.ifaces := rfl
@[simp] theorem State.issuedPark_module (s : State) (b : Block) : (s.issuedPark b).module = s.module := rfl

/-! ### State.parkMe -/

@[simp] theorem State.parkMe_core (s : State) (b : Block) : (s.parkMe b).core = s.core := rfl
@[simp] theorem State.parkMe_slots (s : State) (b : Block) : (s.parkMe b).slots = s.slots := rfl
@[simp] theorem State.parkMe_cores (s : State) (b : Block) : (s.parkMe b).cores = s.cores := rfl
@[simp] theorem State.parkMe_ir (s : State) (b : Block) : (s.parkMe b).ir = s.ir := rfl
@[simp] theorem State.parkMe_agenda (s : State) (b : Block) : (s.parkMe b).agenda = s.agenda := rfl
@[simp] theorem State.parkMe_nextOp (s : State) (b : Block) : (s.parkMe b).nextOp = s.nextOp := rfl
@[simp] theorem State.parkMe_time (s : State) (b : Block) : (s.parkMe b).time = s.time := rfl
@[simp] theorem State.parkMe_mem (s : State) (b : Block) : (s.parkMe b).mem = s.mem := rfl
@[simp] theorem State.parkMe_objects (s : State) (b : Block) : (s.parkMe b).objects = s.objects := rfl
@[simp] theorem State.parkMe_tlb (s : State) (b : Block) : (s.parkMe b).tlb = s.tlb := rfl
@[simp] theorem State.parkMe_moves (s : State) (b : Block) : (s.parkMe b).moves = s.moves := rfl
@[simp] theorem State.parkMe_spills (s : State) (b : Block) : (s.parkMe b).spills = s.spills := rfl
@[simp] theorem State.parkMe_launches (s : State) (b : Block) : (s.parkMe b).launches = s.launches := rfl
@[simp] theorem State.parkMe_waiting (s : State) (b : Block) : (s.parkMe b).waiting = s.waiting := rfl
@[simp] theorem State.parkMe_queues (s : State) (b : Block) : (s.parkMe b).queues = s.queues := rfl
@[simp] theorem State.parkMe_stamp (s : State) (b : Block) : (s.parkMe b).stamp = s.stamp := rfl
@[simp] theorem State.parkMe_guards (s : State) (b : Block) : (s.parkMe b).guards = s.guards := rfl
@[simp] theorem State.parkMe_joins (s : State) (b : Block) : (s.parkMe b).joins = s.joins := rfl
@[simp] theorem State.parkMe_orphans (s : State) (b : Block) : (s.parkMe b).orphans = s.orphans := rfl
@[simp] theorem State.parkMe_braids (s : State) (b : Block) : (s.parkMe b).braids = s.braids := rfl
@[simp] theorem State.parkMe_gone (s : State) (b : Block) : (s.parkMe b).gone = s.gone := rfl
@[simp] theorem State.parkMe_pushes (s : State) (b : Block) : (s.parkMe b).pushes = s.pushes := rfl
@[simp] theorem State.parkMe_jobs (s : State) (b : Block) : (s.parkMe b).jobs = s.jobs := rfl
@[simp] theorem State.parkMe_pipes (s : State) (b : Block) : (s.parkMe b).pipes = s.pipes := rfl
@[simp] theorem State.parkMe_kvBufs (s : State) (b : Block) : (s.parkMe b).kvBufs = s.kvBufs := rfl
@[simp] theorem State.parkMe_freed (s : State) (b : Block) : (s.parkMe b).freed = s.freed := rfl
@[simp] theorem State.parkMe_ifaces (s : State) (b : Block) : (s.parkMe b).ifaces = s.ifaces := rfl
@[simp] theorem State.parkMe_module (s : State) (b : Block) : (s.parkMe b).module = s.module := rfl

/-! ### State.setSlot -/

@[simp] theorem State.setSlot_core (s : State) (m : Slot) : (s.setSlot m).core = s.core := by unfold State.setSlot; split <;> rfl
@[simp] theorem State.setSlot_cores (s : State) (m : Slot) : (s.setSlot m).cores = s.cores := by unfold State.setSlot; split <;> rfl
@[simp] theorem State.setSlot_ir (s : State) (m : Slot) : (s.setSlot m).ir = s.ir := by unfold State.setSlot; split <;> rfl
@[simp] theorem State.setSlot_agenda (s : State) (m : Slot) : (s.setSlot m).agenda = s.agenda := by unfold State.setSlot; split <;> rfl
@[simp] theorem State.setSlot_nextOp (s : State) (m : Slot) : (s.setSlot m).nextOp = s.nextOp := by unfold State.setSlot; split <;> rfl
@[simp] theorem State.setSlot_time (s : State) (m : Slot) : (s.setSlot m).time = s.time := by unfold State.setSlot; split <;> rfl
@[simp] theorem State.setSlot_mem (s : State) (m : Slot) : (s.setSlot m).mem = s.mem := by unfold State.setSlot; split <;> rfl
@[simp] theorem State.setSlot_objects (s : State) (m : Slot) : (s.setSlot m).objects = s.objects := by unfold State.setSlot; split <;> rfl
@[simp] theorem State.setSlot_tlb (s : State) (m : Slot) : (s.setSlot m).tlb = s.tlb := by unfold State.setSlot; split <;> rfl
@[simp] theorem State.setSlot_moves (s : State) (m : Slot) : (s.setSlot m).moves = s.moves := by unfold State.setSlot; split <;> rfl
@[simp] theorem State.setSlot_spills (s : State) (m : Slot) : (s.setSlot m).spills = s.spills := by unfold State.setSlot; split <;> rfl
@[simp] theorem State.setSlot_launches (s : State) (m : Slot) : (s.setSlot m).launches = s.launches := by unfold State.setSlot; split <;> rfl
@[simp] theorem State.setSlot_waiting (s : State) (m : Slot) : (s.setSlot m).waiting = s.waiting := by unfold State.setSlot; split <;> rfl
@[simp] theorem State.setSlot_queues (s : State) (m : Slot) : (s.setSlot m).queues = s.queues := by unfold State.setSlot; split <;> rfl
@[simp] theorem State.setSlot_stamp (s : State) (m : Slot) : (s.setSlot m).stamp = s.stamp := by unfold State.setSlot; split <;> rfl
@[simp] theorem State.setSlot_guards (s : State) (m : Slot) : (s.setSlot m).guards = s.guards := by unfold State.setSlot; split <;> rfl
@[simp] theorem State.setSlot_joins (s : State) (m : Slot) : (s.setSlot m).joins = s.joins := by unfold State.setSlot; split <;> rfl
@[simp] theorem State.setSlot_orphans (s : State) (m : Slot) : (s.setSlot m).orphans = s.orphans := by unfold State.setSlot; split <;> rfl
@[simp] theorem State.setSlot_braids (s : State) (m : Slot) : (s.setSlot m).braids = s.braids := by unfold State.setSlot; split <;> rfl
@[simp] theorem State.setSlot_gone (s : State) (m : Slot) : (s.setSlot m).gone = s.gone := by unfold State.setSlot; split <;> rfl
@[simp] theorem State.setSlot_pushes (s : State) (m : Slot) : (s.setSlot m).pushes = s.pushes := by unfold State.setSlot; split <;> rfl
@[simp] theorem State.setSlot_jobs (s : State) (m : Slot) : (s.setSlot m).jobs = s.jobs := by unfold State.setSlot; split <;> rfl
@[simp] theorem State.setSlot_pipes (s : State) (m : Slot) : (s.setSlot m).pipes = s.pipes := by unfold State.setSlot; split <;> rfl
@[simp] theorem State.setSlot_kvBufs (s : State) (m : Slot) : (s.setSlot m).kvBufs = s.kvBufs := by unfold State.setSlot; split <;> rfl
@[simp] theorem State.setSlot_freed (s : State) (m : Slot) : (s.setSlot m).freed = s.freed := by unfold State.setSlot; split <;> rfl
@[simp] theorem State.setSlot_ifaces (s : State) (m : Slot) : (s.setSlot m).ifaces = s.ifaces := by unfold State.setSlot; split <;> rfl
@[simp] theorem State.setSlot_module (s : State) (m : Slot) : (s.setSlot m).module = s.module := by unfold State.setSlot; split <;> rfl

/-! ### State.onSlot -/

@[simp] theorem State.onSlot_core (s : State) (k : Nat) (f : Slot → Slot) : (s.onSlot k f).core = s.core := by simp [State.onSlot]
@[simp] theorem State.onSlot_cores (s : State) (k : Nat) (f : Slot → Slot) : (s.onSlot k f).cores = s.cores := by simp [State.onSlot]
@[simp] theorem State.onSlot_ir (s : State) (k : Nat) (f : Slot → Slot) : (s.onSlot k f).ir = s.ir := by simp [State.onSlot]
@[simp] theorem State.onSlot_agenda (s : State) (k : Nat) (f : Slot → Slot) : (s.onSlot k f).agenda = s.agenda := by simp [State.onSlot]
@[simp] theorem State.onSlot_nextOp (s : State) (k : Nat) (f : Slot → Slot) : (s.onSlot k f).nextOp = s.nextOp := by simp [State.onSlot]
@[simp] theorem State.onSlot_time (s : State) (k : Nat) (f : Slot → Slot) : (s.onSlot k f).time = s.time := by simp [State.onSlot]
@[simp] theorem State.onSlot_mem (s : State) (k : Nat) (f : Slot → Slot) : (s.onSlot k f).mem = s.mem := by simp [State.onSlot]
@[simp] theorem State.onSlot_objects (s : State) (k : Nat) (f : Slot → Slot) : (s.onSlot k f).objects = s.objects := by simp [State.onSlot]
@[simp] theorem State.onSlot_tlb (s : State) (k : Nat) (f : Slot → Slot) : (s.onSlot k f).tlb = s.tlb := by simp [State.onSlot]
@[simp] theorem State.onSlot_moves (s : State) (k : Nat) (f : Slot → Slot) : (s.onSlot k f).moves = s.moves := by simp [State.onSlot]
@[simp] theorem State.onSlot_spills (s : State) (k : Nat) (f : Slot → Slot) : (s.onSlot k f).spills = s.spills := by simp [State.onSlot]
@[simp] theorem State.onSlot_launches (s : State) (k : Nat) (f : Slot → Slot) : (s.onSlot k f).launches = s.launches := by simp [State.onSlot]
@[simp] theorem State.onSlot_waiting (s : State) (k : Nat) (f : Slot → Slot) : (s.onSlot k f).waiting = s.waiting := by simp [State.onSlot]
@[simp] theorem State.onSlot_queues (s : State) (k : Nat) (f : Slot → Slot) : (s.onSlot k f).queues = s.queues := by simp [State.onSlot]
@[simp] theorem State.onSlot_stamp (s : State) (k : Nat) (f : Slot → Slot) : (s.onSlot k f).stamp = s.stamp := by simp [State.onSlot]
@[simp] theorem State.onSlot_guards (s : State) (k : Nat) (f : Slot → Slot) : (s.onSlot k f).guards = s.guards := by simp [State.onSlot]
@[simp] theorem State.onSlot_joins (s : State) (k : Nat) (f : Slot → Slot) : (s.onSlot k f).joins = s.joins := by simp [State.onSlot]
@[simp] theorem State.onSlot_orphans (s : State) (k : Nat) (f : Slot → Slot) : (s.onSlot k f).orphans = s.orphans := by simp [State.onSlot]
@[simp] theorem State.onSlot_braids (s : State) (k : Nat) (f : Slot → Slot) : (s.onSlot k f).braids = s.braids := by simp [State.onSlot]
@[simp] theorem State.onSlot_gone (s : State) (k : Nat) (f : Slot → Slot) : (s.onSlot k f).gone = s.gone := by simp [State.onSlot]
@[simp] theorem State.onSlot_pushes (s : State) (k : Nat) (f : Slot → Slot) : (s.onSlot k f).pushes = s.pushes := by simp [State.onSlot]
@[simp] theorem State.onSlot_jobs (s : State) (k : Nat) (f : Slot → Slot) : (s.onSlot k f).jobs = s.jobs := by simp [State.onSlot]
@[simp] theorem State.onSlot_pipes (s : State) (k : Nat) (f : Slot → Slot) : (s.onSlot k f).pipes = s.pipes := by simp [State.onSlot]
@[simp] theorem State.onSlot_kvBufs (s : State) (k : Nat) (f : Slot → Slot) : (s.onSlot k f).kvBufs = s.kvBufs := by simp [State.onSlot]
@[simp] theorem State.onSlot_freed (s : State) (k : Nat) (f : Slot → Slot) : (s.onSlot k f).freed = s.freed := by simp [State.onSlot]
@[simp] theorem State.onSlot_ifaces (s : State) (k : Nat) (f : Slot → Slot) : (s.onSlot k f).ifaces = s.ifaces := by simp [State.onSlot]
@[simp] theorem State.onSlot_module (s : State) (k : Nat) (f : Slot → Slot) : (s.onSlot k f).module = s.module := by simp [State.onSlot]

/-! ### State.setCore -/

@[simp] theorem State.setCore_me (s : State) (c : Core) : (s.setCore c).me = s.me := by unfold State.setCore; split <;> rfl
@[simp] theorem State.setCore_slots (s : State) (c : Core) : (s.setCore c).slots = s.slots := by unfold State.setCore; split <;> rfl
@[simp] theorem State.setCore_ir (s : State) (c : Core) : (s.setCore c).ir = s.ir := by unfold State.setCore; split <;> rfl
@[simp] theorem State.setCore_agenda (s : State) (c : Core) : (s.setCore c).agenda = s.agenda := by unfold State.setCore; split <;> rfl
@[simp] theorem State.setCore_nextOp (s : State) (c : Core) : (s.setCore c).nextOp = s.nextOp := by unfold State.setCore; split <;> rfl
@[simp] theorem State.setCore_time (s : State) (c : Core) : (s.setCore c).time = s.time := by unfold State.setCore; split <;> rfl
@[simp] theorem State.setCore_mem (s : State) (c : Core) : (s.setCore c).mem = s.mem := by unfold State.setCore; split <;> rfl
@[simp] theorem State.setCore_objects (s : State) (c : Core) : (s.setCore c).objects = s.objects := by unfold State.setCore; split <;> rfl
@[simp] theorem State.setCore_tlb (s : State) (c : Core) : (s.setCore c).tlb = s.tlb := by unfold State.setCore; split <;> rfl
@[simp] theorem State.setCore_moves (s : State) (c : Core) : (s.setCore c).moves = s.moves := by unfold State.setCore; split <;> rfl
@[simp] theorem State.setCore_spills (s : State) (c : Core) : (s.setCore c).spills = s.spills := by unfold State.setCore; split <;> rfl
@[simp] theorem State.setCore_launches (s : State) (c : Core) : (s.setCore c).launches = s.launches := by unfold State.setCore; split <;> rfl
@[simp] theorem State.setCore_waiting (s : State) (c : Core) : (s.setCore c).waiting = s.waiting := by unfold State.setCore; split <;> rfl
@[simp] theorem State.setCore_queues (s : State) (c : Core) : (s.setCore c).queues = s.queues := by unfold State.setCore; split <;> rfl
@[simp] theorem State.setCore_stamp (s : State) (c : Core) : (s.setCore c).stamp = s.stamp := by unfold State.setCore; split <;> rfl
@[simp] theorem State.setCore_guards (s : State) (c : Core) : (s.setCore c).guards = s.guards := by unfold State.setCore; split <;> rfl
@[simp] theorem State.setCore_joins (s : State) (c : Core) : (s.setCore c).joins = s.joins := by unfold State.setCore; split <;> rfl
@[simp] theorem State.setCore_orphans (s : State) (c : Core) : (s.setCore c).orphans = s.orphans := by unfold State.setCore; split <;> rfl
@[simp] theorem State.setCore_braids (s : State) (c : Core) : (s.setCore c).braids = s.braids := by unfold State.setCore; split <;> rfl
@[simp] theorem State.setCore_gone (s : State) (c : Core) : (s.setCore c).gone = s.gone := by unfold State.setCore; split <;> rfl
@[simp] theorem State.setCore_pushes (s : State) (c : Core) : (s.setCore c).pushes = s.pushes := by unfold State.setCore; split <;> rfl
@[simp] theorem State.setCore_jobs (s : State) (c : Core) : (s.setCore c).jobs = s.jobs := by unfold State.setCore; split <;> rfl
@[simp] theorem State.setCore_pipes (s : State) (c : Core) : (s.setCore c).pipes = s.pipes := by unfold State.setCore; split <;> rfl
@[simp] theorem State.setCore_kvBufs (s : State) (c : Core) : (s.setCore c).kvBufs = s.kvBufs := by unfold State.setCore; split <;> rfl
@[simp] theorem State.setCore_freed (s : State) (c : Core) : (s.setCore c).freed = s.freed := by unfold State.setCore; split <;> rfl
@[simp] theorem State.setCore_ifaces (s : State) (c : Core) : (s.setCore c).ifaces = s.ifaces := by unfold State.setCore; split <;> rfl
@[simp] theorem State.setCore_module (s : State) (c : Core) : (s.setCore c).module = s.module := by unfold State.setCore; split <;> rfl

/-! ### State.mapSlots -/

@[simp] theorem State.mapSlots_core (s : State) (f : Slot → Slot) : (s.mapSlots f).core = s.core := rfl
@[simp] theorem State.mapSlots_cores (s : State) (f : Slot → Slot) : (s.mapSlots f).cores = s.cores := rfl
@[simp] theorem State.mapSlots_ir (s : State) (f : Slot → Slot) : (s.mapSlots f).ir = s.ir := rfl
@[simp] theorem State.mapSlots_agenda (s : State) (f : Slot → Slot) : (s.mapSlots f).agenda = s.agenda := rfl
@[simp] theorem State.mapSlots_nextOp (s : State) (f : Slot → Slot) : (s.mapSlots f).nextOp = s.nextOp := rfl
@[simp] theorem State.mapSlots_time (s : State) (f : Slot → Slot) : (s.mapSlots f).time = s.time := rfl
@[simp] theorem State.mapSlots_mem (s : State) (f : Slot → Slot) : (s.mapSlots f).mem = s.mem := rfl
@[simp] theorem State.mapSlots_objects (s : State) (f : Slot → Slot) : (s.mapSlots f).objects = s.objects := rfl
@[simp] theorem State.mapSlots_tlb (s : State) (f : Slot → Slot) : (s.mapSlots f).tlb = s.tlb := rfl
@[simp] theorem State.mapSlots_moves (s : State) (f : Slot → Slot) : (s.mapSlots f).moves = s.moves := rfl
@[simp] theorem State.mapSlots_spills (s : State) (f : Slot → Slot) : (s.mapSlots f).spills = s.spills := rfl
@[simp] theorem State.mapSlots_launches (s : State) (f : Slot → Slot) : (s.mapSlots f).launches = s.launches := rfl
@[simp] theorem State.mapSlots_waiting (s : State) (f : Slot → Slot) : (s.mapSlots f).waiting = s.waiting := rfl
@[simp] theorem State.mapSlots_queues (s : State) (f : Slot → Slot) : (s.mapSlots f).queues = s.queues := rfl
@[simp] theorem State.mapSlots_stamp (s : State) (f : Slot → Slot) : (s.mapSlots f).stamp = s.stamp := rfl
@[simp] theorem State.mapSlots_guards (s : State) (f : Slot → Slot) : (s.mapSlots f).guards = s.guards := rfl
@[simp] theorem State.mapSlots_joins (s : State) (f : Slot → Slot) : (s.mapSlots f).joins = s.joins := rfl
@[simp] theorem State.mapSlots_orphans (s : State) (f : Slot → Slot) : (s.mapSlots f).orphans = s.orphans := rfl
@[simp] theorem State.mapSlots_braids (s : State) (f : Slot → Slot) : (s.mapSlots f).braids = s.braids := rfl
@[simp] theorem State.mapSlots_gone (s : State) (f : Slot → Slot) : (s.mapSlots f).gone = s.gone := rfl
@[simp] theorem State.mapSlots_pushes (s : State) (f : Slot → Slot) : (s.mapSlots f).pushes = s.pushes := rfl
@[simp] theorem State.mapSlots_jobs (s : State) (f : Slot → Slot) : (s.mapSlots f).jobs = s.jobs := rfl
@[simp] theorem State.mapSlots_pipes (s : State) (f : Slot → Slot) : (s.mapSlots f).pipes = s.pipes := rfl
@[simp] theorem State.mapSlots_kvBufs (s : State) (f : Slot → Slot) : (s.mapSlots f).kvBufs = s.kvBufs := rfl
@[simp] theorem State.mapSlots_freed (s : State) (f : Slot → Slot) : (s.mapSlots f).freed = s.freed := rfl
@[simp] theorem State.mapSlots_ifaces (s : State) (f : Slot → Slot) : (s.mapSlots f).ifaces = s.ifaces := rfl
@[simp] theorem State.mapSlots_module (s : State) (f : Slot → Slot) : (s.mapSlots f).module = s.module := rfl

/-! ### State.setIface -/

@[simp] theorem State.setIface_me (s : State) (i : Nat) (f : Iface) : (s.setIface i f).me = s.me := rfl
@[simp] theorem State.setIface_core (s : State) (i : Nat) (f : Iface) : (s.setIface i f).core = s.core := rfl
@[simp] theorem State.setIface_slots (s : State) (i : Nat) (f : Iface) : (s.setIface i f).slots = s.slots := rfl
@[simp] theorem State.setIface_cores (s : State) (i : Nat) (f : Iface) : (s.setIface i f).cores = s.cores := rfl
@[simp] theorem State.setIface_ir (s : State) (i : Nat) (f : Iface) : (s.setIface i f).ir = s.ir := rfl
@[simp] theorem State.setIface_agenda (s : State) (i : Nat) (f : Iface) : (s.setIface i f).agenda = s.agenda := rfl
@[simp] theorem State.setIface_nextOp (s : State) (i : Nat) (f : Iface) : (s.setIface i f).nextOp = s.nextOp := rfl
@[simp] theorem State.setIface_time (s : State) (i : Nat) (f : Iface) : (s.setIface i f).time = s.time := rfl
@[simp] theorem State.setIface_mem (s : State) (i : Nat) (f : Iface) : (s.setIface i f).mem = s.mem := rfl
@[simp] theorem State.setIface_objects (s : State) (i : Nat) (f : Iface) : (s.setIface i f).objects = s.objects := rfl
@[simp] theorem State.setIface_tlb (s : State) (i : Nat) (f : Iface) : (s.setIface i f).tlb = s.tlb := rfl
@[simp] theorem State.setIface_moves (s : State) (i : Nat) (f : Iface) : (s.setIface i f).moves = s.moves := rfl
@[simp] theorem State.setIface_spills (s : State) (i : Nat) (f : Iface) : (s.setIface i f).spills = s.spills := rfl
@[simp] theorem State.setIface_launches (s : State) (i : Nat) (f : Iface) : (s.setIface i f).launches = s.launches := rfl
@[simp] theorem State.setIface_waiting (s : State) (i : Nat) (f : Iface) : (s.setIface i f).waiting = s.waiting := rfl
@[simp] theorem State.setIface_queues (s : State) (i : Nat) (f : Iface) : (s.setIface i f).queues = s.queues := rfl
@[simp] theorem State.setIface_stamp (s : State) (i : Nat) (f : Iface) : (s.setIface i f).stamp = s.stamp := rfl
@[simp] theorem State.setIface_guards (s : State) (i : Nat) (f : Iface) : (s.setIface i f).guards = s.guards := rfl
@[simp] theorem State.setIface_joins (s : State) (i : Nat) (f : Iface) : (s.setIface i f).joins = s.joins := rfl
@[simp] theorem State.setIface_orphans (s : State) (i : Nat) (f : Iface) : (s.setIface i f).orphans = s.orphans := rfl
@[simp] theorem State.setIface_braids (s : State) (i : Nat) (f : Iface) : (s.setIface i f).braids = s.braids := rfl
@[simp] theorem State.setIface_gone (s : State) (i : Nat) (f : Iface) : (s.setIface i f).gone = s.gone := rfl
@[simp] theorem State.setIface_pushes (s : State) (i : Nat) (f : Iface) : (s.setIface i f).pushes = s.pushes := rfl
@[simp] theorem State.setIface_jobs (s : State) (i : Nat) (f : Iface) : (s.setIface i f).jobs = s.jobs := rfl
@[simp] theorem State.setIface_pipes (s : State) (i : Nat) (f : Iface) : (s.setIface i f).pipes = s.pipes := rfl
@[simp] theorem State.setIface_kvBufs (s : State) (i : Nat) (f : Iface) : (s.setIface i f).kvBufs = s.kvBufs := rfl
@[simp] theorem State.setIface_freed (s : State) (i : Nat) (f : Iface) : (s.setIface i f).freed = s.freed := rfl
@[simp] theorem State.setIface_module (s : State) (i : Nat) (f : Iface) : (s.setIface i f).module = s.module := rfl

/-! ### State.raiseMsix -/

@[simp] theorem State.raiseMsix_me (s : State) (i v : Nat) : (s.raiseMsix i v).me = s.me := rfl
@[simp] theorem State.raiseMsix_core (s : State) (i v : Nat) : (s.raiseMsix i v).core = s.core := rfl
@[simp] theorem State.raiseMsix_slots (s : State) (i v : Nat) : (s.raiseMsix i v).slots = s.slots := rfl
@[simp] theorem State.raiseMsix_cores (s : State) (i v : Nat) : (s.raiseMsix i v).cores = s.cores := rfl
@[simp] theorem State.raiseMsix_ir (s : State) (i v : Nat) : (s.raiseMsix i v).ir = s.ir := rfl
@[simp] theorem State.raiseMsix_agenda (s : State) (i v : Nat) : (s.raiseMsix i v).agenda = s.agenda := rfl
@[simp] theorem State.raiseMsix_nextOp (s : State) (i v : Nat) : (s.raiseMsix i v).nextOp = s.nextOp := rfl
@[simp] theorem State.raiseMsix_time (s : State) (i v : Nat) : (s.raiseMsix i v).time = s.time := rfl
@[simp] theorem State.raiseMsix_mem (s : State) (i v : Nat) : (s.raiseMsix i v).mem = s.mem := rfl
@[simp] theorem State.raiseMsix_objects (s : State) (i v : Nat) : (s.raiseMsix i v).objects = s.objects := rfl
@[simp] theorem State.raiseMsix_tlb (s : State) (i v : Nat) : (s.raiseMsix i v).tlb = s.tlb := rfl
@[simp] theorem State.raiseMsix_moves (s : State) (i v : Nat) : (s.raiseMsix i v).moves = s.moves := rfl
@[simp] theorem State.raiseMsix_spills (s : State) (i v : Nat) : (s.raiseMsix i v).spills = s.spills := rfl
@[simp] theorem State.raiseMsix_launches (s : State) (i v : Nat) : (s.raiseMsix i v).launches = s.launches := rfl
@[simp] theorem State.raiseMsix_waiting (s : State) (i v : Nat) : (s.raiseMsix i v).waiting = s.waiting := rfl
@[simp] theorem State.raiseMsix_queues (s : State) (i v : Nat) : (s.raiseMsix i v).queues = s.queues := rfl
@[simp] theorem State.raiseMsix_stamp (s : State) (i v : Nat) : (s.raiseMsix i v).stamp = s.stamp := rfl
@[simp] theorem State.raiseMsix_guards (s : State) (i v : Nat) : (s.raiseMsix i v).guards = s.guards := rfl
@[simp] theorem State.raiseMsix_joins (s : State) (i v : Nat) : (s.raiseMsix i v).joins = s.joins := rfl
@[simp] theorem State.raiseMsix_orphans (s : State) (i v : Nat) : (s.raiseMsix i v).orphans = s.orphans := rfl
@[simp] theorem State.raiseMsix_braids (s : State) (i v : Nat) : (s.raiseMsix i v).braids = s.braids := rfl
@[simp] theorem State.raiseMsix_gone (s : State) (i v : Nat) : (s.raiseMsix i v).gone = s.gone := rfl
@[simp] theorem State.raiseMsix_pushes (s : State) (i v : Nat) : (s.raiseMsix i v).pushes = s.pushes := rfl
@[simp] theorem State.raiseMsix_jobs (s : State) (i v : Nat) : (s.raiseMsix i v).jobs = s.jobs := rfl
@[simp] theorem State.raiseMsix_pipes (s : State) (i v : Nat) : (s.raiseMsix i v).pipes = s.pipes := rfl
@[simp] theorem State.raiseMsix_kvBufs (s : State) (i v : Nat) : (s.raiseMsix i v).kvBufs = s.kvBufs := rfl
@[simp] theorem State.raiseMsix_freed (s : State) (i v : Nat) : (s.raiseMsix i v).freed = s.freed := rfl
@[simp] theorem State.raiseMsix_module (s : State) (i v : Nat) : (s.raiseMsix i v).module = s.module := rfl

/-! ### State.note -/

@[simp] theorem State.note_me (s : State) (b : Bool) : (s.note b).me = s.me := by cases b <;> rfl
@[simp] theorem State.note_core (s : State) (b : Bool) : (s.note b).core = s.core := by cases b <;> rfl
@[simp] theorem State.note_slots (s : State) (b : Bool) : (s.note b).slots = s.slots := by cases b <;> rfl
@[simp] theorem State.note_cores (s : State) (b : Bool) : (s.note b).cores = s.cores := by cases b <;> rfl
@[simp] theorem State.note_ir (s : State) (b : Bool) : (s.note b).ir = s.ir := by cases b <;> rfl
@[simp] theorem State.note_agenda (s : State) (b : Bool) : (s.note b).agenda = s.agenda := by cases b <;> rfl
@[simp] theorem State.note_nextOp (s : State) (b : Bool) : (s.note b).nextOp = s.nextOp := by cases b <;> rfl
@[simp] theorem State.note_time (s : State) (b : Bool) : (s.note b).time = s.time := by cases b <;> rfl
@[simp] theorem State.note_mem (s : State) (b : Bool) : (s.note b).mem = s.mem := by cases b <;> rfl
@[simp] theorem State.note_objects (s : State) (b : Bool) : (s.note b).objects = s.objects := by cases b <;> rfl
@[simp] theorem State.note_tlb (s : State) (b : Bool) : (s.note b).tlb = s.tlb := by cases b <;> rfl
@[simp] theorem State.note_moves (s : State) (b : Bool) : (s.note b).moves = s.moves := by cases b <;> rfl
@[simp] theorem State.note_spills (s : State) (b : Bool) : (s.note b).spills = s.spills := by cases b <;> rfl
@[simp] theorem State.note_launches (s : State) (b : Bool) : (s.note b).launches = s.launches := by cases b <;> rfl
@[simp] theorem State.note_waiting (s : State) (b : Bool) : (s.note b).waiting = s.waiting := by cases b <;> rfl
@[simp] theorem State.note_queues (s : State) (b : Bool) : (s.note b).queues = s.queues := by cases b <;> rfl
@[simp] theorem State.note_stamp (s : State) (b : Bool) : (s.note b).stamp = s.stamp := by cases b <;> rfl
@[simp] theorem State.note_guards (s : State) (b : Bool) : (s.note b).guards = s.guards := by cases b <;> rfl
@[simp] theorem State.note_joins (s : State) (b : Bool) : (s.note b).joins = s.joins := by cases b <;> rfl
@[simp] theorem State.note_orphans (s : State) (b : Bool) : (s.note b).orphans = s.orphans := by cases b <;> rfl
@[simp] theorem State.note_braids (s : State) (b : Bool) : (s.note b).braids = s.braids := by cases b <;> rfl
@[simp] theorem State.note_gone (s : State) (b : Bool) : (s.note b).gone = s.gone := by cases b <;> rfl
@[simp] theorem State.note_pushes (s : State) (b : Bool) : (s.note b).pushes = s.pushes := by cases b <;> rfl
@[simp] theorem State.note_jobs (s : State) (b : Bool) : (s.note b).jobs = s.jobs := by cases b <;> rfl
@[simp] theorem State.note_pipes (s : State) (b : Bool) : (s.note b).pipes = s.pipes := by cases b <;> rfl
@[simp] theorem State.note_kvBufs (s : State) (b : Bool) : (s.note b).kvBufs = s.kvBufs := by cases b <;> rfl
@[simp] theorem State.note_freed (s : State) (b : Bool) : (s.note b).freed = s.freed := by cases b <;> rfl
@[simp] theorem State.note_ifaces (s : State) (b : Bool) : (s.note b).ifaces = s.ifaces := by cases b <;> rfl
@[simp] theorem State.note_true (s : State) : (s.note true).module = { s.module with changes := s.module.changes + 1 } := rfl
@[simp] theorem State.note_false (s : State) : s.note false = s := rfl

/-! ### State.discardFault -/

@[simp] theorem State.discardFault_me (s : State) (i : Nat) : (s.discardFault i).me = s.me := rfl
@[simp] theorem State.discardFault_core (s : State) (i : Nat) : (s.discardFault i).core = s.core := rfl
@[simp] theorem State.discardFault_slots (s : State) (i : Nat) : (s.discardFault i).slots = s.slots := rfl
@[simp] theorem State.discardFault_cores (s : State) (i : Nat) : (s.discardFault i).cores = s.cores := rfl
@[simp] theorem State.discardFault_ir (s : State) (i : Nat) : (s.discardFault i).ir = s.ir := rfl
@[simp] theorem State.discardFault_agenda (s : State) (i : Nat) : (s.discardFault i).agenda = s.agenda := rfl
@[simp] theorem State.discardFault_nextOp (s : State) (i : Nat) : (s.discardFault i).nextOp = s.nextOp := rfl
@[simp] theorem State.discardFault_time (s : State) (i : Nat) : (s.discardFault i).time = s.time := rfl
@[simp] theorem State.discardFault_mem (s : State) (i : Nat) : (s.discardFault i).mem = s.mem := rfl
@[simp] theorem State.discardFault_objects (s : State) (i : Nat) : (s.discardFault i).objects = s.objects := rfl
@[simp] theorem State.discardFault_tlb (s : State) (i : Nat) : (s.discardFault i).tlb = s.tlb := rfl
@[simp] theorem State.discardFault_moves (s : State) (i : Nat) : (s.discardFault i).moves = s.moves := rfl
@[simp] theorem State.discardFault_spills (s : State) (i : Nat) : (s.discardFault i).spills = s.spills := rfl
@[simp] theorem State.discardFault_launches (s : State) (i : Nat) : (s.discardFault i).launches = s.launches := rfl
@[simp] theorem State.discardFault_waiting (s : State) (i : Nat) : (s.discardFault i).waiting = s.waiting := rfl
@[simp] theorem State.discardFault_queues (s : State) (i : Nat) : (s.discardFault i).queues = s.queues := rfl
@[simp] theorem State.discardFault_stamp (s : State) (i : Nat) : (s.discardFault i).stamp = s.stamp := rfl
@[simp] theorem State.discardFault_guards (s : State) (i : Nat) : (s.discardFault i).guards = s.guards := rfl
@[simp] theorem State.discardFault_joins (s : State) (i : Nat) : (s.discardFault i).joins = s.joins := rfl
@[simp] theorem State.discardFault_orphans (s : State) (i : Nat) : (s.discardFault i).orphans = s.orphans := rfl
@[simp] theorem State.discardFault_braids (s : State) (i : Nat) : (s.discardFault i).braids = s.braids := rfl
@[simp] theorem State.discardFault_gone (s : State) (i : Nat) : (s.discardFault i).gone = s.gone := rfl
@[simp] theorem State.discardFault_pushes (s : State) (i : Nat) : (s.discardFault i).pushes = s.pushes := rfl
@[simp] theorem State.discardFault_jobs (s : State) (i : Nat) : (s.discardFault i).jobs = s.jobs := rfl
@[simp] theorem State.discardFault_pipes (s : State) (i : Nat) : (s.discardFault i).pipes = s.pipes := rfl
@[simp] theorem State.discardFault_kvBufs (s : State) (i : Nat) : (s.discardFault i).kvBufs = s.kvBufs := rfl
@[simp] theorem State.discardFault_freed (s : State) (i : Nat) : (s.discardFault i).freed = s.freed := rfl
@[simp] theorem State.discardFault_module (s : State) (i : Nat) :
    (s.discardFault i).module = { s.module with changes := s.module.changes + 1 } := rfl

/-! ### State.writeSegs -/

@[simp] theorem State.writeSegs_me (s : State) (g : List Seg) (bs : List Byte) : (s.writeSegs g bs).me = s.me := rfl
@[simp] theorem State.writeSegs_core (s : State) (g : List Seg) (bs : List Byte) : (s.writeSegs g bs).core = s.core := rfl
@[simp] theorem State.writeSegs_slots (s : State) (g : List Seg) (bs : List Byte) : (s.writeSegs g bs).slots = s.slots := rfl
@[simp] theorem State.writeSegs_cores (s : State) (g : List Seg) (bs : List Byte) : (s.writeSegs g bs).cores = s.cores := rfl
@[simp] theorem State.writeSegs_ir (s : State) (g : List Seg) (bs : List Byte) : (s.writeSegs g bs).ir = s.ir := rfl
@[simp] theorem State.writeSegs_agenda (s : State) (g : List Seg) (bs : List Byte) : (s.writeSegs g bs).agenda = s.agenda := rfl
@[simp] theorem State.writeSegs_nextOp (s : State) (g : List Seg) (bs : List Byte) : (s.writeSegs g bs).nextOp = s.nextOp := rfl
@[simp] theorem State.writeSegs_time (s : State) (g : List Seg) (bs : List Byte) : (s.writeSegs g bs).time = s.time := rfl
@[simp] theorem State.writeSegs_objects (s : State) (g : List Seg) (bs : List Byte) : (s.writeSegs g bs).objects = s.objects := rfl
@[simp] theorem State.writeSegs_tlb (s : State) (g : List Seg) (bs : List Byte) : (s.writeSegs g bs).tlb = s.tlb := rfl
@[simp] theorem State.writeSegs_moves (s : State) (g : List Seg) (bs : List Byte) : (s.writeSegs g bs).moves = s.moves := rfl
@[simp] theorem State.writeSegs_spills (s : State) (g : List Seg) (bs : List Byte) : (s.writeSegs g bs).spills = s.spills := rfl
@[simp] theorem State.writeSegs_launches (s : State) (g : List Seg) (bs : List Byte) : (s.writeSegs g bs).launches = s.launches := rfl
@[simp] theorem State.writeSegs_waiting (s : State) (g : List Seg) (bs : List Byte) : (s.writeSegs g bs).waiting = s.waiting := rfl
@[simp] theorem State.writeSegs_queues (s : State) (g : List Seg) (bs : List Byte) : (s.writeSegs g bs).queues = s.queues := rfl
@[simp] theorem State.writeSegs_stamp (s : State) (g : List Seg) (bs : List Byte) : (s.writeSegs g bs).stamp = s.stamp := rfl
@[simp] theorem State.writeSegs_guards (s : State) (g : List Seg) (bs : List Byte) : (s.writeSegs g bs).guards = s.guards := rfl
@[simp] theorem State.writeSegs_joins (s : State) (g : List Seg) (bs : List Byte) : (s.writeSegs g bs).joins = s.joins := rfl
@[simp] theorem State.writeSegs_orphans (s : State) (g : List Seg) (bs : List Byte) : (s.writeSegs g bs).orphans = s.orphans := rfl
@[simp] theorem State.writeSegs_braids (s : State) (g : List Seg) (bs : List Byte) : (s.writeSegs g bs).braids = s.braids := rfl
@[simp] theorem State.writeSegs_gone (s : State) (g : List Seg) (bs : List Byte) : (s.writeSegs g bs).gone = s.gone := rfl
@[simp] theorem State.writeSegs_pushes (s : State) (g : List Seg) (bs : List Byte) : (s.writeSegs g bs).pushes = s.pushes := rfl
@[simp] theorem State.writeSegs_jobs (s : State) (g : List Seg) (bs : List Byte) : (s.writeSegs g bs).jobs = s.jobs := rfl
@[simp] theorem State.writeSegs_pipes (s : State) (g : List Seg) (bs : List Byte) : (s.writeSegs g bs).pipes = s.pipes := rfl
@[simp] theorem State.writeSegs_kvBufs (s : State) (g : List Seg) (bs : List Byte) : (s.writeSegs g bs).kvBufs = s.kvBufs := rfl
@[simp] theorem State.writeSegs_freed (s : State) (g : List Seg) (bs : List Byte) : (s.writeSegs g bs).freed = s.freed := rfl
@[simp] theorem State.writeSegs_ifaces (s : State) (g : List Seg) (bs : List Byte) : (s.writeSegs g bs).ifaces = s.ifaces := rfl
@[simp] theorem State.writeSegs_module (s : State) (g : List Seg) (bs : List Byte) : (s.writeSegs g bs).module = s.module := rfl

/-! ### State.setGroup -/

@[simp] theorem State.setGroup_me (s : State) (g : Seg) (o : Group) : (s.setGroup g o).me = s.me := rfl
@[simp] theorem State.setGroup_core (s : State) (g : Seg) (o : Group) : (s.setGroup g o).core = s.core := rfl
@[simp] theorem State.setGroup_slots (s : State) (g : Seg) (o : Group) : (s.setGroup g o).slots = s.slots := rfl
@[simp] theorem State.setGroup_cores (s : State) (g : Seg) (o : Group) : (s.setGroup g o).cores = s.cores := rfl
@[simp] theorem State.setGroup_ir (s : State) (g : Seg) (o : Group) : (s.setGroup g o).ir = s.ir := rfl
@[simp] theorem State.setGroup_agenda (s : State) (g : Seg) (o : Group) : (s.setGroup g o).agenda = s.agenda := rfl
@[simp] theorem State.setGroup_nextOp (s : State) (g : Seg) (o : Group) : (s.setGroup g o).nextOp = s.nextOp := rfl
@[simp] theorem State.setGroup_time (s : State) (g : Seg) (o : Group) : (s.setGroup g o).time = s.time := rfl
@[simp] theorem State.setGroup_objects (s : State) (g : Seg) (o : Group) : (s.setGroup g o).objects = s.objects := rfl
@[simp] theorem State.setGroup_tlb (s : State) (g : Seg) (o : Group) : (s.setGroup g o).tlb = s.tlb := rfl
@[simp] theorem State.setGroup_moves (s : State) (g : Seg) (o : Group) : (s.setGroup g o).moves = s.moves := rfl
@[simp] theorem State.setGroup_spills (s : State) (g : Seg) (o : Group) : (s.setGroup g o).spills = s.spills := rfl
@[simp] theorem State.setGroup_launches (s : State) (g : Seg) (o : Group) : (s.setGroup g o).launches = s.launches := rfl
@[simp] theorem State.setGroup_waiting (s : State) (g : Seg) (o : Group) : (s.setGroup g o).waiting = s.waiting := rfl
@[simp] theorem State.setGroup_queues (s : State) (g : Seg) (o : Group) : (s.setGroup g o).queues = s.queues := rfl
@[simp] theorem State.setGroup_stamp (s : State) (g : Seg) (o : Group) : (s.setGroup g o).stamp = s.stamp := rfl
@[simp] theorem State.setGroup_guards (s : State) (g : Seg) (o : Group) : (s.setGroup g o).guards = s.guards := rfl
@[simp] theorem State.setGroup_joins (s : State) (g : Seg) (o : Group) : (s.setGroup g o).joins = s.joins := rfl
@[simp] theorem State.setGroup_orphans (s : State) (g : Seg) (o : Group) : (s.setGroup g o).orphans = s.orphans := rfl
@[simp] theorem State.setGroup_braids (s : State) (g : Seg) (o : Group) : (s.setGroup g o).braids = s.braids := rfl
@[simp] theorem State.setGroup_gone (s : State) (g : Seg) (o : Group) : (s.setGroup g o).gone = s.gone := rfl
@[simp] theorem State.setGroup_pushes (s : State) (g : Seg) (o : Group) : (s.setGroup g o).pushes = s.pushes := rfl
@[simp] theorem State.setGroup_jobs (s : State) (g : Seg) (o : Group) : (s.setGroup g o).jobs = s.jobs := rfl
@[simp] theorem State.setGroup_pipes (s : State) (g : Seg) (o : Group) : (s.setGroup g o).pipes = s.pipes := rfl
@[simp] theorem State.setGroup_kvBufs (s : State) (g : Seg) (o : Group) : (s.setGroup g o).kvBufs = s.kvBufs := rfl
@[simp] theorem State.setGroup_freed (s : State) (g : Seg) (o : Group) : (s.setGroup g o).freed = s.freed := rfl
@[simp] theorem State.setGroup_ifaces (s : State) (g : Seg) (o : Group) : (s.setGroup g o).ifaces = s.ifaces := rfl
@[simp] theorem State.setGroup_module (s : State) (g : Seg) (o : Group) : (s.setGroup g o).module = s.module := rfl

/-! ### State.enqueue -/

@[simp] theorem State.enqueue_me (s : State) (d p : Nat) (i : Item) (sj : List (Nat × Nat)) (r : Bool) : (s.enqueue d p i sj r).me = s.me := rfl
@[simp] theorem State.enqueue_core (s : State) (d p : Nat) (i : Item) (sj : List (Nat × Nat)) (r : Bool) : (s.enqueue d p i sj r).core = s.core := rfl
@[simp] theorem State.enqueue_slots (s : State) (d p : Nat) (i : Item) (sj : List (Nat × Nat)) (r : Bool) : (s.enqueue d p i sj r).slots = s.slots := rfl
@[simp] theorem State.enqueue_cores (s : State) (d p : Nat) (i : Item) (sj : List (Nat × Nat)) (r : Bool) : (s.enqueue d p i sj r).cores = s.cores := rfl
@[simp] theorem State.enqueue_ir (s : State) (d p : Nat) (i : Item) (sj : List (Nat × Nat)) (r : Bool) : (s.enqueue d p i sj r).ir = s.ir := rfl
@[simp] theorem State.enqueue_agenda (s : State) (d p : Nat) (i : Item) (sj : List (Nat × Nat)) (r : Bool) : (s.enqueue d p i sj r).agenda = s.agenda := rfl
@[simp] theorem State.enqueue_nextOp (s : State) (d p : Nat) (i : Item) (sj : List (Nat × Nat)) (r : Bool) : (s.enqueue d p i sj r).nextOp = s.nextOp := rfl
@[simp] theorem State.enqueue_time (s : State) (d p : Nat) (i : Item) (sj : List (Nat × Nat)) (r : Bool) : (s.enqueue d p i sj r).time = s.time := rfl
@[simp] theorem State.enqueue_mem (s : State) (d p : Nat) (i : Item) (sj : List (Nat × Nat)) (r : Bool) : (s.enqueue d p i sj r).mem = s.mem := rfl
@[simp] theorem State.enqueue_objects (s : State) (d p : Nat) (i : Item) (sj : List (Nat × Nat)) (r : Bool) : (s.enqueue d p i sj r).objects = s.objects := rfl
@[simp] theorem State.enqueue_tlb (s : State) (d p : Nat) (i : Item) (sj : List (Nat × Nat)) (r : Bool) : (s.enqueue d p i sj r).tlb = s.tlb := rfl
@[simp] theorem State.enqueue_moves (s : State) (d p : Nat) (i : Item) (sj : List (Nat × Nat)) (r : Bool) : (s.enqueue d p i sj r).moves = s.moves := rfl
@[simp] theorem State.enqueue_spills (s : State) (d p : Nat) (i : Item) (sj : List (Nat × Nat)) (r : Bool) : (s.enqueue d p i sj r).spills = s.spills := rfl
@[simp] theorem State.enqueue_launches (s : State) (d p : Nat) (i : Item) (sj : List (Nat × Nat)) (r : Bool) : (s.enqueue d p i sj r).launches = s.launches := rfl
@[simp] theorem State.enqueue_waiting (s : State) (d p : Nat) (i : Item) (sj : List (Nat × Nat)) (r : Bool) : (s.enqueue d p i sj r).waiting = s.waiting := rfl
@[simp] theorem State.enqueue_guards (s : State) (d p : Nat) (i : Item) (sj : List (Nat × Nat)) (r : Bool) : (s.enqueue d p i sj r).guards = s.guards := rfl
@[simp] theorem State.enqueue_joins (s : State) (d p : Nat) (i : Item) (sj : List (Nat × Nat)) (r : Bool) : (s.enqueue d p i sj r).joins = s.joins := rfl
@[simp] theorem State.enqueue_orphans (s : State) (d p : Nat) (i : Item) (sj : List (Nat × Nat)) (r : Bool) : (s.enqueue d p i sj r).orphans = s.orphans := rfl
@[simp] theorem State.enqueue_braids (s : State) (d p : Nat) (i : Item) (sj : List (Nat × Nat)) (r : Bool) : (s.enqueue d p i sj r).braids = s.braids := rfl
@[simp] theorem State.enqueue_gone (s : State) (d p : Nat) (i : Item) (sj : List (Nat × Nat)) (r : Bool) : (s.enqueue d p i sj r).gone = s.gone := rfl
@[simp] theorem State.enqueue_pushes (s : State) (d p : Nat) (i : Item) (sj : List (Nat × Nat)) (r : Bool) : (s.enqueue d p i sj r).pushes = s.pushes := rfl
@[simp] theorem State.enqueue_jobs (s : State) (d p : Nat) (i : Item) (sj : List (Nat × Nat)) (r : Bool) : (s.enqueue d p i sj r).jobs = s.jobs := rfl
@[simp] theorem State.enqueue_pipes (s : State) (d p : Nat) (i : Item) (sj : List (Nat × Nat)) (r : Bool) : (s.enqueue d p i sj r).pipes = s.pipes := rfl
@[simp] theorem State.enqueue_kvBufs (s : State) (d p : Nat) (i : Item) (sj : List (Nat × Nat)) (r : Bool) : (s.enqueue d p i sj r).kvBufs = s.kvBufs := rfl
@[simp] theorem State.enqueue_freed (s : State) (d p : Nat) (i : Item) (sj : List (Nat × Nat)) (r : Bool) : (s.enqueue d p i sj r).freed = s.freed := rfl
@[simp] theorem State.enqueue_ifaces (s : State) (d p : Nat) (i : Item) (sj : List (Nat × Nat)) (r : Bool) : (s.enqueue d p i sj r).ifaces = s.ifaces := rfl
@[simp] theorem State.enqueue_module (s : State) (d p : Nat) (i : Item) (sj : List (Nat × Nat)) (r : Bool) : (s.enqueue d p i sj r).module = s.module := rfl

/-! ### State.freeLaunch -/

@[simp] theorem State.freeLaunch_me (s : State) (lid : Nat) : (s.freeLaunch lid).me = s.me := rfl
@[simp] theorem State.freeLaunch_core (s : State) (lid : Nat) : (s.freeLaunch lid).core = s.core := rfl
@[simp] theorem State.freeLaunch_slots (s : State) (lid : Nat) : (s.freeLaunch lid).slots = s.slots := rfl
@[simp] theorem State.freeLaunch_cores (s : State) (lid : Nat) : (s.freeLaunch lid).cores = s.cores := rfl
@[simp] theorem State.freeLaunch_ir (s : State) (lid : Nat) : (s.freeLaunch lid).ir = s.ir := rfl
@[simp] theorem State.freeLaunch_agenda (s : State) (lid : Nat) : (s.freeLaunch lid).agenda = s.agenda := rfl
@[simp] theorem State.freeLaunch_nextOp (s : State) (lid : Nat) : (s.freeLaunch lid).nextOp = s.nextOp := rfl
@[simp] theorem State.freeLaunch_time (s : State) (lid : Nat) : (s.freeLaunch lid).time = s.time := rfl
@[simp] theorem State.freeLaunch_mem (s : State) (lid : Nat) : (s.freeLaunch lid).mem = s.mem := rfl
@[simp] theorem State.freeLaunch_objects (s : State) (lid : Nat) : (s.freeLaunch lid).objects = s.objects := rfl
@[simp] theorem State.freeLaunch_tlb (s : State) (lid : Nat) : (s.freeLaunch lid).tlb = s.tlb := rfl
@[simp] theorem State.freeLaunch_moves (s : State) (lid : Nat) : (s.freeLaunch lid).moves = s.moves := rfl
@[simp] theorem State.freeLaunch_spills (s : State) (lid : Nat) : (s.freeLaunch lid).spills = s.spills := rfl
@[simp] theorem State.freeLaunch_waiting (s : State) (lid : Nat) : (s.freeLaunch lid).waiting = s.waiting := rfl
@[simp] theorem State.freeLaunch_queues (s : State) (lid : Nat) : (s.freeLaunch lid).queues = s.queues := rfl
@[simp] theorem State.freeLaunch_stamp (s : State) (lid : Nat) : (s.freeLaunch lid).stamp = s.stamp := rfl
@[simp] theorem State.freeLaunch_guards (s : State) (lid : Nat) : (s.freeLaunch lid).guards = s.guards := rfl
@[simp] theorem State.freeLaunch_joins (s : State) (lid : Nat) : (s.freeLaunch lid).joins = s.joins := rfl
@[simp] theorem State.freeLaunch_orphans (s : State) (lid : Nat) : (s.freeLaunch lid).orphans = s.orphans := rfl
@[simp] theorem State.freeLaunch_braids (s : State) (lid : Nat) : (s.freeLaunch lid).braids = s.braids := rfl
@[simp] theorem State.freeLaunch_gone (s : State) (lid : Nat) : (s.freeLaunch lid).gone = s.gone := rfl
@[simp] theorem State.freeLaunch_pushes (s : State) (lid : Nat) : (s.freeLaunch lid).pushes = s.pushes := rfl
@[simp] theorem State.freeLaunch_jobs (s : State) (lid : Nat) : (s.freeLaunch lid).jobs = s.jobs := rfl
@[simp] theorem State.freeLaunch_pipes (s : State) (lid : Nat) : (s.freeLaunch lid).pipes = s.pipes := rfl
@[simp] theorem State.freeLaunch_kvBufs (s : State) (lid : Nat) : (s.freeLaunch lid).kvBufs = s.kvBufs := rfl
@[simp] theorem State.freeLaunch_freed (s : State) (lid : Nat) : (s.freeLaunch lid).freed = s.freed := rfl
@[simp] theorem State.freeLaunch_ifaces (s : State) (lid : Nat) : (s.freeLaunch lid).ifaces = s.ifaces := rfl
@[simp] theorem State.freeLaunch_module (s : State) (lid : Nat) : (s.freeLaunch lid).module = s.module := rfl

/-! ### Results of a slot -/

@[simp] theorem Slot.deliver_id (m : Slot) (k : Nat) : (m.deliver k).id = m.id := rfl
@[simp] theorem Slot.deliver_busy (m : Slot) (k : Nat) : (m.deliver k).busy = m.busy := rfl
@[simp] theorem Slot.deliver_iface (m : Slot) (k : Nat) : (m.deliver k).iface = m.iface := rfl
@[simp] theorem Slot.deliver_steward (m : Slot) (k : Nat) : (m.deliver k).steward = m.steward := rfl
@[simp] theorem Slot.deliver_lvl (m : Slot) (k : Nat) : (m.deliver k).lvl = m.lvl := rfl
@[simp] theorem Slot.deliver_pre (m : Slot) (k : Nat) : (m.deliver k).pre = m.pre := rfl
@[simp] theorem Slot.deliver_ht (m : Slot) (k : Nat) : (m.deliver k).ht = m.ht := rfl
@[simp] theorem Slot.deliver_tk (m : Slot) (k : Nat) : (m.deliver k).tk = m.tk := rfl
@[simp] theorem Slot.deliver_bank1 (m : Slot) (k : Nat) : (m.deliver k).bank1 = m.bank1 := rfl
@[simp] theorem Slot.deliver_bank2 (m : Slot) (k : Nat) : (m.deliver k).bank2 = m.bank2 := rfl
@[simp] theorem Slot.deliver_ops (m : Slot) (k : Nat) : (m.deliver k).ops = m.ops := rfl
@[simp] theorem Slot.deliver_block (m : Slot) (k : Nat) : (m.deliver k).block = m.block := rfl
@[simp] theorem Slot.deliver_gapUntil (m : Slot) (k : Nat) : (m.deliver k).gapUntil = m.gapUntil := rfl
@[simp] theorem Slot.deliver_trapPend (m : Slot) (k : Nat) : (m.deliver k).trapPend = m.trapPend := rfl
@[simp] theorem Slot.deliver_grant (m : Slot) (k : Nat) : (m.deliver k).grant = m.grant := rfl
@[simp] theorem Slot.deliver_groups (m : Slot) (k : Nat) : (m.deliver k).groups = m.groups := rfl
@[simp] theorem Slot.deliver_spawnj (m : Slot) (k : Nat) : (m.deliver k).spawnj = m.spawnj := rfl
@[simp] theorem Slot.deliver_rerun (m : Slot) (k : Nat) : (m.deliver k).rerun = m.rerun := rfl
@[simp] theorem Slot.deliver_restart (m : Slot) (k : Nat) : (m.deliver k).restart = m.restart := rfl
@[simp] theorem Slot.deliver_window (m : Slot) (k : Nat) : (m.deliver k).window = m.window := rfl
@[simp] theorem Slot.deliver_accs (m : Slot) (k : Nat) : (m.deliver k).accs = m.accs := rfl
@[simp] theorem Slot.deliver_haccs (m : Slot) (k : Nat) : (m.deliver k).haccs = m.haccs := rfl
@[simp] theorem Slot.deliver_dog (m : Slot) (k : Nat) : (m.deliver k).dog = m.dog := rfl
@[simp] theorem Slot.deliver_dogHeld (m : Slot) (k : Nat) : (m.deliver k).dogHeld = m.dogHeld := rfl
@[simp] theorem Slot.deliver_dogHand (m : Slot) (k : Nat) : (m.deliver k).dogHand = m.dogHand := rfl
@[simp] theorem Slot.deliverAll_id (m : Slot) : (m.deliverAll).id = m.id := rfl
@[simp] theorem Slot.deliverAll_busy (m : Slot) : (m.deliverAll).busy = m.busy := rfl
@[simp] theorem Slot.deliverAll_iface (m : Slot) : (m.deliverAll).iface = m.iface := rfl
@[simp] theorem Slot.deliverAll_steward (m : Slot) : (m.deliverAll).steward = m.steward := rfl
@[simp] theorem Slot.deliverAll_lvl (m : Slot) : (m.deliverAll).lvl = m.lvl := rfl
@[simp] theorem Slot.deliverAll_pre (m : Slot) : (m.deliverAll).pre = m.pre := rfl
@[simp] theorem Slot.deliverAll_ht (m : Slot) : (m.deliverAll).ht = m.ht := rfl
@[simp] theorem Slot.deliverAll_tk (m : Slot) : (m.deliverAll).tk = m.tk := rfl
@[simp] theorem Slot.deliverAll_bank1 (m : Slot) : (m.deliverAll).bank1 = m.bank1 := rfl
@[simp] theorem Slot.deliverAll_bank2 (m : Slot) : (m.deliverAll).bank2 = m.bank2 := rfl
@[simp] theorem Slot.deliverAll_ops (m : Slot) : (m.deliverAll).ops = m.ops := rfl
@[simp] theorem Slot.deliverAll_block (m : Slot) : (m.deliverAll).block = m.block := rfl
@[simp] theorem Slot.deliverAll_gapUntil (m : Slot) : (m.deliverAll).gapUntil = m.gapUntil := rfl
@[simp] theorem Slot.deliverAll_trapPend (m : Slot) : (m.deliverAll).trapPend = m.trapPend := rfl
@[simp] theorem Slot.deliverAll_grant (m : Slot) : (m.deliverAll).grant = m.grant := rfl
@[simp] theorem Slot.deliverAll_groups (m : Slot) : (m.deliverAll).groups = m.groups := rfl
@[simp] theorem Slot.deliverAll_spawnj (m : Slot) : (m.deliverAll).spawnj = m.spawnj := rfl
@[simp] theorem Slot.deliverAll_rerun (m : Slot) : (m.deliverAll).rerun = m.rerun := rfl
@[simp] theorem Slot.deliverAll_restart (m : Slot) : (m.deliverAll).restart = m.restart := rfl
@[simp] theorem Slot.deliverAll_window (m : Slot) : (m.deliverAll).window = m.window := rfl
@[simp] theorem Slot.deliverAll_accs (m : Slot) : (m.deliverAll).accs = m.accs := rfl
@[simp] theorem Slot.deliverAll_haccs (m : Slot) : (m.deliverAll).haccs = m.haccs := rfl
@[simp] theorem Slot.deliverAll_dog (m : Slot) : (m.deliverAll).dog = m.dog := rfl
@[simp] theorem Slot.deliverAll_dogHeld (m : Slot) : (m.deliverAll).dogHeld = m.dogHeld := rfl
@[simp] theorem Slot.deliverAll_dogHand (m : Slot) : (m.deliverAll).dogHand = m.dogHand := rfl
@[simp] theorem Slot.writeTstat_id (m : Slot) (v : XWord) : (m.writeTstat v).id = m.id := rfl
@[simp] theorem Slot.writeTstat_busy (m : Slot) (v : XWord) : (m.writeTstat v).busy = m.busy := rfl
@[simp] theorem Slot.writeTstat_iface (m : Slot) (v : XWord) : (m.writeTstat v).iface = m.iface := rfl
@[simp] theorem Slot.writeTstat_steward (m : Slot) (v : XWord) : (m.writeTstat v).steward = m.steward := rfl
@[simp] theorem Slot.writeTstat_lvl (m : Slot) (v : XWord) : (m.writeTstat v).lvl = m.lvl := rfl
@[simp] theorem Slot.writeTstat_pre (m : Slot) (v : XWord) : (m.writeTstat v).pre = m.pre := rfl
@[simp] theorem Slot.writeTstat_ht (m : Slot) (v : XWord) : (m.writeTstat v).ht = m.ht := rfl
@[simp] theorem Slot.writeTstat_tk (m : Slot) (v : XWord) : (m.writeTstat v).tk = m.tk := rfl
@[simp] theorem Slot.writeTstat_bank1 (m : Slot) (v : XWord) : (m.writeTstat v).bank1 = m.bank1 := rfl
@[simp] theorem Slot.writeTstat_bank2 (m : Slot) (v : XWord) : (m.writeTstat v).bank2 = m.bank2 := rfl
@[simp] theorem Slot.writeTstat_pend (m : Slot) (v : XWord) : (m.writeTstat v).pend = m.pend := rfl
@[simp] theorem Slot.writeTstat_ops (m : Slot) (v : XWord) : (m.writeTstat v).ops = m.ops := rfl
@[simp] theorem Slot.writeTstat_block (m : Slot) (v : XWord) : (m.writeTstat v).block = m.block := rfl
@[simp] theorem Slot.writeTstat_gapUntil (m : Slot) (v : XWord) : (m.writeTstat v).gapUntil = m.gapUntil := rfl
@[simp] theorem Slot.writeTstat_trapPend (m : Slot) (v : XWord) : (m.writeTstat v).trapPend = m.trapPend := rfl
@[simp] theorem Slot.writeTstat_grant (m : Slot) (v : XWord) : (m.writeTstat v).grant = m.grant := rfl
@[simp] theorem Slot.writeTstat_groups (m : Slot) (v : XWord) : (m.writeTstat v).groups = m.groups := rfl
@[simp] theorem Slot.writeTstat_spawnj (m : Slot) (v : XWord) : (m.writeTstat v).spawnj = m.spawnj := rfl
@[simp] theorem Slot.writeTstat_rerun (m : Slot) (v : XWord) : (m.writeTstat v).rerun = m.rerun := rfl
@[simp] theorem Slot.writeTstat_restart (m : Slot) (v : XWord) : (m.writeTstat v).restart = m.restart := rfl
@[simp] theorem Slot.writeTstat_window (m : Slot) (v : XWord) : (m.writeTstat v).window = m.window := rfl
@[simp] theorem Slot.writeTstat_accs (m : Slot) (v : XWord) : (m.writeTstat v).accs = m.accs := rfl
@[simp] theorem Slot.writeTstat_haccs (m : Slot) (v : XWord) : (m.writeTstat v).haccs = m.haccs := rfl
@[simp] theorem Slot.writeTstat_dog (m : Slot) (v : XWord) : (m.writeTstat v).dog = m.dog := rfl
@[simp] theorem Slot.writeTstat_dogHeld (m : Slot) (v : XWord) : (m.writeTstat v).dogHeld = m.dogHeld := rfl
@[simp] theorem Slot.writeTstat_dogHand (m : Slot) (v : XWord) : (m.writeTstat v).dogHand = m.dogHand := rfl
@[simp] theorem Slot.setIdx_id (m : Slot) (b : Bool) : (m.setIdx b).id = m.id := rfl
@[simp] theorem Slot.setIdx_busy (m : Slot) (b : Bool) : (m.setIdx b).busy = m.busy := rfl
@[simp] theorem Slot.setIdx_iface (m : Slot) (b : Bool) : (m.setIdx b).iface = m.iface := rfl
@[simp] theorem Slot.setIdx_steward (m : Slot) (b : Bool) : (m.setIdx b).steward = m.steward := rfl
@[simp] theorem Slot.setIdx_lvl (m : Slot) (b : Bool) : (m.setIdx b).lvl = m.lvl := rfl
@[simp] theorem Slot.setIdx_pre (m : Slot) (b : Bool) : (m.setIdx b).pre = m.pre := rfl
@[simp] theorem Slot.setIdx_ht (m : Slot) (b : Bool) : (m.setIdx b).ht = m.ht := rfl
@[simp] theorem Slot.setIdx_tk (m : Slot) (b : Bool) : (m.setIdx b).tk = m.tk := rfl
@[simp] theorem Slot.setIdx_bank1 (m : Slot) (b : Bool) : (m.setIdx b).bank1 = m.bank1 := rfl
@[simp] theorem Slot.setIdx_bank2 (m : Slot) (b : Bool) : (m.setIdx b).bank2 = m.bank2 := rfl
@[simp] theorem Slot.setIdx_pend (m : Slot) (b : Bool) : (m.setIdx b).pend = m.pend := rfl
@[simp] theorem Slot.setIdx_ops (m : Slot) (b : Bool) : (m.setIdx b).ops = m.ops := rfl
@[simp] theorem Slot.setIdx_block (m : Slot) (b : Bool) : (m.setIdx b).block = m.block := rfl
@[simp] theorem Slot.setIdx_gapUntil (m : Slot) (b : Bool) : (m.setIdx b).gapUntil = m.gapUntil := rfl
@[simp] theorem Slot.setIdx_trapPend (m : Slot) (b : Bool) : (m.setIdx b).trapPend = m.trapPend := rfl
@[simp] theorem Slot.setIdx_grant (m : Slot) (b : Bool) : (m.setIdx b).grant = m.grant := rfl
@[simp] theorem Slot.setIdx_groups (m : Slot) (b : Bool) : (m.setIdx b).groups = m.groups := rfl
@[simp] theorem Slot.setIdx_spawnj (m : Slot) (b : Bool) : (m.setIdx b).spawnj = m.spawnj := rfl
@[simp] theorem Slot.setIdx_rerun (m : Slot) (b : Bool) : (m.setIdx b).rerun = m.rerun := rfl
@[simp] theorem Slot.setIdx_restart (m : Slot) (b : Bool) : (m.setIdx b).restart = m.restart := rfl
@[simp] theorem Slot.setIdx_window (m : Slot) (b : Bool) : (m.setIdx b).window = m.window := rfl
@[simp] theorem Slot.setIdx_accs (m : Slot) (b : Bool) : (m.setIdx b).accs = m.accs := rfl
@[simp] theorem Slot.setIdx_haccs (m : Slot) (b : Bool) : (m.setIdx b).haccs = m.haccs := rfl
@[simp] theorem Slot.setIdx_dog (m : Slot) (b : Bool) : (m.setIdx b).dog = m.dog := rfl
@[simp] theorem Slot.setIdx_dogHeld (m : Slot) (b : Bool) : (m.setIdx b).dogHeld = m.dogHeld := rfl
@[simp] theorem Slot.setIdx_dogHand (m : Slot) (b : Bool) : (m.setIdx b).dogHand = m.dogHand := rfl
@[simp] theorem Slot.setFmt_id (m : Slot) (b : Bool) : (m.setFmt b).id = m.id := rfl
@[simp] theorem Slot.setFmt_busy (m : Slot) (b : Bool) : (m.setFmt b).busy = m.busy := rfl
@[simp] theorem Slot.setFmt_iface (m : Slot) (b : Bool) : (m.setFmt b).iface = m.iface := rfl
@[simp] theorem Slot.setFmt_steward (m : Slot) (b : Bool) : (m.setFmt b).steward = m.steward := rfl
@[simp] theorem Slot.setFmt_lvl (m : Slot) (b : Bool) : (m.setFmt b).lvl = m.lvl := rfl
@[simp] theorem Slot.setFmt_pre (m : Slot) (b : Bool) : (m.setFmt b).pre = m.pre := rfl
@[simp] theorem Slot.setFmt_ht (m : Slot) (b : Bool) : (m.setFmt b).ht = m.ht := rfl
@[simp] theorem Slot.setFmt_tk (m : Slot) (b : Bool) : (m.setFmt b).tk = m.tk := rfl
@[simp] theorem Slot.setFmt_bank1 (m : Slot) (b : Bool) : (m.setFmt b).bank1 = m.bank1 := rfl
@[simp] theorem Slot.setFmt_bank2 (m : Slot) (b : Bool) : (m.setFmt b).bank2 = m.bank2 := rfl
@[simp] theorem Slot.setFmt_pend (m : Slot) (b : Bool) : (m.setFmt b).pend = m.pend := rfl
@[simp] theorem Slot.setFmt_ops (m : Slot) (b : Bool) : (m.setFmt b).ops = m.ops := rfl
@[simp] theorem Slot.setFmt_block (m : Slot) (b : Bool) : (m.setFmt b).block = m.block := rfl
@[simp] theorem Slot.setFmt_gapUntil (m : Slot) (b : Bool) : (m.setFmt b).gapUntil = m.gapUntil := rfl
@[simp] theorem Slot.setFmt_trapPend (m : Slot) (b : Bool) : (m.setFmt b).trapPend = m.trapPend := rfl
@[simp] theorem Slot.setFmt_grant (m : Slot) (b : Bool) : (m.setFmt b).grant = m.grant := rfl
@[simp] theorem Slot.setFmt_groups (m : Slot) (b : Bool) : (m.setFmt b).groups = m.groups := rfl
@[simp] theorem Slot.setFmt_spawnj (m : Slot) (b : Bool) : (m.setFmt b).spawnj = m.spawnj := rfl
@[simp] theorem Slot.setFmt_rerun (m : Slot) (b : Bool) : (m.setFmt b).rerun = m.rerun := rfl
@[simp] theorem Slot.setFmt_restart (m : Slot) (b : Bool) : (m.setFmt b).restart = m.restart := rfl
@[simp] theorem Slot.setFmt_window (m : Slot) (b : Bool) : (m.setFmt b).window = m.window := rfl
@[simp] theorem Slot.setFmt_accs (m : Slot) (b : Bool) : (m.setFmt b).accs = m.accs := rfl
@[simp] theorem Slot.setFmt_haccs (m : Slot) (b : Bool) : (m.setFmt b).haccs = m.haccs := rfl
@[simp] theorem Slot.setFmt_dog (m : Slot) (b : Bool) : (m.setFmt b).dog = m.dog := rfl
@[simp] theorem Slot.setFmt_dogHeld (m : Slot) (b : Bool) : (m.setFmt b).dogHeld = m.dogHeld := rfl
@[simp] theorem Slot.setFmt_dogHand (m : Slot) (b : Bool) : (m.setFmt b).dogHand = m.dogHand := rfl

/-! ### What is put where -/

@[simp] theorem State.slot_me (s : State) : s.slot s.me.id = s.me := by simp [State.slot]

@[simp] theorem State.coreAt_core (s : State) : s.coreAt s.core.id = s.core := by simp [State.coreAt]

theorem State.setSlot_of_me (s : State) (m : Slot) (h : m.id = s.me.id) : s.setSlot m = { s with me := m } := by
  simp [State.setSlot, h]

theorem State.setSlot_of_other (s : State) (m : Slot) (h : m.id ≠ s.me.id) :
    s.setSlot m = { s with slots := mset s.slots m.id m } := by simp [State.setSlot, h]

/-- The slot put back is the one found under its number. -/
@[simp] theorem State.slot_setSlot (s : State) (m : Slot) : (s.setSlot m).slot m.id = m := by
  by_cases h : m.id = s.me.id
  · simp [State.setSlot, State.slot, h]
  · simp [State.setSlot, State.slot, h]

/-- Another slot is as before. -/
theorem State.slot_setSlot_other (s : State) (m : Slot) {k : Nat} (h : k ≠ m.id) : (s.setSlot m).slot k = s.slot k := by
  by_cases hm : m.id = s.me.id
  · have h' : k ≠ s.me.id := hm ▸ h
    rw [State.setSlot_of_me _ _ hm]; simp [State.slot, h, h']
  · simp [State.setSlot, State.slot, hm, mget_mset_other _ _ h]

theorem State.setCore_of_core (s : State) (c : Core) (h : c.id = s.core.id) : s.setCore c = { s with core := c } := by
  simp [State.setCore, h]

@[simp] theorem State.coreAt_setCore (s : State) (c : Core) : (s.setCore c).coreAt c.id = c := by
  by_cases h : c.id = s.core.id
  · simp [State.setCore, State.coreAt, h]
  · simp [State.setCore, State.coreAt, h]

@[simp] theorem State.iface_setIface (s : State) (i : Nat) (f : Iface) : (s.setIface i f).iface i = f := by
  simp [State.iface, State.setIface]

theorem State.iface_setIface_other (s : State) {i k : Nat} (f : Iface) (h : k ≠ i) : (s.setIface i f).iface k = s.iface k := by
  simp [State.iface, State.setIface, mget_mset_other _ _ h]

@[simp] theorem Ctx.readX_writeX_same (c : Ctx) (d : BitVec 6) (v : XWord) (h : d.toNat < 56) : (c.writeX d v).readX d = v := by
  simp [Ctx.writeX, Ctx.readX, h]

theorem Ctx.writeX_discards (c : Ctx) (d : BitVec 6) (v : XWord) (h : 56 ≤ d.toNat) : c.writeX d v = c := by
  simp [Ctx.writeX, Nat.not_lt.2 h]

theorem Ctx.readX_writeX_other (c : Ctx) {r d : BitVec 6} (v : XWord) (h : r ≠ d) : (c.writeX d v).readX r = c.readX r := by
  have hn : r.toNat ≠ d.toNat := fun e => h (BitVec.eq_of_toNat_eq e)
  unfold Ctx.writeX; split
  · simp only [Ctx.readX, vget_vset_other _ _ _ hn]
  · rfl

end Sys2Proof.Machine
end

