-- ==== Sys2Proof/Laws/Ops.lean ====
section
/-! SUPPORT. What each shared operation can do, said once: how a meaning ends, issue, classes of operations, traps, branches,
the checks of an access, and the completion of an operation of the current slot. -/

namespace Sys2Proof.Machine

/-! ### How a meaning ends -/

@[simp] theorem finish_ok (s t : State) : finish s (.ok t) = .next t := rfl

@[simp] theorem finish_trap (s : State) (c sub : Nat) (v : XWord) :
    finish s (.error (.trap c sub v)) = .next (s.takeTrap s.me.id ⟨c, sub, v, s.me.ctx.pc, false⟩) := rfl

theorem finish_park (s : State) (b : Block) (h : ∀ i o f v, b ≠ .page i o f v) :
    finish s (.error (.park b)) = .next (s.parkMe b) := by
  cases b <;> first | rfl | exact absurd rfl (h _ _ _ _)

/-- A meaning never stops the machine: it gives a state, takes a trap or stalls. -/
theorem finish_next (s : State) (r : Res) : ∃ t, finish s r = .next t := by
  rcases r with (⟨c, sub, v⟩ | b) | t
  · exact ⟨_, rfl⟩
  · cases b <;> exact ⟨_, rfl⟩
  · exact ⟨t, rfl⟩

@[simp] theorem require_true (e : Stop) : require true e = .ok () := rfl

@[simp] theorem require_false (e : Stop) : require false e = .error e := rfl

theorem require_ok_iff (p : Bool) (e : Stop) : require p e = .ok () ↔ p = true := by cases p <;> simp [require]

theorem require_of {p : Bool} (e : Stop) (h : p = true) : require p e = .ok () := (require_ok_iff p e).2 h

theorem require_not {p : Bool} (e : Stop) (h : p = false) : require p e = .error e := by subst h; rfl

@[simp] theorem ok_bind {ε α β : Type} (a : α) (f : α → Except ε β) : (Except.ok a >>= f) = f a := rfl

@[simp] theorem error_bind {ε α β : Type} (e : ε) (f : α → Except ε β) : (Except.error e >>= f) = .error e := rfl

/-- A sequence that succeeds: its first part succeeded, and the rest does on what it gave. -/
theorem bind_eq_ok {ε α β : Type} {x : Except ε α} {f : α → Except ε β} {b : β} :
    (x >>= f) = .ok b ↔ ∃ a, x = .ok a ∧ f a = .ok b := by
  cases x with
  | error e => simp
  | ok a => simp

/-- The same where the first part only checks. -/
theorem check_bind_eq_ok {ε β : Type} {x : Except ε Unit} {f : Unit → Except ε β} {b : β} :
    (x >>= f) = .ok b ↔ x = .ok () ∧ f () = .ok b := by
  cases x with
  | error e => simp
  | ok a => simp

/-! ### Issue -/

theorem bits_marks (w : Word) : bits w.toNat 31 30 = (w.extractLsb' 30 2).toNat := by
  simp [bits, BitVec.extractLsb'_toNat, Nat.shiftRight_eq_div_pow]

theorem State.issuedTo_eq_jumps (s : State) (pc : BitVec 48) : s.issuedTo pc = s.jumps pc id := rfl

theorem State.issued_eq_passes (s : State) : s.issued = s.passes id := rfl

theorem State.produce_eq_results (s : State) (n : Nat) (w : RegWrite) (p : Bool) : s.produce n w p = s.results n w p := rfl

theorem State.issueOp_eq_starts (s : State) (k : Cls) (t : Task) (sp : List (Nat × Nat × Bool)) :
    s.issueOp k t sp = s.starts k t sp := rfl

theorem State.issuedPark_eq_passes (s : State) (b : Block) : s.issuedPark b = s.passes fun m => { m with block := some b } := rfl

@[simp] theorem State.jumps_pc (s : State) (pc : BitVec 48) : (s.jumps pc id).me.ctx.pc = pc := rfl

@[simp] theorem State.passes_pc (s : State) : (s.passes id).me.ctx.pc = s.me.ctx.pc + 4 := rfl

@[simp] theorem State.results_pend (s : State) (n : Nat) (w : RegWrite) (p : Bool) :
    (s.results n w p).me.pend = s.me.pend ++ [⟨s.core.cycle + n, w, p⟩] := rfl

@[simp] theorem State.starts_ops (s : State) (k : Cls) (t : Task) (sp : List (Nat × Nat × Bool)) :
    (s.starts k t sp).me.ops = s.me.ops ++ [⟨s.nextOp, k, s.me.lvl, s.ir, s.me.iface, s.me.ctx.r.lid, t, sp, false, [], false⟩] := rfl

@[simp] theorem State.passes_mem (s : State) (f : Slot → Slot) : (s.passes f).mem = s.mem := rfl

@[simp] theorem State.jumps_mem (s : State) (pc : BitVec 48) (f : Slot → Slot) : (s.jumps pc f).mem = s.mem := rfl

@[simp] theorem State.results_mem (s : State) (n : Nat) (w : RegWrite) (p : Bool) : (s.results n w p).mem = s.mem := rfl

@[simp] theorem State.starts_mem (s : State) (k : Cls) (t : Task) (sp : List (Nat × Nat × Bool)) :
    (s.starts k t sp).mem = s.mem := rfl

/-! ### Classes of operations -/

theorem State.room_ok {s : State} {k : Cls} (h : s.hasRoom k) : s.room k = .ok () :=
  require_of _ (decide_eq_true h)

theorem State.room_full {s : State} {k : Cls} (h : ¬s.hasRoom k) : s.room k = .error (.park (.room k)) :=
  require_not _ (decide_eq_false h)

theorem State.computeOnly_ok {s : State} (h : s.onCompute) : s.computeOnly = .ok () :=
  require_of _ (by simpa [State.onCompute] using h)

theorem State.taskOnly_ok {s : State} (h : s.me.lvl = 0) : s.taskOnly = .ok () :=
  require_of _ (by simp [Slot.mode, h]; split <;> decide)

/-! ### Traps -/

theorem State.enterTrap_eq_trapped (s : State) (c sub : Nat) (v : XWord) (p : BitVec 48) :
    s.enterTrap s.me.id ⟨c, sub, v, p, false⟩ = s.trapped c sub v p := by
  simp only [State.enterTrap, State.slot_me]
  refine (State.setSlot_of_me s _ ?_).trans ?_ <;> rfl

/-- A trap that nothing delays is entered at once. -/
theorem State.takeTrap_of_mayTrap {s : State} (h : s.mayTrap) (c sub : Nat) (v : XWord) (p : BitVec 48) :
    s.takeTrap s.me.id ⟨c, sub, v, p, false⟩ = s.trapped c sub v p := by
  simp only [State.takeTrap, State.slot_me, if_neg (Nat.not_le.2 h.1), h.2, if_true]
  exact s.enterTrap_eq_trapped c sub v p

/-- A trap that has to wait stands pending, and nothing else changes. -/
theorem State.takeTrap_pending {s : State} (h1 : s.me.lvl < 2) (t : TrapReq) (h2 : s.me.drained t.wd = false) :
    s.takeTrap s.me.id t = { s with me := { s.me with trapPend := some t } } := by
  simp only [State.takeTrap, State.slot_me, if_neg (Nat.not_le.2 h1), h2]
  exact State.setSlot_of_me _ _ rfl

theorem State.takeTrap_double {s : State} (h : 2 ≤ s.me.lvl) (t : TrapReq) :
    s.takeTrap s.me.id t = s.stewardRestart s.me.id 16 := by
  simp [State.takeTrap, h]

/-- A meaning that traps gives the state of the trap's entry. -/
theorem finish_trapped {s : State} (h : s.mayTrap) (c sub : Nat) (v : XWord) :
    finish s (.error (.trap c sub v)) = .next (s.trapped c sub v s.me.ctx.pc) := by
  rw [finish_trap, State.takeTrap_of_mayTrap h]

/-! ### Branches -/

theorem State.targetOk_iff (s : State) (t : Int) : s.targetOk t = true ↔ s.targetIn t := by
  simp only [State.targetOk, State.targetIn, Bool.and_eq_true, decide_eq_true_eq, beq_iff_eq]; tauto

theorem State.branch_in {s : State} {t : Int} (h : s.targetIn t) (p : Bool) :
    s.branch p t = .ok (if p then s.jumps (.ofInt 48 t) id else s.passes id) := by
  simp only [State.branch, require_of _ ((s.targetOk_iff t).2 h), ok_bind]; rfl

theorem State.branch_out {s : State} {t : Int} (h : ¬s.targetIn t) (p : Bool) :
    s.branch p t = .error (.trap 3 3 (.ofInt 64 t)) := by
  have : s.targetOk t = false := Bool.eq_false_iff.2 fun e => h ((s.targetOk_iff t).1 e)
  simp only [State.branch, require_not _ this, error_bind]; rfl

/-! ### The checks of an access -/

theorem State.checkTag_ok_iff (s : State) (c : Cap) (r : Rights) (v : Int) :
    s.checkTag c r v = .ok () ↔ c.tag = true ∧ s.kindOk c r.wr = true ∧ Cap.has c r = true := by
  simp only [State.checkTag, check_bind_eq_ok, require_ok_iff]

theorem State.checkCap_ok_iff (s : State) (c : Cap) (r : Rights) (e : Int) (n : Nat) :
    s.checkCap c r e n = .ok () ↔
      (c.tag = true ∧ s.kindOk c r.wr = true ∧ Cap.has c r = true) ∧ 0 ≤ e ∧ e + n ≤ c.len := by
  simp only [State.checkCap, check_bind_eq_ok, State.checkTag_ok_iff, require_ok_iff, inBounds, Bool.and_eq_true,
    decide_eq_true_eq]

/-- An access that is let through has passed every check, and its pieces are those it translates to. -/
theorem State.access_ok {s : State} {c : Cap} {r : Rights} {e : Int} {n align : Nat} {bad : List Nat} {noUn : Bool}
    {segs : List Seg} (h : s.access c r e n align bad noUn = .ok segs) :
    s.checkCap c r e n = .ok () ∧ e % align = 0 ∧ c.kind ∉ bad ∧ s.translate c e.toNat n r.wr e = .ok segs ∧
      (noUn = true → s.touchesUn c e.toNat n = false ∧ ∀ g ∈ segs, g.ord ≠ 2) ∧ s.board c e.toNat n r.wr = .ok () := by
  simp only [State.access, check_bind_eq_ok, require_ok_iff] at h
  obtain ⟨h1, h2, h3, h0, h⟩ := h
  obtain ⟨g, h4, h⟩ := bind_eq_ok.1 h
  simp only [check_bind_eq_ok, require_ok_iff, Except.ok.injEq] at h
  obtain ⟨h5, h6, rfl⟩ := h
  refine ⟨h1, by simpa using h2, by simpa using h3, h4, ?_, h6⟩
  rintro rfl
  refine ⟨by simpa using h0, fun x hx e => ?_⟩
  simp only [Bool.true_and, Bool.not_eq_true', List.any_eq_false] at h5
  exact h5 x hx (by simp [e])

/-- VLD, RED and REDV are let through with the pieces that they have as they issue. -/
theorem State.portAccess_ok {s : State} {c : Cap} {r : Rights} {e : Int} {n align : Nat} {bad : List Nat}
    {gs : List (Nat × Option Seg)} (h : s.portAccess c r e n align bad = .ok gs) :
    s.checkCap c r e n = .ok () ∧ e % align = 0 ∧ c.kind ∉ bad ∧
      s.portSegs c r.wr e (accessPieces c e.toNat n) = .ok gs ∧ s.board c e.toNat n r.wr = .ok () := by
  simp only [State.portAccess, check_bind_eq_ok, require_ok_iff] at h
  obtain ⟨h1, h2, h3, h⟩ := h
  obtain ⟨g, h4, h⟩ := bind_eq_ok.1 h
  simp only [check_bind_eq_ok, Except.ok.injEq] at h
  obtain ⟨h5, rfl⟩ := h
  exact ⟨h1, by simpa using h2, by simpa using h3, h4, h5⟩

/-! ### Lost frames, group operands, spill queues -/

theorem State.lost_none_iff (s : State) (segs : List Seg) : s.lost segs = none ↔ ∀ g ∈ segs, s.segLost g = false := by
  simp [State.lost]

theorem State.heldSegs_ok {s : State} {segs : List Seg} (h : s.lost segs = none) : s.heldSegs segs = .ok segs := by
  simp [State.heldSegs, h]

theorem State.withBar_ok {α : Type} {s : State} {b : Bar} (h : s.barLost b = none) (r : UnitRes α) : s.withBar b r = r := by
  simp [State.withBar, h]

@[simp] theorem State.barLost_none (s : State) : s.barLost none = none := rfl

@[simp] theorem heldBack_some (g : Seg) (todo : List Piece) (f : Piece → Bool) : heldBack (some g) todo f = false := rfl

/-- An object that passes its checks is the operand, whatever else is known of the word. -/
theorem State.groupOr_ok {s : State} {a : BitVec 4} {g : Seg} (h : s.groupSeg a = .ok g) (w : Bool) : s.groupOr a w = .ok g := by
  simp [State.groupOr, h]

/-- With nothing in a spill queue every port takes every element, none is kept for its turn, and none is in flight. -/
theorem State.accepts_of_nil {s : State} (h : s.spills = []) (k : Nat) (o : Op) (key : Nat) (c : Cap) (f : Nat) :
    s.accepts k o key c f = true := by
  simp [State.accepts, State.spillFull, State.spillQueue, h]

theorem State.heldVal_of_nil {s : State} (h : s.spills = []) (k id key : Nat) : s.heldVal k id key = none := by
  simp [State.heldVal, h]

theorem State.inFlight_of_nil {s : State} (h : s.spills = []) (k id : Nat) : s.inFlight k id = false := by
  simp [State.inFlight, h]

theorem State.stopOp_of_nil {s : State} (h : s.spills = []) (k id : Nat) : s.stopOp k id = s.dropOp k id := by
  simp [State.stopOp, State.inFlight_of_nil h]

@[simp] theorem State.undivert_mem (s : State) (k id key : Nat) : (s.undivert k id key).mem = s.mem := rfl
@[simp] theorem State.undivert_me (s : State) (k id key : Nat) : (s.undivert k id key).me = s.me := rfl
@[simp] theorem State.undivert_core (s : State) (k id key : Nat) : (s.undivert k id key).core = s.core := rfl
@[simp] theorem State.undivertAll_mem (s : State) (k id : Nat) : (s.undivertAll k id).mem = s.mem := rfl
@[simp] theorem State.undivertAll_me (s : State) (k id : Nat) : (s.undivertAll k id).me = s.me := rfl
@[simp] theorem State.holdVal_mem (s : State) (k id key : Nat) (v : Bool × Nat) : (s.holdVal k id key v).mem = s.mem := rfl
@[simp] theorem State.holdVal_me (s : State) (k id key : Nat) (v : Bool × Nat) : (s.holdVal k id key v).me = s.me := rfl

/-! ### Restarts -/

/-- What a restart outside steward mode can do: the restart state is enqueued, or its slot stalls with it while the ring is
full. -/
theorem State.restart_cases (s : State) (k : Nat) (h : (s.slot k).steward = none) :
    let t := (s.leaveGroups k).freeSlot k
    (t.restartFull k (s.slot k) = false ∧ s.restart k = t.enqueueRestart k (s.slot k)) ∨
    (t.restartFull k (s.slot k) = true ∧ s.restart k = t.setSlot (s.slot k).keepRestart) := by
  simp only [State.restart, h]
  cases ((s.leaveGroups k).freeSlot k).restartFull k (s.slot k) <;> simp

@[simp] theorem Slot.keepRestart_block (m : Slot) : m.keepRestart.block = some .restart := rfl
@[simp] theorem Slot.keepRestart_restart (m : Slot) : m.keepRestart.restart = m.restart := rfl
@[simp] theorem Slot.keepRestart_busy (m : Slot) : m.keepRestart.busy = true := rfl

/-! ### Completion -/

@[simp] theorem State.deposit_dead (s : State) (k : Nat) (w : RegWrite) : s.deposit k false w = s := rfl

theorem State.deposit_me (s : State) (w : RegWrite) :
    s.deposit s.me.id true w = { s with me := { s.me with ctx := s.me.ctx.write w } } := by
  simp only [State.deposit, if_true, State.onSlot, State.slot_me]
  exact State.setSlot_of_me _ _ rfl

theorem State.onSlot_me (s : State) (f : Slot → Slot) (h : (f s.me).id = s.me.id) :
    s.onSlot s.me.id f = { s with me := f s.me } := by
  simp only [State.onSlot, State.slot_me]; exact State.setSlot_of_me _ _ h

/-- The results of the current slot that are due become visible; nothing else changes. -/
theorem State.settleDue_me (s : State) :
    s.settleDue s.me.id = { s with me := s.me.deliver (s.coreAt (s.me.id / 128)).cycle } :=
  s.onSlot_me _ rfl

/-- An operation leaves its class: the slot's other operations, and everything but the spill queues and what a restart
left behind, stay. -/
theorem State.dropOp_me (s : State) (id : Nat) :
    s.dropOp s.me.id id = { s with
      me := { s.me with ops := s.me.ops.filter (·.id != id) }
      orphans := s.orphans.filter fun p => !(p.1 == s.me.id && p.2.id == id)
      spills := s.spills.filter fun p => !(p.slot == s.me.id && p.op == id) } := by
  simp only [State.dropOp]; rw [s.onSlot_me _ rfl]

theorem State.findOp_me {s : State} {id : Nat} {o : Op} (h : s.me.op? id = some o) : s.findOp s.me.id id = some (o, true) := by
  simp [State.findOp, h]

/-! ### Elements of a device's command -/

@[simp] theorem State.unspilled_mem (s : State) : s.unspilled.mem = s.mem := rfl
@[simp] theorem State.unspilled_me (s : State) : s.unspilled.me = s.me := rfl
@[simp] theorem State.unspilled_spills (s : State) : s.unspilled.spills = [] := rfl
@[simp] theorem State.respill_mem (t s : State) : (t.respill s).mem = t.mem := rfl
@[simp] theorem State.respill_me (t s : State) : (t.respill s).me = t.me := rfl

/-- Without diverted elements an element finds the state as it is. -/
theorem State.roomFor_of_nil {s : State} (h : s.spills = []) (k id key : Nat) : s.roomFor k id key = s := by
  simp [State.roomFor, State.diverted, h]

/-- An element's action that goes through is its action in the state as the element finds it, with the spill queues put back. -/
theorem State.asTaken_ok {α : Type} {s t : State} {k id key : Nat} {f : State → Except KErr (State × α)} {a : α}
    (h : s.asTaken k id key f = .ok (t, a)) : ∃ u, f (s.roomFor k id key) = .ok (u, a) ∧ t = u.respill s := by
  unfold State.asTaken at h
  split at h
  · next u b e => cases h; exact ⟨u, e, rfl⟩
  · cases h
  · cases h

/-- A lookup that the buffers answer, and one that neither they nor the walk finds. -/
theorem State.kvLookup_cached {s : State} {k i key : Nat} {ar : Arena} {h : Nat × Nat} (e : s.kvCached k i key = some h) :
    s.kvLookup k i ar key = .ok (s, some h) := by
  unfold State.kvLookup; rw [e]

theorem State.kvLookup_miss {s : State} {k i key : Nat} {ar : Arena} {v : KvWalk} (c : s.kvCached k i key = none)
    (w : s.kvWalk k i ar key = .ok v) (h : v.hit = none) : s.kvLookup k i ar key = .ok (s, none) := by
  unfold State.kvLookup; rw [c]; dsimp only; rw [w]; dsimp only [bind, Except.bind]; rw [h]

/-- What goes on with an answer goes on with it. -/
theorem bind_of_ok {ε α β : Type} {x : Except ε α} {a : α} (h : x = .ok a) (f : α → Except ε β) : (x >>= f) = f a := by rw [h]; rfl

/-- A fold whose every step appends one element. -/
theorem foldE_appends {ε α β : Type} {f : List β → α → Except ε (List β)} {p : α → β} (as : List α) (l : List β)
    (h : ∀ a ∈ as, ∀ l, f l a = .ok (l ++ [p a])) : foldE f l as = .ok (l ++ as.map p) := by
  induction as generalizing l with
  | nil => simp [foldE]
  | cons a as ih =>
    simp only [foldE, h a (by simp)]
    rw [ih _ fun b hb => h b (by simp [hb])]; simp

/-- An entry that is no link is all there is behind it. -/
theorem State.kvChain_plain {s : State} {k i off e : Nat} {ar : Arena} (fuel : Nat)
    (h : s.gread k i (arenaCap ar.oid) off 16 = .ok e) (g : keLink e = false) : s.kvChain k i ar (fuel + 1) off = .ok [(off, e)] :=
  (bind_of_ok h _).trans (if_neg (by simp [g]))

/-- The entries of a map without links are those of its table. -/
theorem State.kvEntries_plain {s : State} {k i : Nat} {ar : Arena} (f : Nat → Nat)
    (h : ∀ n, n < 2 ^ ar.mapLog → s.gread k i (arenaCap ar.oid) (ar.entryOff n) 16 = .ok (f n) ∧ keLink (f n) = false) :
    s.kvEntries k i ar = .ok ((List.range (2 ^ ar.mapLog)).map fun n => (ar.entryOff n, f n)) :=
  foldE_appends _ [] fun n hn _ => let g := h n (List.mem_range.1 hn)
    bind_of_ok (s.kvChain_plain 64 g.1 g.2) _

theorem Slot.op?_id {m : Slot} {id : Nat} {o : Op} (h : m.op? id = some o) : o.id = id := by
  simpa using List.find?_some h

end Sys2Proof.Machine
end

