-- ==== Sys2Proof/Laws/PerInstr.lean ====
section
/-! SUPPORT. Facts about each instruction as syntax: its word exists, with room for the marks. -/

namespace Sys2Proof.Laws.Encoding

/-- A well-formed instruction has a word whose bits [31:29], the places of the marks, are 0. -/
def Statement (i : Instr) : Prop := wellFormed i = true → ∃ n, encodeNat i = some n ∧ n < 2 ^ 29

theorem add (d : BitVec 6) (a : BitVec 6) (b : BitVec 6) : Statement (.add d a b) :=
  fun _ => ⟨_, rfl, by have := d.isLt; have := a.isLt; have := b.isLt; omega⟩
theorem sub (d : BitVec 6) (a : BitVec 6) (b : BitVec 6) : Statement (.sub d a b) :=
  fun _ => ⟨_, rfl, by have := d.isLt; have := a.isLt; have := b.isLt; omega⟩
theorem and (d : BitVec 6) (a : BitVec 6) (b : BitVec 6) : Statement (.and d a b) :=
  fun _ => ⟨_, rfl, by have := d.isLt; have := a.isLt; have := b.isLt; omega⟩
theorem or (d : BitVec 6) (a : BitVec 6) (b : BitVec 6) : Statement (.or d a b) :=
  fun _ => ⟨_, rfl, by have := d.isLt; have := a.isLt; have := b.isLt; omega⟩
theorem xor (d : BitVec 6) (a : BitVec 6) (b : BitVec 6) : Statement (.xor d a b) :=
  fun _ => ⟨_, rfl, by have := d.isLt; have := a.isLt; have := b.isLt; omega⟩
theorem andn (d : BitVec 6) (a : BitVec 6) (b : BitVec 6) : Statement (.andn d a b) :=
  fun _ => ⟨_, rfl, by have := d.isLt; have := a.isLt; have := b.isLt; omega⟩
theorem shl (d : BitVec 6) (a : BitVec 6) (b : BitVec 6) : Statement (.shl d a b) :=
  fun _ => ⟨_, rfl, by have := d.isLt; have := a.isLt; have := b.isLt; omega⟩
theorem shr (d : BitVec 6) (a : BitVec 6) (b : BitVec 6) : Statement (.shr d a b) :=
  fun _ => ⟨_, rfl, by have := d.isLt; have := a.isLt; have := b.isLt; omega⟩
theorem sar (d : BitVec 6) (a : BitVec 6) (b : BitVec 6) : Statement (.sar d a b) :=
  fun _ => ⟨_, rfl, by have := d.isLt; have := a.isLt; have := b.isLt; omega⟩
theorem min (d : BitVec 6) (a : BitVec 6) (b : BitVec 6) : Statement (.min d a b) :=
  fun _ => ⟨_, rfl, by have := d.isLt; have := a.isLt; have := b.isLt; omega⟩
theorem max (d : BitVec 6) (a : BitVec 6) (b : BitVec 6) : Statement (.max d a b) :=
  fun _ => ⟨_, rfl, by have := d.isLt; have := a.isLt; have := b.isLt; omega⟩
theorem minz (d : BitVec 6) (a : BitVec 6) (b : BitVec 6) : Statement (.minz d a b) :=
  fun _ => ⟨_, rfl, by have := d.isLt; have := a.isLt; have := b.isLt; omega⟩
theorem maxz (d : BitVec 6) (a : BitVec 6) (b : BitVec 6) : Statement (.maxz d a b) :=
  fun _ => ⟨_, rfl, by have := d.isLt; have := a.isLt; have := b.isLt; omega⟩
theorem slt (d : BitVec 6) (a : BitVec 6) (b : BitVec 6) : Statement (.slt d a b) :=
  fun _ => ⟨_, rfl, by have := d.isLt; have := a.isLt; have := b.isLt; omega⟩
theorem sltz (d : BitVec 6) (a : BitVec 6) (b : BitVec 6) : Statement (.sltz d a b) :=
  fun _ => ⟨_, rfl, by have := d.isLt; have := a.isLt; have := b.isLt; omega⟩
theorem seq (d : BitVec 6) (a : BitVec 6) (b : BitVec 6) : Statement (.seq d a b) :=
  fun _ => ⟨_, rfl, by have := d.isLt; have := a.isLt; have := b.isLt; omega⟩
theorem mul (d : BitVec 6) (a : BitVec 6) (b : BitVec 6) : Statement (.mul d a b) :=
  fun _ => ⟨_, rfl, by have := d.isLt; have := a.isLt; have := b.isLt; omega⟩
theorem mulh (d : BitVec 6) (a : BitVec 6) (b : BitVec 6) : Statement (.mulh d a b) :=
  fun _ => ⟨_, rfl, by have := d.isLt; have := a.isLt; have := b.isLt; omega⟩
theorem mulhz (d : BitVec 6) (a : BitVec 6) (b : BitVec 6) : Statement (.mulhz d a b) :=
  fun _ => ⟨_, rfl, by have := d.isLt; have := a.isLt; have := b.isLt; omega⟩
theorem div (d : BitVec 6) (a : BitVec 6) (b : BitVec 6) : Statement (.div d a b) :=
  fun _ => ⟨_, rfl, by have := d.isLt; have := a.isLt; have := b.isLt; omega⟩
theorem divz (d : BitVec 6) (a : BitVec 6) (b : BitVec 6) : Statement (.divz d a b) :=
  fun _ => ⟨_, rfl, by have := d.isLt; have := a.isLt; have := b.isLt; omega⟩
theorem rem (d : BitVec 6) (a : BitVec 6) (b : BitVec 6) : Statement (.rem d a b) :=
  fun _ => ⟨_, rfl, by have := d.isLt; have := a.isLt; have := b.isLt; omega⟩
theorem remz (d : BitVec 6) (a : BitVec 6) (b : BitVec 6) : Statement (.remz d a b) :=
  fun _ => ⟨_, rfl, by have := d.isLt; have := a.isLt; have := b.isLt; omega⟩
theorem clz (d : BitVec 6) (a : BitVec 6) : Statement (.clz d a) := fun _ => ⟨_, rfl, by have := d.isLt; have := a.isLt; omega⟩
theorem ctz (d : BitVec 6) (a : BitVec 6) : Statement (.ctz d a) := fun _ => ⟨_, rfl, by have := d.isLt; have := a.isLt; omega⟩
theorem popc (d : BitVec 6) (a : BitVec 6) : Statement (.popc d a) := fun _ => ⟨_, rfl, by have := d.isLt; have := a.isLt; omega⟩
theorem sext (d : BitVec 6) (a : BitVec 6) (p : BitVec 6) : Statement (.sext d a p) :=
  fun _ => ⟨_, rfl, by have := d.isLt; have := a.isLt; have := p.isLt; omega⟩
theorem zext (d : BitVec 6) (a : BitVec 6) (p : BitVec 6) : Statement (.zext d a p) :=
  fun _ => ⟨_, rfl, by have := d.isLt; have := a.isLt; have := p.isLt; omega⟩
theorem sel (d : BitVec 6) (a : BitVec 6) (b : BitVec 6) : Statement (.sel d a b) :=
  fun _ => ⟨_, rfl, by have := d.isLt; have := a.isLt; have := b.isLt; omega⟩
theorem bext (d : BitVec 6) (a : BitVec 6) (b : BitVec 6) : Statement (.bext d a b) :=
  fun _ => ⟨_, rfl, by have := d.isLt; have := a.isLt; have := b.isLt; omega⟩
theorem bins (d : BitVec 6) (a : BitVec 6) (b : BitVec 6) : Statement (.bins d a b) :=
  fun _ => ⟨_, rfl, by have := d.isLt; have := a.isLt; have := b.isLt; omega⟩
theorem addi (d : BitVec 6) (a : BitVec 6) (i : BitVec 10) : Statement (.addi d a i) :=
  fun _ => ⟨_, rfl, by have := d.isLt; have := a.isLt; have := i.isLt; omega⟩
theorem andi (d : BitVec 6) (a : BitVec 6) (i : BitVec 10) : Statement (.andi d a i) :=
  fun _ => ⟨_, rfl, by have := d.isLt; have := a.isLt; have := i.isLt; omega⟩
theorem ori (d : BitVec 6) (a : BitVec 6) (i : BitVec 10) : Statement (.ori d a i) :=
  fun _ => ⟨_, rfl, by have := d.isLt; have := a.isLt; have := i.isLt; omega⟩
theorem xori (d : BitVec 6) (a : BitVec 6) (i : BitVec 10) : Statement (.xori d a i) :=
  fun _ => ⟨_, rfl, by have := d.isLt; have := a.isLt; have := i.isLt; omega⟩
theorem shli (d : BitVec 6) (a : BitVec 6) (s : BitVec 6) : Statement (.shli d a s) :=
  fun _ => ⟨_, rfl, by have := d.isLt; have := a.isLt; have := s.isLt; omega⟩
theorem shri (d : BitVec 6) (a : BitVec 6) (s : BitVec 6) : Statement (.shri d a s) :=
  fun _ => ⟨_, rfl, by have := d.isLt; have := a.isLt; have := s.isLt; omega⟩
theorem sari (d : BitVec 6) (a : BitVec 6) (s : BitVec 6) : Statement (.sari d a s) :=
  fun _ => ⟨_, rfl, by have := d.isLt; have := a.isLt; have := s.isLt; omega⟩
theorem slti (d : BitVec 6) (a : BitVec 6) (i : BitVec 10) : Statement (.slti d a i) :=
  fun _ => ⟨_, rfl, by have := d.isLt; have := a.isLt; have := i.isLt; omega⟩
theorem sltzi (d : BitVec 6) (a : BitVec 6) (i : BitVec 10) : Statement (.sltzi d a i) :=
  fun _ => ⟨_, rfl, by have := d.isLt; have := a.isLt; have := i.isLt; omega⟩
theorem movi (d : BitVec 6) (i : BitVec 16) : Statement (.movi d i) := fun _ => ⟨_, rfl, by have := d.isLt; have := i.isLt; omega⟩
theorem movk0 (d : BitVec 6) (i : BitVec 16) : Statement (.movk0 d i) := fun _ => ⟨_, rfl, by have := d.isLt; have := i.isLt; omega⟩
theorem movk16 (d : BitVec 6) (i : BitVec 16) : Statement (.movk16 d i) := fun _ => ⟨_, rfl, by have := d.isLt; have := i.isLt; omega⟩
theorem movk32 (d : BitVec 6) (i : BitVec 16) : Statement (.movk32 d i) := fun _ => ⟨_, rfl, by have := d.isLt; have := i.isLt; omega⟩
theorem movk48 (d : BitVec 6) (i : BitVec 16) : Statement (.movk48 d i) := fun _ => ⟨_, rfl, by have := d.isLt; have := i.isLt; omega⟩
theorem fadd (d : BitVec 6) (a : BitVec 6) (b : BitVec 6) (r : BitVec 3) : Statement (.fadd d a b r) :=
  fun _ => ⟨_, rfl, by have := d.isLt; have := a.isLt; have := b.isLt; have := r.isLt; omega⟩
theorem fsub (d : BitVec 6) (a : BitVec 6) (b : BitVec 6) (r : BitVec 3) : Statement (.fsub d a b r) :=
  fun _ => ⟨_, rfl, by have := d.isLt; have := a.isLt; have := b.isLt; have := r.isLt; omega⟩
theorem fmul (d : BitVec 6) (a : BitVec 6) (b : BitVec 6) (r : BitVec 3) : Statement (.fmul d a b r) :=
  fun _ => ⟨_, rfl, by have := d.isLt; have := a.isLt; have := b.isLt; have := r.isLt; omega⟩
theorem ffma (d : BitVec 6) (a : BitVec 6) (b : BitVec 6) (r : BitVec 3) : Statement (.ffma d a b r) :=
  fun _ => ⟨_, rfl, by have := d.isLt; have := a.isLt; have := b.isLt; have := r.isLt; omega⟩
theorem fdiv (d : BitVec 6) (a : BitVec 6) (b : BitVec 6) (r : BitVec 3) : Statement (.fdiv d a b r) :=
  fun _ => ⟨_, rfl, by have := d.isLt; have := a.isLt; have := b.isLt; have := r.isLt; omega⟩
theorem fmin (d : BitVec 6) (a : BitVec 6) (b : BitVec 6) : Statement (.fmin d a b) :=
  fun _ => ⟨_, rfl, by have := d.isLt; have := a.isLt; have := b.isLt; omega⟩
theorem fmax (d : BitVec 6) (a : BitVec 6) (b : BitVec 6) : Statement (.fmax d a b) :=
  fun _ => ⟨_, rfl, by have := d.isLt; have := a.isLt; have := b.isLt; omega⟩
theorem fcmpEq (d : BitVec 6) (a : BitVec 6) (b : BitVec 6) : Statement (.fcmpEq d a b) :=
  fun _ => ⟨_, rfl, by have := d.isLt; have := a.isLt; have := b.isLt; omega⟩
theorem fcmpLt (d : BitVec 6) (a : BitVec 6) (b : BitVec 6) : Statement (.fcmpLt d a b) :=
  fun _ => ⟨_, rfl, by have := d.isLt; have := a.isLt; have := b.isLt; omega⟩
theorem fcmpLe (d : BitVec 6) (a : BitVec 6) (b : BitVec 6) : Statement (.fcmpLe d a b) :=
  fun _ => ⟨_, rfl, by have := d.isLt; have := a.isLt; have := b.isLt; omega⟩
theorem fcmpUn (d : BitVec 6) (a : BitVec 6) (b : BitVec 6) : Statement (.fcmpUn d a b) :=
  fun _ => ⟨_, rfl, by have := d.isLt; have := a.isLt; have := b.isLt; omega⟩
theorem fclass (d : BitVec 6) (a : BitVec 6) : Statement (.fclass d a) := fun _ => ⟨_, rfl, by have := d.isLt; have := a.isLt; omega⟩
theorem fcvt (d : BitVec 6) (a : BitVec 6) (f : BitVec 3) (t : BitVec 3) (r : BitVec 3) (s : BitVec 1) : Statement (.fcvt d a f t r s) :=
  fun _ => ⟨_, rfl, by have := d.isLt; have := a.isLt; have := f.isLt; have := t.isLt; have := r.isLt; have := s.isLt; omega⟩
theorem fsqrt (d : BitVec 6) (a : BitVec 6) (r : BitVec 3) : Statement (.fsqrt d a r) :=
  fun _ => ⟨_, rfl, by have := d.isLt; have := a.isLt; have := r.isLt; omega⟩
theorem fexp2 (d : BitVec 6) (a : BitVec 6) (r : BitVec 3) : Statement (.fexp2 d a r) :=
  fun _ => ⟨_, rfl, by have := d.isLt; have := a.isLt; have := r.isLt; omega⟩
theorem flog2 (d : BitVec 6) (a : BitVec 6) (r : BitVec 3) : Statement (.flog2 d a r) :=
  fun _ => ⟨_, rfl, by have := d.isLt; have := a.isLt; have := r.isLt; omega⟩
theorem frcp (d : BitVec 6) (a : BitVec 6) (r : BitVec 3) : Statement (.frcp d a r) :=
  fun _ => ⟨_, rfl, by have := d.isLt; have := a.isLt; have := r.isLt; omega⟩
theorem frsq (d : BitVec 6) (a : BitVec 6) (r : BitVec 3) : Statement (.frsq d a r) :=
  fun _ => ⟨_, rfl, by have := d.isLt; have := a.isLt; have := r.isLt; omega⟩
theorem cld (d : BitVec 4) (c : BitVec 4) (i : BitVec 10) : Statement (.cld d c i) :=
  fun _ => ⟨_, rfl, by have := d.isLt; have := c.isLt; have := i.isLt; omega⟩
theorem cst (s : BitVec 4) (c : BitVec 4) (i : BitVec 10) : Statement (.cst s c i) :=
  fun _ => ⟨_, rfl, by have := s.isLt; have := c.isLt; have := i.isLt; omega⟩
theorem cderive (d : BitVec 4) (a : BitVec 4) (b : BitVec 6) : Statement (.cderive d a b) :=
  fun _ => ⟨_, rfl, by have := d.isLt; have := a.isLt; have := b.isLt; omega⟩
theorem cseto (d : BitVec 4) (a : BitVec 4) (b : BitVec 6) : Statement (.cseto d a b) :=
  fun _ => ⟨_, rfl, by have := d.isLt; have := a.isLt; have := b.isLt; omega⟩
theorem caddo (d : BitVec 4) (a : BitVec 4) (b : BitVec 6) : Statement (.caddo d a b) :=
  fun _ => ⟨_, rfl, by have := d.isLt; have := a.isLt; have := b.isLt; omega⟩
theorem cgeto (d : BitVec 6) (a : BitVec 4) : Statement (.cgeto d a) := fun _ => ⟨_, rfl, by have := d.isLt; have := a.isLt; omega⟩
theorem cgetl (d : BitVec 6) (a : BitVec 4) : Statement (.cgetl d a) := fun _ => ⟨_, rfl, by have := d.isLt; have := a.isLt; omega⟩
theorem cdrop (d : BitVec 4) (a : BitVec 4) (b : BitVec 6) : Statement (.cdrop d a b) :=
  fun _ => ⟨_, rfl, by have := d.isLt; have := a.isLt; have := b.isLt; omega⟩
theorem ctag (d : BitVec 6) (a : BitVec 4) : Statement (.ctag d a) := fun _ => ⟨_, rfl, by have := d.isLt; have := a.isLt; omega⟩
theorem b (o : BitVec 22) : Statement (.b o) := fun _ => ⟨_, rfl, by have := o.isLt; omega⟩
theorem bl (o : BitVec 22) : Statement (.bl o) := fun _ => ⟨_, rfl, by have := o.isLt; omega⟩
theorem bx (a : BitVec 6) : Statement (.bx a) := fun _ => ⟨_, rfl, by have := a.isLt; omega⟩
theorem blx (d : BitVec 6) (a : BitVec 6) : Statement (.blx d a) := fun _ => ⟨_, rfl, by have := d.isLt; have := a.isLt; omega⟩
theorem beqz (a : BitVec 6) (o : BitVec 16) : Statement (.beqz a o) := fun _ => ⟨_, rfl, by have := a.isLt; have := o.isLt; omega⟩
theorem bnez (a : BitVec 6) (o : BitVec 16) : Statement (.bnez a o) := fun _ => ⟨_, rfl, by have := a.isLt; have := o.isLt; omega⟩
theorem bltz (a : BitVec 6) (o : BitVec 16) : Statement (.bltz a o) := fun _ => ⟨_, rfl, by have := a.isLt; have := o.isLt; omega⟩
theorem bgez (a : BitVec 6) (o : BitVec 16) : Statement (.bgez a o) := fun _ => ⟨_, rfl, by have := a.isLt; have := o.isLt; omega⟩
theorem beq (a : BitVec 6) (b : BitVec 6) (o : BitVec 10) : Statement (.beq a b o) :=
  fun _ => ⟨_, rfl, by have := a.isLt; have := b.isLt; have := o.isLt; omega⟩
theorem bne (a : BitVec 6) (b : BitVec 6) (o : BitVec 10) : Statement (.bne a b o) :=
  fun _ => ⟨_, rfl, by have := a.isLt; have := b.isLt; have := o.isLt; omega⟩
theorem blt (a : BitVec 6) (b : BitVec 6) (o : BitVec 10) : Statement (.blt a b o) :=
  fun _ => ⟨_, rfl, by have := a.isLt; have := b.isLt; have := o.isLt; omega⟩
theorem bge (a : BitVec 6) (b : BitVec 6) (o : BitVec 10) : Statement (.bge a b o) :=
  fun _ => ⟨_, rfl, by have := a.isLt; have := b.isLt; have := o.isLt; omega⟩
theorem bltn (a : BitVec 6) (b : BitVec 6) (o : BitVec 10) : Statement (.bltn a b o) :=
  fun _ => ⟨_, rfl, by have := a.isLt; have := b.isLt; have := o.isLt; omega⟩
theorem bgen (a : BitVec 6) (b : BitVec 6) (o : BitVec 10) : Statement (.bgen a b o) :=
  fun _ => ⟨_, rfl, by have := a.isLt; have := b.isLt; have := o.isLt; omega⟩
theorem lnset (n : BitVec 2) (c : BitVec 4) (x : BitVec 6) : Statement (.lnset n c x) :=
  fun _ => ⟨_, rfl, by have := n.isLt; have := c.isLt; have := x.isLt; omega⟩
theorem lnidx (n : BitVec 2) (d : BitVec 6) (j : BitVec 2) : Statement (.lnidx n d j) :=
  fun _ => ⟨_, rfl, by have := n.isLt; have := d.isLt; have := j.isLt; omega⟩
theorem lnadr (n : BitVec 2) (d : BitVec 6) (k : BitVec 2) : Statement (.lnadr n d k) :=
  fun _ => ⟨_, rfl, by have := n.isLt; have := d.isLt; have := k.isLt; omega⟩
theorem lnstep (n : BitVec 2) (o : BitVec 20) : Statement (.lnstep n o) := fun _ => ⟨_, rfl, by have := n.isLt; have := o.isLt; omega⟩
theorem spawn (x : BitVec 6) (j : BitVec 6) (o : BitVec 10) : Statement (.spawn x j o) :=
  fun _ => ⟨_, rfl, by have := x.isLt; have := j.isLt; have := o.isLt; omega⟩
theorem spawnReg (x : BitVec 6) (c : BitVec 6) (j : BitVec 6) : Statement (.spawnReg x c j) :=
  fun _ => ⟨_, rfl, by have := x.isLt; have := c.isLt; have := j.isLt; omega⟩
theorem spawnj (j : BitVec 6) (o : BitVec 16) : Statement (.spawnj j o) := fun _ => ⟨_, rfl, by have := j.isLt; have := o.isLt; omega⟩
theorem spawnjReg (c : BitVec 6) (j : BitVec 6) : Statement (.spawnjReg c j) := fun _ => ⟨_, rfl, by have := c.isLt; have := j.isLt; omega⟩
theorem launch (a : BitVec 4) : Statement (.launch a) := fun _ => ⟨_, rfl, by have := a.isLt; omega⟩
theorem lgrow (a : BitVec 6) : Statement (.lgrow a) := fun _ => ⟨_, rfl, by have := a.isLt; omega⟩
theorem prio (a : BitVec 6) : Statement (.prio a) := fun _ => ⟨_, rfl, by have := a.isLt; omega⟩
theorem join (a : BitVec 4) : Statement (.join a) := fun _ => ⟨_, rfl, by have := a.isLt; omega⟩
theorem leave (a : BitVec 4) : Statement (.leave a) := fun _ => ⟨_, rfl, by have := a.isLt; omega⟩
theorem gsync (a : BitVec 4) : Statement (.gsync a) := fun _ => ⟨_, rfl, by have := a.isLt; omega⟩
theorem ld (d : BitVec 6) (c : BitVec 4) (z : BitVec 2) (i : BitVec 10) : Statement (.ld d c z i) :=
  fun _ => ⟨_, rfl, by have := d.isLt; have := c.isLt; have := z.isLt; have := i.isLt; omega⟩
theorem ldZ (d : BitVec 6) (c : BitVec 4) (z : BitVec 2) (i : BitVec 10) : Statement (.ldZ d c z i) :=
  fun _ => ⟨_, rfl, by have := d.isLt; have := c.isLt; have := z.isLt; have := i.isLt; omega⟩
theorem st (s : BitVec 6) (c : BitVec 4) (z : BitVec 2) (i : BitVec 10) : Statement (.st s c z i) :=
  fun _ => ⟨_, rfl, by have := s.isLt; have := c.isLt; have := z.isLt; have := i.isLt; omega⟩
theorem ldx (d : BitVec 6) (c : BitVec 4) (z : BitVec 2) (x : BitVec 6) (e : BitVec 1) : Statement (.ldx d c z x e) :=
  fun _ => ⟨_, rfl, by have := d.isLt; have := c.isLt; have := z.isLt; have := x.isLt; have := e.isLt; omega⟩
theorem stx (s : BitVec 6) (c : BitVec 4) (z : BitVec 2) (x : BitVec 6) : Statement (.stx s c z x) :=
  fun _ => ⟨_, rfl, by have := s.isLt; have := c.isLt; have := z.isLt; have := x.isLt; omega⟩
theorem lda (d : BitVec 6) (c : BitVec 4) (z : BitVec 2) (x : BitVec 6) (p : BitVec 3) (e : BitVec 1) : Statement (.lda d c z x p e) :=
  fun _ => ⟨_, rfl, by have := d.isLt; have := c.isLt; have := z.isLt; have := x.isLt; have := p.isLt; have := e.isLt; omega⟩
theorem stl (s : BitVec 6) (c : BitVec 4) (z : BitVec 2) (x : BitVec 6) (p : BitVec 3) : Statement (.stl s c z x p) :=
  fun _ => ⟨_, rfl, by have := s.isLt; have := c.isLt; have := z.isLt; have := x.isLt; have := p.isLt; omega⟩
theorem pref (c : BitVec 4) (z : BitVec 2) (i : BitVec 10) : Statement (.pref c z i) :=
  fun _ => ⟨_, rfl, by have := c.isLt; have := z.isLt; have := i.isLt; omega⟩
theorem amo (o : BitVec 2) (d : BitVec 5) (s : BitVec 5) (c : BitVec 4) (p : BitVec 4) (i : BitVec 4) : Statement (.amo o d s c p i) :=
  fun _ => ⟨_, rfl, by have := o.isLt; have := d.isLt; have := s.isLt; have := c.isLt; have := p.isLt; have := i.isLt; omega⟩
theorem cas (d : BitVec 5) (s : BitVec 5) (c : BitVec 4) (i : BitVec 4) (o : BitVec 2) (f : BitVec 1) : Statement (.cas d s c i o f) :=
  fun _ => ⟨_, rfl, by have := d.isLt; have := s.isLt; have := c.isLt; have := i.isLt; have := o.isLt; have := f.isLt; omega⟩
theorem red (s : BitVec 6) (c : BitVec 4) (p : BitVec 4) (o : BitVec 1) (i : BitVec 6) : Statement (.red s c p o i) :=
  fun _ => ⟨_, rfl, by have := s.isLt; have := c.isLt; have := p.isLt; have := o.isLt; have := i.isLt; omega⟩
theorem redv (s : BitVec 5) (c : BitVec 4) (p : BitVec 4) (o : BitVec 1) (i : BitVec 6) : Statement (.redv s c p o i) :=
  fun _ => ⟨_, rfl, by have := s.isLt; have := c.isLt; have := p.isLt; have := o.isLt; have := i.isLt; omega⟩
theorem wait (l : BitVec 5) (s : BitVec 5) (c : BitVec 4) (t : BitVec 4) (h : BitVec 4) : Statement (.wait l s c t h) :=
  fun _ => ⟨_, rfl, by have := l.isLt; have := s.isLt; have := c.isLt; have := t.isLt; have := h.isLt; omega⟩
theorem knot (m : BitVec 5) (s : BitVec 3) : Statement (.knot m s) := fun _ => ⟨_, rfl, by have := m.isLt; have := s.isLt; omega⟩
theorem binit (c : BitVec 4) (x : BitVec 6) (i : BitVec 9) : Statement (.binit c x i) :=
  fun _ => ⟨_, rfl, by have := c.isLt; have := x.isLt; have := i.isLt; omega⟩
theorem barr (c : BitVec 4) (x : BitVec 6) (i : BitVec 9) : Statement (.barr c x i) :=
  fun _ => ⟨_, rfl, by have := c.isLt; have := x.isLt; have := i.isLt; omega⟩
theorem bwait (c : BitVec 4) (p : BitVec 1) (i : BitVec 9) : Statement (.bwait c p i) :=
  fun _ => ⟨_, rfl, by have := c.isLt; have := p.isLt; have := i.isLt; omega⟩
theorem btest (c : BitVec 4) (d : BitVec 6) (i : BitVec 9) : Statement (.btest c d i) :=
  fun _ => ⟨_, rfl, by have := c.isLt; have := d.isLt; have := i.isLt; omega⟩
theorem copy (d : BitVec 4) (s : BitVec 4) (x : BitVec 6) (b : BitVec 4) (i : BitVec 4) : Statement (.copy d s x b i) :=
  fun _ => ⟨_, rfl, by have := d.isLt; have := s.isLt; have := x.isLt; have := b.isLt; have := i.isLt; omega⟩
theorem copyM (d : BitVec 4) (s : BitVec 4) (x : BitVec 6) (b : BitVec 4) (i : BitVec 4) : Statement (.copyM d s x b i) :=
  fun _ => ⟨_, rfl, by have := d.isLt; have := s.isLt; have := x.isLt; have := b.isLt; have := i.isLt; omega⟩
theorem copyn (n : BitVec 2) (b : BitVec 4) (i : BitVec 4) : Statement (.copyn n b i) :=
  fun _ => ⟨_, rfl, by have := n.isLt; have := b.isLt; have := i.isLt; omega⟩
theorem copyt (c : BitVec 4) (x : BitVec 6) (t : BitVec 1) (b : BitVec 4) (i : BitVec 4) : Statement (.copyt c x t b i) :=
  fun _ => ⟨_, rfl, by have := c.isLt; have := x.isLt; have := t.isLt; have := b.isLt; have := i.isLt; omega⟩
theorem migr (c : BitVec 4) (x : BitVec 6) (b : BitVec 4) (i : BitVec 4) : Statement (.migr c x b i) :=
  fun _ => ⟨_, rfl, by have := c.isLt; have := x.isLt; have := b.isLt; have := i.isLt; omega⟩
theorem cred (d : BitVec 4) (s : BitVec 4) (x : BitVec 6) (f : BitVec 3) (b : BitVec 4) : Statement (.cred d s x f b) :=
  fun _ => ⟨_, rfl, by have := d.isLt; have := s.isLt; have := x.isLt; have := f.isLt; have := b.isLt; omega⟩
theorem copyr (d : BitVec 4) (s : BitVec 4) (x : BitVec 6) (b : BitVec 4) (i : BitVec 4) : Statement (.copyr d s x b i) :=
  fun _ => ⟨_, rfl, by have := d.isLt; have := s.isLt; have := x.isLt; have := b.isLt; have := i.isLt; omega⟩
theorem vadd (d : BitVec 5) (a : BitVec 5) (b : BitVec 5) (m : BitVec 4) (e : BitVec 3) : Statement (.vadd d a b m e) :=
  fun _ => ⟨_, rfl, by have := d.isLt; have := a.isLt; have := b.isLt; have := m.isLt; have := e.isLt; omega⟩
theorem vsub (d : BitVec 5) (a : BitVec 5) (b : BitVec 5) (m : BitVec 4) (e : BitVec 3) : Statement (.vsub d a b m e) :=
  fun _ => ⟨_, rfl, by have := d.isLt; have := a.isLt; have := b.isLt; have := m.isLt; have := e.isLt; omega⟩
theorem vmul (d : BitVec 5) (a : BitVec 5) (b : BitVec 5) (m : BitVec 4) (e : BitVec 3) : Statement (.vmul d a b m e) :=
  fun _ => ⟨_, rfl, by have := d.isLt; have := a.isLt; have := b.isLt; have := m.isLt; have := e.isLt; omega⟩
theorem vfma (d : BitVec 5) (a : BitVec 5) (b : BitVec 5) (m : BitVec 4) (e : BitVec 3) : Statement (.vfma d a b m e) :=
  fun _ => ⟨_, rfl, by have := d.isLt; have := a.isLt; have := b.isLt; have := m.isLt; have := e.isLt; omega⟩
theorem vmin (d : BitVec 5) (a : BitVec 5) (b : BitVec 5) (m : BitVec 4) (e : BitVec 3) : Statement (.vmin d a b m e) :=
  fun _ => ⟨_, rfl, by have := d.isLt; have := a.isLt; have := b.isLt; have := m.isLt; have := e.isLt; omega⟩
theorem vmax (d : BitVec 5) (a : BitVec 5) (b : BitVec 5) (m : BitVec 4) (e : BitVec 3) : Statement (.vmax d a b m e) :=
  fun _ => ⟨_, rfl, by have := d.isLt; have := a.isLt; have := b.isLt; have := m.isLt; have := e.isLt; omega⟩
theorem vand (d : BitVec 5) (a : BitVec 5) (b : BitVec 5) (m : BitVec 4) : Statement (.vand d a b m) :=
  fun _ => ⟨_, rfl, by have := d.isLt; have := a.isLt; have := b.isLt; have := m.isLt; omega⟩
theorem vor (d : BitVec 5) (a : BitVec 5) (b : BitVec 5) (m : BitVec 4) : Statement (.vor d a b m) :=
  fun _ => ⟨_, rfl, by have := d.isLt; have := a.isLt; have := b.isLt; have := m.isLt; omega⟩
theorem vxor (d : BitVec 5) (a : BitVec 5) (b : BitVec 5) (m : BitVec 4) : Statement (.vxor d a b m) :=
  fun _ => ⟨_, rfl, by have := d.isLt; have := a.isLt; have := b.isLt; have := m.isLt; omega⟩
theorem vshl (d : BitVec 5) (a : BitVec 5) (b : BitVec 5) (m : BitVec 4) (w : BitVec 2) : Statement (.vshl d a b m w) :=
  fun _ => ⟨_, rfl, by have := d.isLt; have := a.isLt; have := b.isLt; have := m.isLt; have := w.isLt; omega⟩
theorem vshr (d : BitVec 5) (a : BitVec 5) (b : BitVec 5) (m : BitVec 4) (w : BitVec 2) : Statement (.vshr d a b m w) :=
  fun _ => ⟨_, rfl, by have := d.isLt; have := a.isLt; have := b.isLt; have := m.isLt; have := w.isLt; omega⟩
theorem vcmp (d : BitVec 3) (a : BitVec 5) (b : BitVec 5) (c : BitVec 3) (e : BitVec 3) : Statement (.vcmp d a b c e) :=
  fun _ => ⟨_, rfl, by have := d.isLt; have := a.isLt; have := b.isLt; have := c.isLt; have := e.isLt; omega⟩
theorem vsel (d : BitVec 5) (a : BitVec 5) (b : BitVec 5) (m : BitVec 3) (e : BitVec 3) : Statement (.vsel d a b m e) :=
  fun _ => ⟨_, rfl, by have := d.isLt; have := a.isLt; have := b.isLt; have := m.isLt; have := e.isLt; omega⟩
theorem vcvt (d : BitVec 5) (a : BitVec 5) (f : BitVec 3) (t : BitVec 3) (r : BitVec 3) (s : BitVec 1) : Statement (.vcvt d a f t r s) :=
  fun _ => ⟨_, rfl, by have := d.isLt; have := a.isLt; have := f.isLt; have := t.isLt; have := r.isLt; have := s.isLt; omega⟩
theorem vred (d : BitVec 5) (a : BitVec 5) (o : BitVec 5) (m : BitVec 4) (e : BitVec 3) : Statement (.vred d a o m e) :=
  fun _ => ⟨_, rfl, by have := d.isLt; have := a.isLt; have := o.isLt; have := m.isLt; have := e.isLt; omega⟩
theorem vld (v : BitVec 5) (c : BitVec 4) (i : BitVec 10) : Statement (.vld v c i) :=
  fun _ => ⟨_, rfl, by have := v.isLt; have := c.isLt; have := i.isLt; omega⟩
theorem vst (v : BitVec 5) (c : BitVec 4) (i : BitVec 10) : Statement (.vst v c i) :=
  fun _ => ⟨_, rfl, by have := v.isLt; have := c.isLt; have := i.isLt; omega⟩
theorem vgath (v : BitVec 5) (c : BitVec 4) (x : BitVec 5) (e : BitVec 3) : Statement (.vgath v c x e) :=
  fun _ => ⟨_, rfl, by have := v.isLt; have := c.isLt; have := x.isLt; have := e.isLt; omega⟩
theorem vscat (v : BitVec 5) (c : BitVec 4) (x : BitVec 5) (e : BitVec 3) (a : BitVec 1) : Statement (.vscat v c x e a) :=
  fun _ => ⟨_, rfl, by have := v.isLt; have := c.isLt; have := x.isLt; have := e.isLt; have := a.isLt; omega⟩
theorem vbcast (d : BitVec 5) (x : BitVec 6) (e : BitVec 3) : Statement (.vbcast d x e) :=
  fun _ => ⟨_, rfl, by have := d.isLt; have := x.isLt; have := e.isLt; omega⟩
theorem vperm (d : BitVec 5) (a : BitVec 5) (b : BitVec 5) : Statement (.vperm d a b) :=
  fun _ => ⟨_, rfl, by have := d.isLt; have := a.isLt; have := b.isLt; omega⟩
theorem vexp2 (d : BitVec 5) (a : BitVec 5) (e : BitVec 3) : Statement (.vexp2 d a e) :=
  fun _ => ⟨_, rfl, by have := d.isLt; have := a.isLt; have := e.isLt; omega⟩
theorem vrcp (d : BitVec 5) (a : BitVec 5) (e : BitVec 3) : Statement (.vrcp d a e) :=
  fun _ => ⟨_, rfl, by have := d.isLt; have := a.isLt; have := e.isLt; omega⟩
theorem vbset (v : BitVec 5) (x : BitVec 6) : Statement (.vbset v x) := fun _ => ⟨_, rfl, by have := v.isLt; have := x.isLt; omega⟩
theorem vbtst (d : BitVec 3) (a : BitVec 5) (b : BitVec 5) (e : BitVec 3) : Statement (.vbtst d a b e) :=
  fun _ => ⟨_, rfl, by have := d.isLt; have := a.isLt; have := b.isLt; have := e.isLt; omega⟩
theorem vmatch (d : BitVec 3) (a : BitVec 5) (b : BitVec 5) : Statement (.vmatch d a b) :=
  fun _ => ⟨_, rfl, by have := d.isLt; have := a.isLt; have := b.isLt; omega⟩
theorem vmovxToX (x : BitVec 6) (v : BitVec 5) (l : BitVec 5) : Statement (.vmovxToX x v l) :=
  fun _ => ⟨_, rfl, by have := x.isLt; have := v.isLt; have := l.isLt; omega⟩
theorem vmovxToV (x : BitVec 6) (v : BitVec 5) (l : BitVec 5) : Statement (.vmovxToV x v l) :=
  fun _ => ⟨_, rfl, by have := x.isLt; have := v.isLt; have := l.isLt; omega⟩
theorem topk (d : BitVec 5) (a : BitVec 5) (k : BitVec 7) (e : BitVec 3) : Statement (.topk d a k e) :=
  fun _ => ⟨_, rfl, by have := d.isLt; have := a.isLt; have := k.isLt; have := e.isLt; omega⟩
theorem tmma (d : BitVec 2) (a : BitVec 4) (b : BitVec 4) : Statement (.tmma d a b) :=
  fun _ => ⟨_, rfl, by have := d.isLt; have := a.isLt; have := b.isLt; omega⟩
theorem tadd (d : BitVec 4) (a : BitVec 4) (b : BitVec 4) (r : BitVec 3) (s : BitVec 1) : Statement (.tadd d a b r s) :=
  fun _ => ⟨_, rfl, by have := d.isLt; have := a.isLt; have := b.isLt; have := r.isLt; have := s.isLt; omega⟩
theorem tmul (d : BitVec 4) (a : BitVec 4) (b : BitVec 4) (r : BitVec 3) (s : BitVec 1) : Statement (.tmul d a b r s) :=
  fun _ => ⟨_, rfl, by have := d.isLt; have := a.isLt; have := b.isLt; have := r.isLt; have := s.isLt; omega⟩
theorem tcvt (d : BitVec 4) (a : BitVec 4) (r : BitVec 3) (s : BitVec 1) : Statement (.tcvt d a r s) :=
  fun _ => ⟨_, rfl, by have := d.isLt; have := a.isLt; have := r.isLt; have := s.isLt; omega⟩
theorem ttrans (d : BitVec 4) (a : BitVec 4) (r : BitVec 3) (s : BitVec 1) : Statement (.ttrans d a r s) :=
  fun _ => ⟨_, rfl, by have := d.isLt; have := a.isLt; have := r.isLt; have := s.isLt; omega⟩
theorem tzero (d : BitVec 4) : Statement (.tzero d) := fun _ => ⟨_, rfl, by have := d.isLt; omega⟩
theorem tzeroAcc (d : BitVec 2) : Statement (.tzeroAcc d) := fun _ => ⟨_, rfl, by have := d.isLt; omega⟩
theorem trowmax (a : BitVec 2) (d : BitVec 5) : Statement (.trowmax a d) := fun _ => ⟨_, rfl, by have := a.isLt; have := d.isLt; omega⟩
theorem trowsum (a : BitVec 2) (d : BitVec 5) : Statement (.trowsum a d) := fun _ => ⟨_, rfl, by have := a.isLt; have := d.isLt; omega⟩
theorem tmovv (a : BitVec 2) (d : BitVec 5) (r : BitVec 7) : Statement (.tmovv a d r) :=
  fun _ => ⟨_, rfl, by have := a.isLt; have := d.isLt; have := r.isLt; omega⟩
theorem tdrain (a : BitVec 2) (r : BitVec 4) : Statement (.tdrain a r) := fun _ => ⟨_, rfl, by have := a.isLt; have := r.isLt; omega⟩
theorem tld (d : BitVec 4) (c : BitVec 4) (p : BitVec 6) (i : BitVec 8) : Statement (.tld d c p i) :=
  fun _ => ⟨_, rfl, by have := d.isLt; have := c.isLt; have := p.isLt; have := i.isLt; omega⟩
theorem tst (d : BitVec 4) (c : BitVec 4) (p : BitVec 6) (i : BitVec 8) : Statement (.tst d c p i) :=
  fun _ => ⟨_, rfl, by have := d.isLt; have := c.isLt; have := p.isLt; have := i.isLt; omega⟩
theorem mttc (t : BitVec 4) (x : BitVec 6) : Statement (.mttc t x) := fun _ => ⟨_, rfl, by have := t.isLt; have := x.isLt; omega⟩
theorem mftc (t : BitVec 4) (d : BitVec 6) : Statement (.mftc t d) := fun _ => ⟨_, rfl, by have := t.isLt; have := d.isLt; omega⟩
theorem tclaim (a : BitVec 2) : Statement (.tclaim a) := fun _ => ⟨_, rfl, by have := a.isLt; omega⟩
theorem tldn (d : BitVec 4) (n : BitVec 2) : Statement (.tldn d n) := fun _ => ⟨_, rfl, by have := d.isLt; have := n.isLt; omega⟩
theorem tgemm (a : BitVec 2) (p : BitVec 4) (q : BitVec 4) (n : BitVec 2) : Statement (.tgemm a p q n) :=
  fun _ => ⟨_, rfl, by have := a.isLt; have := p.isLt; have := q.isLt; have := n.isLt; omega⟩
theorem tsave (c : BitVec 4) : Statement (.tsave c) := fun _ => ⟨_, rfl, by have := c.isLt; omega⟩
theorem trest (c : BitVec 4) : Statement (.trest c) := fun _ => ⟨_, rfl, by have := c.isLt; omega⟩
theorem bgload (d : BitVec 6) (c : BitVec 4) : Statement (.bgload d c) := fun _ => ⟨_, rfl, by have := d.isLt; have := c.isLt; omega⟩
theorem bgrun (a : BitVec 6) (b : BitVec 6) (c : BitVec 4) (r : BitVec 4) : Statement (.bgrun a b c r) :=
  fun _ => ⟨_, rfl, by have := a.isLt; have := b.isLt; have := c.isLt; have := r.isLt; omega⟩
theorem bgfree (a : BitVec 6) : Statement (.bgfree a) := fun _ => ⟨_, rfl, by have := a.isLt; omega⟩
theorem bgstat (d : BitVec 6) (a : BitVec 6) : Statement (.bgstat d a) := fun _ => ⟨_, rfl, by have := d.isLt; have := a.isLt; omega⟩
theorem attn (c : BitVec 4) : Statement (.attn c) := fun _ => ⟨_, rfl, by have := c.isLt; omega⟩
theorem amerge (d : BitVec 4) (a : BitVec 4) (b : BitVec 4) : Statement (.amerge d a b) :=
  fun _ => ⟨_, rfl, by have := d.isLt; have := a.isLt; have := b.isLt; omega⟩
theorem summ (c : BitVec 4) (x : BitVec 6) : Statement (.summ c x) := fun _ => ⟨_, rfl, by have := c.isLt; have := x.isLt; omega⟩
theorem kvapp (c : BitVec 4) (x : BitVec 6) : Statement (.kvapp c x) := fun _ => ⟨_, rfl, by have := c.isLt; have := x.isLt; omega⟩
theorem kvmap (d : BitVec 6) (a : BitVec 6) : Statement (.kvmap d a) := fun _ => ⟨_, rfl, by have := d.isLt; have := a.isLt; omega⟩
theorem kvshoot (a : BitVec 6) (b : BitVec 6) : Statement (.kvshoot a b) := fun _ => ⟨_, rfl, by have := a.isLt; have := b.isLt; omega⟩
theorem sldh (d : BitVec 3) (c : BitVec 4) : Statement (.sldh d c) := fun _ => ⟨_, rfl, by have := d.isLt; have := c.isLt; omega⟩
theorem sst (s : BitVec 3) (c : BitVec 4) : Statement (.sst s c) := fun _ => ⟨_, rfl, by have := s.isLt; have := c.isLt; omega⟩
theorem smix (d : BitVec 3) (a : BitVec 6) (b : BitVec 6) : Statement (.smix d a b) :=
  fun _ => ⟨_, rfl, by have := d.isLt; have := a.isLt; have := b.isLt; omega⟩
theorem semb (d : BitVec 3) (s : BitVec 3) (c : BitVec 4) : Statement (.semb d s c) :=
  fun _ => ⟨_, rfl, by have := d.isLt; have := s.isLt; have := c.isLt; omega⟩
theorem scollMax (d : BitVec 3) (s : BitVec 3) : Statement (.scollMax d s) := fun _ => ⟨_, rfl, by have := d.isLt; have := s.isLt; omega⟩
theorem scollSmp (d : BitVec 3) (s : BitVec 3) (u : BitVec 6) : Statement (.scollSmp d s u) :=
  fun _ => ⟨_, rfl, by have := d.isLt; have := s.isLt; have := u.isLt; omega⟩
theorem sdig (d : BitVec 6) (s : BitVec 3) : Statement (.sdig d s) := fun _ => ⟨_, rfl, by have := d.isLt; have := s.isLt; omega⟩
theorem slog (s : BitVec 3) (c : BitVec 4) (x : BitVec 6) : Statement (.slog s c x) :=
  fun _ => ⟨_, rfl, by have := s.isLt; have := c.isLt; have := x.isLt; omega⟩
theorem sreplay (d : BitVec 3) (c : BitVec 4) (x : BitVec 6) : Statement (.sreplay d c x) :=
  fun _ => ⟨_, rfl, by have := d.isLt; have := c.isLt; have := x.isLt; omega⟩
theorem splfind (d : BitVec 6) (c : BitVec 4) (x : BitVec 6) : Statement (.splfind d c x) :=
  fun _ => ⟨_, rfl, by have := d.isLt; have := c.isLt; have := x.isLt; omega⟩
theorem splins (c : BitVec 4) (a : BitVec 6) (b : BitVec 6) : Statement (.splins c a b) :=
  fun _ => ⟨_, rfl, by have := c.isLt; have := a.isLt; have := b.isLt; omega⟩
theorem splref (a : BitVec 6) (b : BitVec 6) : Statement (.splref a b) := fun _ => ⟨_, rfl, by have := a.isLt; have := b.isLt; omega⟩
theorem plycut (a : BitVec 6) (k : BitVec 5) : Statement (.plycut a k) := fun _ => ⟨_, rfl, by have := a.isLt; have := k.isLt; omega⟩
theorem trap (i : BitVec 16) : Statement (.trap i) := fun _ => ⟨_, rfl, by have := i.isLt; omega⟩
theorem mfs (d : BitVec 6) (r : BitVec 12) : Statement (.mfs d r) := fun _ => ⟨_, rfl, by have := d.isLt; have := r.isLt; omega⟩
theorem mts (a : BitVec 6) (r : BitVec 12) : Statement (.mts a r) := fun _ => ⟨_, rfl, by have := a.isLt; have := r.isLt; omega⟩
theorem brk (i : BitVec 16) : Statement (.brk i) := fun _ => ⟨_, rfl, by have := i.isLt; omega⟩
theorem otinv (a : BitVec 6) : Statement (.otinv a) := fun _ => ⟨_, rfl, by have := a.isLt; omega⟩
theorem tlbinv (a : BitVec 6) (s : BitVec 3) : Statement (.tlbinv a s) := fun _ => ⟨_, rfl, by have := a.isLt; have := s.isLt; omega⟩
theorem illegalWord (w : Word) : Statement (.illegalWord w) := fun h => nomatch h
theorem resultVisible (slot : Nat) : Statement (.resultVisible slot) := fun h => nomatch h
theorem longOpComplete (slot : Nat) (op : Nat) : Statement (.longOpComplete slot op) := fun h => nomatch h
theorem endcRelease (slot : Nat) : Statement (.endcRelease slot) := fun h => nomatch h
theorem commitRetire (slot : Nat) : Statement (.commitRetire slot) := fun h => nomatch h
theorem completionActionResume (lid : Nat) : Statement (.completionActionResume lid) := fun h => nomatch h
theorem launchRegisterWrite (iface : Nat) (w : BarWrite) : Statement (.launchRegisterWrite iface w) := fun h => nomatch h
theorem launchIdAssign (n : Nat) : Statement (.launchIdAssign n) := fun h => nomatch h
theorem dispatch (core : Nat) : Statement (.dispatch core) := fun h => nomatch h
theorem starvationGuardArm (die : Nat) : Statement (.starvationGuardArm die) := fun h => nomatch h
theorem pageWalkReturn (slot : Nat) : Statement (.pageWalkReturn slot) := fun h => nomatch h
theorem pagePresentResume (slot : Nat) : Statement (.pagePresentResume slot) := fun h => nomatch h
theorem spillElementPerform (port : Nat) (n : Nat) : Statement (.spillElementPerform port n) := fun h => nomatch h
theorem chunkComplete (slot : Nat) (op : Nat) (n : Nat) : Statement (.chunkComplete slot op n) := fun h => nomatch h
theorem migrationSwitch (n : Nat) : Statement (.migrationSwitch n) := fun h => nomatch h
theorem shootdownComplete (n : Nat) : Statement (.shootdownComplete n) := fun h => nomatch h
theorem macroStep (slot : Nat) (op : Nat) : Statement (.macroStep slot op) := fun h => nomatch h
theorem apipeJobTake (die : Nat) (pipe : Nat) : Statement (.apipeJobTake die pipe) := fun h => nomatch h
theorem apipeBlockMerge (die : Nat) (pipe : Nat) (n : Nat) : Statement (.apipeBlockMerge die pipe n) := fun h => nomatch h
theorem frameReturn (n : Nat) : Statement (.frameReturn n) := fun h => nomatch h
theorem braidInputVector (die : Nat) (handle : Nat) : Statement (.braidInputVector die handle) := fun h => nomatch h
theorem braidVectorOutput (die : Nat) (handle : Nat) : Statement (.braidVectorOutput die handle) := fun h => nomatch h
theorem credGroupComplete (slot : Nat) (op : Nat) (n : Nat) : Statement (.credGroupComplete slot op n) := fun h => nomatch h
theorem preemptionRequest (slot : Nat) : Statement (.preemptionRequest slot) := fun h => nomatch h
theorem watchdogExpiry (slot : Nat) : Statement (.watchdogExpiry slot) := fun h => nomatch h
theorem watchdogHandlerTimeout (slot : Nat) : Statement (.watchdogHandlerTimeout slot) := fun h => nomatch h
theorem machineError (slot : Nat) : Statement (.machineError slot) := fun h => nomatch h
theorem idleWake (slot : Nat) : Statement (.idleWake slot) := fun h => nomatch h
theorem coreRetire (die : Nat) (core : Nat) : Statement (.coreRetire die core) := fun h => nomatch h
theorem powerHold (core : Nat) (cycles : Nat) : Statement (.powerHold core cycles) := fun h => nomatch h
theorem thermalHold (die : Nat) (cycles : Nat) : Statement (.thermalHold die cycles) := fun h => nomatch h
theorem interfaceConfigure (iface : Nat) (cfg : IfaceCfg) : Statement (.interfaceConfigure iface cfg) := fun h => nomatch h
theorem hostWindowWrite (iface : Nat) (off : Nat) (bytes : List Byte) : Statement (.hostWindowWrite iface off bytes) := fun h => nomatch h
theorem hostWindowRead (iface : Nat) (off : Nat) (size : Nat) : Statement (.hostWindowRead iface off size) := fun h => nomatch h
theorem ndoedLaneFail (port : Nat) : Statement (.ndoedLaneFail port) := fun h => nomatch h
theorem remoteRequest (r : RemoteReq) : Statement (.remoteRequest r) := fun h => nomatch h
theorem remoteAccessTimeout (slot : Nat) (op : Nat) : Statement (.remoteAccessTimeout slot op) := fun h => nomatch h
theorem cxlPortFail (port : Nat) : Statement (.cxlPortFail port) := fun h => nomatch h
theorem firmwareImageLoad (image : List Byte) (sig : List Byte) : Statement (.firmwareImageLoad image sig) := fun h => nomatch h
theorem abxLoad (args : LoadArgs) (file : List Byte) : Statement (.abxLoad args file) := fun h => nomatch h
theorem seqStep (iface : Nat) : Statement (.seqStep iface) := fun h => nomatch h
theorem interfaceReset (iface : Nat) : Statement (.interfaceReset iface) := fun h => nomatch h
theorem attestationRequest (nonce : List Byte) : Statement (.attestationRequest nonce) := fun h => nomatch h
theorem domainBringUp (dev : Nat) : Statement (.domainBringUp dev) := fun h => nomatch h
theorem dieTemperatureFall (die : Nat) : Statement (.dieTemperatureFall die) := fun h => nomatch h
theorem endc : Statement (.endc) := fun _ => ⟨_, rfl, by omega⟩
theorem commit : Statement (.commit) := fun _ => ⟨_, rfl, by omega⟩
theorem eret : Statement (.eret) := fun _ => ⟨_, rfl, by omega⟩
theorem idle : Statement (.idle) := fun _ => ⟨_, rfl, by omega⟩
theorem thermalShutdown : Statement (.thermalShutdown) := fun h => nomatch h
theorem capabilityListUpdate : Statement (.capabilityListUpdate) := fun h => nomatch h
theorem moduleReset : Statement (.moduleReset) := fun h => nomatch h

end Sys2Proof.Laws.Encoding
end

