-- ==== Sys2Proof/Tests/Slice0.lean ====
section
/-! SUPPORT. Tests: ill-formed terms, words of every row, single steps, and a witness for the hypotheses of every
statement that has some. -/

open Sys2Proof Sys2Proof.Machine

namespace Sys2Proof.Tests

set_option Elab.async false

/-! ### A small state -/

/-- An object of interface 0 with one 64 KiB page at a frame number, writable: its entry cached, its page in the TLB. -/
def withObject (s : State) (oid kind frame : Nat) : State :=
  { s with
    objects := mset s.objects oid (.ofNat 256 (1 * 2 ^ 213 + kind * 2 ^ 207 + 2 ^ 206 + 65536 * 2 ^ 144))
    tlb := ⟨0, 0, oid, 0, .ofNat 64 (2 ^ 63 + 2 ^ 60 + frame * 2 ^ 16 + 65535)⟩ :: s.tlb }

/-- A capability of an object of 64 KiB, or of the scratchpad, with every right. -/
def capOf (oid kind off : Nat) : Cap :=
  ⟨.ofNat 128 (oid * 2 ^ 96 + off * 2 ^ 48 + (if kind = 1 then 3 * 2 ^ 30 + 20 * 2 ^ 24 else 2 ^ 30 + 16 * 2 ^ 24) + 255 * 2 ^ 16 +
    kind * 2 ^ 12), true⟩

def withX (s : State) (r v : Nat) : State := { s with me := { s.me with ctx := { s.me.ctx with x := vset s.me.ctx.x r (.ofNat 64 v) } } }

def withC (s : State) (r : Nat) (c : Cap) : State := { s with me := { s.me with ctx := { s.me.ctx with c := vset s.me.ctx.c r c } } }

/-- A number written into object 1, the arena or the scratchpad of core 0. -/
def inData (s : State) (off n v : Nat) : State := { s with mem := s.mem.writes 0 (32 * 65536 + off) (bytesOf n v) }
def inArena (s : State) (off n v : Nat) : State := { s with mem := s.mem.writes 0 (48 * 65536 + off) (bytesOf n v) }
def inPad (s : State) (off n v : Nat) : State := { s with mem := s.mem.writes 0 (scratchPa 0 off) (bytesOf n v) }

def testCfg : IfaceCfg :=
  { objBase := 0, objCount := 0, keyLo := 0, keyHi := 0, ceiling := 9, watchdogUs := 2000, superCode := placedCode,
    superData := Cap.null, arena := some 4, window := some 1, faultRing := none, joinCap := 4096 }

/-- Slot 0 of core 0 runs a placed program under launch 0 of interface 0, with object 1 in c2 (kind 0), the scratchpad in
c3, object 1 as the launch's FRAME, and the arena object 4. -/
def base : State :=
  let s := withObject (withObject State.reset.placeProgram 1 0 32) 4 4 48
  withC (withC { s with
    ifaces := [(0, { Iface.zero with cfg := some testCfg })]
    launches := [(0, { placedLaunch with r := { placedLaunch.r with frame := capOf 1 0 0 } })] } 2 (capOf 1 0 0)) 3 (capOf 0 1 0)

/-- The state with one operation of the slot outstanding. -/
def withOp (s : State) (k : Cls) (t : Task) : State :=
  { s with nextOp := 8, me := { s.me with ops := [⟨7, k, s.me.lvl, 0, 0, 0, t, [], false, [], false⟩] } }

/-- The operation of `withOp`. -/
def opOf (s : State) (k : Cls) (t : Task) : Op := ⟨7, k, s.me.lvl, 0, 0, 0, t, [], false, [], false⟩

/-- The state with the slot in a handler at a level. -/
def inHandler (s : State) (n : Nat) : State := { s with me := { s.me with lvl := n } }

/-- The instruction answers a next state that meets a test. -/
def gives (i : Instr) (s : State) (p : State → Bool) : Bool := match exec i s with | .next t => p t | _ => false

/-- The results that the slot's last instruction left pending: latency, write, push. -/
def pending (s t : State) : List (Nat × RegWrite × Bool) := t.me.pend.map fun p => (p.at_ - s.core.cycle, p.wr, p.push)

/-! ### Ill-formed terms -/

/-- One term for each check of WellFormed, which refuses it. -/
theorem test_ill_formed_terms : [Instr.add 63 1 2, .add 56 1 2, .add 1 63 2, .fadd 1 2 3 5, .vadd 1 2 3 1 0, .copy 1 2 3 0 1,
    .copyr 1 2 3 4 0, .copyr 1 2 48 4 0, .mfs 1 2, .mts 1 0, .fcvt 1 2 7 0 0 0, .lnadr 0 1 3, .ldZ 1 2 3 4, .ldx 1 2 3 4 1,
    .lda 1 2 0 4 5 0, .stl 1 2 0 4 5, .vshl 1 2 3 0 3, .vred 1 2 3 0 0, .vbtst 1 2 3 1, .tgemm 0 1 2 0, .tgemm 0 13 2 0,
    .mttc 1 63, .illegalWord 0, .moduleReset].all (fun i => !wellFormed i) = true := by decide +kernel

/-! ### Words of spec/opcode_table.json, a word for each row: match, with its operands 1, 2, 3 … or as they must be -/

/-- Every word decodes to its instruction, and the encoder gives the word back. -/
def reads (l : List (Word × Instr)) : Bool :=
  l.all fun p => decide (decode p.1 = .ok p.2) && wellFormed p.2 && encode p.2 0 0 == some p.1

theorem test_decode_integer : reads [
    (0x00410830, .add 1 2 3),
    (0x00410831, .sub 1 2 3),
    (0x00410832, .and 1 2 3),
    (0x00410833, .or 1 2 3),
    (0x00410834, .xor 1 2 3),
    (0x00410835, .andn 1 2 3),
    (0x00410836, .shl 1 2 3),
    (0x00410837, .shr 1 2 3),
    (0x00410838, .sar 1 2 3),
    (0x00410839, .min 1 2 3),
    (0x0041083A, .max 1 2 3),
    (0x0041083B, .minz 1 2 3),
    (0x0041083C, .maxz 1 2 3),
    (0x0041083D, .slt 1 2 3),
    (0x0041083E, .sltz 1 2 3),
    (0x0041083F, .seq 1 2 3),
    (0x00810830, .mul 1 2 3),
    (0x00810831, .mulh 1 2 3),
    (0x00810832, .mulhz 1 2 3),
    (0x00810833, .div 1 2 3),
    (0x00810834, .divz 1 2 3),
    (0x00810835, .rem 1 2 3),
    (0x00810836, .remz 1 2 3),
    (0x00C10800, .clz 1 2),
    (0x00C10801, .ctz 1 2),
    (0x00C10802, .popc 1 2),
    (0x00C10833, .sext 1 2 3),
    (0x00C10834, .zext 1 2 3),
    (0x00C10835, .sel 1 2 3),
    (0x00C10836, .bext 1 2 3),
    (0x00C10837, .bins 1 2 3)] = true := by decide +kernel

theorem test_decode_immediate : reads [
    (0x04010803, .addi 1 2 3),
    (0x04410803, .andi 1 2 3),
    (0x04810803, .ori 1 2 3),
    (0x04C10803, .xori 1 2 3),
    (0x05010803, .shli 1 2 3),
    (0x05410803, .shri 1 2 3),
    (0x05810803, .sari 1 2 3),
    (0x05C10803, .slti 1 2 3),
    (0x06010803, .sltzi 1 2 3),
    (0x06410002, .movi 1 2),
    (0x06810002, .movk0 1 2),
    (0x06C10002, .movk16 1 2),
    (0x07010002, .movk32 1 2),
    (0x07410002, .movk48 1 2)] = true := by decide +kernel

theorem test_decode_float_and_capability : reads [
    (0x08010838, .fadd 1 2 3 4),
    (0x08410838, .fsub 1 2 3 4),
    (0x08810838, .fmul 1 2 3 4),
    (0x08C10838, .ffma 1 2 3 4),
    (0x09810838, .fdiv 1 2 3 4),
    (0x09010830, .fmin 1 2 3),
    (0x09010831, .fmax 1 2 3),
    (0x09010832, .fcmpEq 1 2 3),
    (0x09010833, .fcmpLt 1 2 3),
    (0x09010834, .fcmpLe 1 2 3),
    (0x09010835, .fcmpUn 1 2 3),
    (0x09010806, .fclass 1 2),
    (0x09410839, .fcvt 1 2 0 3 4 1),
    (0x09C10806, .fsqrt 1 2 3),
    (0x09C10886, .fexp2 1 2 3),
    (0x09C10906, .flog2 1 2 3),
    (0x09C10986, .frcp 1 2 3),
    (0x09C10A06, .frsq 1 2 3),
    (0x0A012C03, .cld 1 2 3),
    (0x0A412C03, .cst 1 2 3),
    (0x0A810830, .cderive 1 2 3),
    (0x0A810831, .cseto 1 2 3),
    (0x0A810832, .caddo 1 2 3),
    (0x0A810803, .cgeto 1 2),
    (0x0A810804, .cgetl 1 2),
    (0x0A810835, .cdrop 1 2 3),
    (0x0A810806, .ctag 1 2)] = true := by decide +kernel

theorem test_decode_control : reads [
    (0x0C000001, .b 1),
    (0x0C400001, .bl 1),
    (0x0C800400, .bx 1),
    (0x0CC10800, .blx 1 2),
    (0x0D010002, .beqz 1 2),
    (0x0D410002, .bnez 1 2),
    (0x0D810002, .bltz 1 2),
    (0x0DC10002, .bgez 1 2),
    (0x0E010803, .beq 1 2 3),
    (0x0E410803, .bne 1 2 3),
    (0x0E810803, .blt 1 2 3),
    (0x0EC10803, .bge 1 2 3),
    (0x0F010803, .bltn 1 2 3),
    (0x0F410803, .bgen 1 2 3),
    (0x0F908300, .lnset 1 2 3),
    (0x0F9402C0, .lnidx 1 2 3),
    (0x0F980280, .lnadr 1 2 2),
    (0x0FD00002, .lnstep 1 2)] = true := by decide +kernel

theorem test_decode_continuation_and_memory : reads [
    (0x10010803, .spawn 1 2 3),
    (0x10410830, .spawnReg 1 2 3),
    (0x10810002, .spawnj 1 2),
    (0x10C00420, .spawnjReg 1 2),
    (0x11000000, .endc),
    (0x11000001, .commit),
    (0x11000402, .launch 1),
    (0x11000403, .lgrow 1),
    (0x11000404, .prio 1),
    (0x11000405, .join 1),
    (0x11000406, .leave 1),
    (0x11000407, .gsync 1),
    (0x12012C04, .ld 1 2 3 4),
    (0x12412404, .ldZ 1 2 1 4),
    (0x12812C04, .st 1 2 3 4),
    (0x12C12848, .ldx 1 2 2 4 1),
    (0x13012C40, .stx 1 2 3 4),
    (0x13412847, .lda 1 2 2 4 3 1),
    (0x13812C46, .stl 1 2 3 4 3),
    (0x13C01803, .pref 1 2 3)] = true := by decide +kernel

theorem test_decode_atomic_and_copy : reads [
    (0x14443456, .amo 1 2 3 4 5 6),
    (0x1502234E, .cas 1 2 3 4 3 1),
    (0x15412385, .red 1 2 3 1 5),
    (0x154123C5, .redv 1 2 3 1 5),
    (0x15822345, .wait 1 2 3 4 5),
    (0x15C05000, .knot 1 2),
    (0x15C88403, .binit 1 2 3),
    (0x15D08403, .barr 1 2 3),
    (0x15D8C003, .bwait 1 1 3),
    (0x15E08403, .btest 1 2 3),
    (0x16048345, .copy 1 2 3 4 5),
    (0x16448345, .copyM 1 2 3 4 5),
    (0x16923000, .copyn 1 2 3),
    (0x16C42A28, .copyt 1 2 1 4 5),
    (0x17042340, .migr 1 2 3 4),
    (0x1744838A, .cred 1 2 3 4 5),
    (0x17848456, .copyr 1 2 4 5 6)] = true := by decide +kernel

theorem test_decode_vector : reads [
    (0x180221E5, .vadd 1 2 3 12 5),
    (0x18422185, .vsub 1 2 3 0 5),
    (0x188221ED, .vmul 1 2 3 13 5),
    (0x18C221F5, .vfma 1 2 3 14 5),
    (0x190221FD, .vmin 1 2 3 15 5),
    (0x194221C5, .vmax 1 2 3 8 5),
    (0x198221C8, .vand 1 2 3 9),
    (0x198221D1, .vor 1 2 3 10),
    (0x198221DA, .vxor 1 2 3 11),
    (0x19C221E1, .vshl 1 2 3 12 1),
    (0x19C221E6, .vshr 1 2 3 12 2),
    (0x1A0221C5, .vcmp 1 2 3 4 5),
    (0x1A4221E5, .vsel 1 2 3 4 5),
    (0x1A822724, .vcvt 1 2 3 4 4 1),
    (0x1AC220E5, .vred 1 2 1 12 5),
    (0x1B024003, .vld 1 2 3),
    (0x1B024803, .vst 1 2 3),
    (0x1B0250E0, .vgath 1 2 3 4),
    (0x1B0258E4, .vscat 1 2 3 4 1),
    (0x1B420203, .vbcast 1 2 3),
    (0x1B424430, .vperm 1 2 3),
    (0x1B428403, .vexp2 1 2 3),
    (0x1B42C403, .vrcp 1 2 3),
    (0x1B808400, .vbset 1 2),
    (0x1B9221D0, .vbtst 1 2 3 5),
    (0x1BA22180, .vmatch 1 2 3),
    (0x1BB02218, .vmovxToX 1 2 3),
    (0x1BB82218, .vmovxToV 1 2 3),
    (0x1BC22070, .topk 1 2 3 4)] = true := by decide +kernel

theorem test_decode_tile_engine_soft_system : reads [
    (0x1C048C00, .tmma 1 2 3),
    (0x1C448C24, .tadd 1 2 3 4 1),
    (0x1C448CA4, .tmul 1 2 3 4 1),
    (0x1C44811C, .tcvt 1 2 3 1),
    (0x1C44819C, .ttrans 1 2 3 1),
    (0x1C440200, .tzero 1),
    (0x1C440240, .tzeroAcc 1),
    (0x1C910000, .trowmax 1 2),
    (0x1C912000, .trowsum 1 2),
    (0x1C9140C0, .tmovv 1 2 3),
    (0x1CD20000, .tdrain 1 2),
    (0x1D048304, .tld 1 2 3 4),
    (0x1D448304, .tst 1 2 3 4),
    (0x1D808400, .mttc 1 2),
    (0x1D888400, .mftc 1 2),
    (0x1D920000, .tclaim 1),
    (0x1D98C000, .tldn 1 2),
    (0x1DA24B80, .tgemm 1 2 5 3),
    (0x1DA88000, .tsave 1),
    (0x1DB08000, .trest 1),
    (0x1E004800, .bgload 1 2),
    (0x1E104234, .bgrun 1 2 3 4),
    (0x1E204000, .bgfree 1),
    (0x1E304200, .bgstat 1 2),
    (0x1E808000, .attn 1),
    (0x1E889180, .amerge 1 2 3),
    (0x1E908400, .summ 1 2),
    (0x1E988400, .kvapp 1 2),
    (0x1EA02100, .kvmap 1 2),
    (0x1EA82100, .kvshoot 1 2),
    (0x1F009000, .sldh 1 2),
    (0x1F049000, .sst 1 2),
    (0x1F088418, .smix 1 2 3),
    (0x1F0CA300, .semb 1 2 3),
    (0x1F10A000, .scollMax 1 2),
    (0x1F10A860, .scollSmp 1 2 3),
    (0x1F141400, .sdig 1 2),
    (0x1F189060, .slog 1 2 3),
    (0x1F1C9060, .sreplay 1 2 3),
    (0x1F20120C, .splfind 1 2 3),
    (0x1F24420C, .splins 1 2 3),
    (0x1F281080, .splref 1 2),
    (0x1F2C1100, .plycut 1 2),
    (0x1F800001, .trap 1),
    (0x1F880000, .eret),
    (0x1F902013, .mfs 1 19),
    (0x1F982018, .mts 1 24),
    (0x1FA00001, .brk 1),
    (0x1FA80000, .idle),
    (0x1FB02000, .otinv 1),
    (0x1FB82800, .tlbinv 1 2)] = true := by decide +kernel

/-! ### Single steps -/

/-- 07 R111's table of quotients and remainders, and the low and high products. -/
theorem test_div_table : [(7, 0, 0xFFFFFFFFFFFFFFFF, 7, 0xFFFFFFFFFFFFFFFF, 7),
    (0xFFFFFFFFFFFFFFF9, 2, 0xFFFFFFFFFFFFFFFD, 0xFFFFFFFFFFFFFFFF, 0x7FFFFFFFFFFFFFFC, 1),
    (7, 0xFFFFFFFFFFFFFFFE, 0xFFFFFFFFFFFFFFFD, 1, 0, 7),
    (0x8000000000000000, 0xFFFFFFFFFFFFFFFF, 0x8000000000000000, 0, 0, 0x8000000000000000)].all (fun (x, y, q, r, q', r') =>
      let s := withX (withX base 2 x) 3 y
      let val (t : State) := t.me.ops.map (·.task)
      gives (.div 1 2 3) s (fun t => val t == [.value 1 (.ofNat 64 q)]) && gives (.rem 1 2 3) s (fun t => val t == [.value 1 (.ofNat 64 r)]) &&
      gives (.divz 1 2 3) s (fun t => val t == [.value 1 (.ofNat 64 q')]) &&
      gives (.remz 1 2 3) s (fun t => val t == [.value 1 (.ofNat 64 r')])) = true := by decide +kernel

theorem test_mulh_of_minus_one : gives (.mulh 1 2 2) (withX base 2 (2 ^ 64 - 1)) (fun t => pending base t == [(4, .x 1 0, true)]) &&
    gives (.mulhz 1 2 2) (withX base 2 (2 ^ 64 - 1)) (fun t => pending base t == [(4, .x 1 (.ofNat 64 (2 ^ 64 - 2)), true)]) = true := by
  decide +kernel

/-- 08 R114's example, its third step. -/
theorem test_movk_inserts : gives (.movk32 9 0x4567) (withX base 9 0xFFFFFFFF89ABCDEF)
    (fun t => pending base t == [(2, .x 9 0xFFFF456789ABCDEF, true)]) = true := by decide +kernel

theorem test_bins_at_the_top : gives (.bins 1 2 3) (withX (withX (withX base 1 0) 2 0xFF) 3 (60 + 7 * 256))
    (fun t => pending base t == [(2, .x 1 0xF000000000000000, true)]) = true := by decide +kernel

/-- 08 R116: (−1) × (+0) is −0; a sum that cancels is −0 under RDN only. -/
theorem test_float_zeros : gives (.fmul 1 2 3 0) (withX base 2 0xBF800000) (fun t => pending base t == [(4, .x 1 0x80000000, true)]) &&
    gives (.fsub 1 2 2 3) (withX base 2 0x3F800000) (fun t => pending base t == [(4, .x 1 0x80000000, true)]) &&
    gives (.fsub 1 2 2 0) (withX base 2 0x3F800000) (fun t => pending base t == [(4, .x 1 0, true)]) = true := by decide +kernel

/-- 13 R186's example: a length of 300,001 becomes 150,000 × 2. -/
theorem test_cderive_rounds_down : gives (.cderive 4 2 5) (withX (withC base 2 ⟨(capOf 1 0 0).raw ||| (25#128 <<< 24), true⟩) 5 300001)
    (fun t => t.me.pend.map (·.wr) == [.c 4 ⟨.ofNat 128 (2 ^ 96 + 150000 * 2 ^ 30 + 2 ^ 24 + 255 * 2 ^ 16), true⟩]) = true := by decide +kernel

/-- 06's notes: 512 in E4M3 is NaN with saturation off and 448 with it on or toward zero; 450 rounds to 448. -/
theorem test_e4m3_overflow : [(0x44000000, 0, 0, 0x7F), (0x44000000, 1, 0, 0x7E), (0x44000000, 0, 1, 0x7E), (0x43E10000, 0, 0, 0x7E)].all
    (fun (x, rm, sat, v) => fcvtVal 0 3 rm (sat == 1) (.ofNat 64 x) == .ofNat 64 v) = true := by decide +kernel

theorem test_branch_back : gives (.blt 5 6 0x3FD) (withX { base with me := { base.me with ctx := { base.me.ctx with pc := 12 } } } 6 1)
    (fun t => t.me.ctx.pc == 0) = true := by decide +kernel

theorem test_branch_out_of_bounds_traps : gives (.b 0x3FFFFF) base
    (fun t => t.me.lvl == 1 && t.me.bank1.cause == 0x303 && t.me.bank1.val == .ofInt 64 (-4)) = true := by decide +kernel

theorem test_load_sign_extends : gives (.longOpComplete 0 7) (withOp (inData base 65534 2 0x80FF) .L (.load [⟨32 * 65536 + 65534, 2, 1, false, 0, 65534⟩] true 3 false))
    (fun t => t.me.ctx.readX 3 == .ofInt 64 (-32513) && t.me.ops == []) = true := by decide +kernel

theorem test_store_is_little_endian : gives (.longOpComplete 0 7) (withOp base .S (.store [⟨32 * 65536, 4, 1, false, 0, 0⟩] (bytesOf 4 0x01020304) false))
    (fun t => t.mem.reads 0 (32 * 65536) 4 == [4, 3, 2, 1]) = true := by decide +kernel

/-- 10 R158: at EXPECTED the phase flips; above it ERR is set and the overshoot kept. -/
theorem test_barrier_overshoot : (arrive (3 + 2 * 2 ^ 40) 1, arrive (3 + 2 * 2 ^ 40) 2) =
    ((3 + 2 ^ 80, true), (3 + 2 ^ 40 + 2 ^ 80 + 2 ^ 81, true)) := by decide +kernel

/-- 16's notes: the order of TOPK for −0, +0, ties, infinities and NaNs. -/
theorem test_topk_order : (topOrder (etFmt 3) [0x4000, 0x7FC0, 0x4040, 0x8000, 0x4040, 0, 0xFFC1, 0x3F80, 0xFF80]) = [2, 4, 0, 7, 3, 5, 8, 1, 6] := by
  decide +kernel

/-- 15's example of a block product: −5 × 0.5, and with TYPE 01 −46.5 × 0.5. -/
theorem test_block_product :
    let tc : BitVec 28 := .ofNat 28 (120 * 2 ^ 20 + 0x10 * 2 ^ 10)
    let tile (b : Nat) : Tile := Tile.zero.setBlock 0 0 b
    [(0xF31F800010, 0xC0200000), (0xF35F800010, 0xC1BA0000)].all (fun (b, v) =>
      let u := mma Acc.zero (tile 0x749FC00010) (tile b) tc tc
      u.get 0 0 == v && u.m == 1 && u.n == 1) = true := by decide +kernel

/-- The next step runs a word put in place: ADDI x1, xz, 5. -/
theorem test_step_runs_a_placed_word :
    (match step (State.reset.withFetchWord 32 (0x10 * 2 ^ 22 + 1 * 2 ^ 16 + 60 * 2 ^ 10 + 5)) with
      | .next t => t.me.pend == [⟨3, .x 1 5, true⟩] && t.me.ctx.pc == 4
      | _ => false) = true := by decide +kernel

theorem test_illegal_word_traps : gives (.illegalWord 0) base (fun t => t.me.lvl == 1 && t.me.bank1.cause == 1 && t.me.bank1.tpc == 0) = true := by
  decide +kernel

theorem test_eret_restores : gives .eret { inHandler base 1 with me := { (inHandler base 1).me with bank1 := { Bank.zero with tpc := 40 } } }
    (fun t => t.me.lvl == 0 && t.me.ctx.pc == 40) = true := by decide +kernel

/-! ### Witnesses: each theorem shows states and operands that meet the hypotheses of the statement it is named after -/

/-- Pieces of object 1 and of the scratchpad of core 0. -/
def seg (off n : Nat) : List Seg := [⟨32 * 65536 + off, n, 1, false, 0, off⟩]
def padSeg (off n : Nat) : List Seg := [⟨scratchPa 0 off, n, 1, false, 0, off⟩]

/-- What a unit's translation answers. -/
def answersOk {α : Type} [DecidableEq α] (r : UnitRes α) (v : α) : Bool := match r with | .ok x => decide (x = v) | _ => false

theorem wit_EncodedWordDecodes : wellFormed (.add 55 62 62) = true ∧ wellFormed (.add 0 0 0) = true ∧ wellFormed (.plycut 47 31) = true ∧
    (0xE0430420#32).extractLsb' 0 29 = (0x00430420#32).extractLsb' 0 29 := by decide +kernel

theorem wit_DecodedWordEncodes : decode 0xE0430420#32 = .ok (.add 3 1 2) ∧ decode 0x00430420#32 = .ok (.add 3 1 2) := by decide +kernel

theorem wit_UnassignedMajorsRaiseIllegalInstruction :
    (∀ m ∈ [0x00, 0x04, 0x5F, 0x7F], ((BitVec.ofNat 32 (m * 2 ^ 22)).extractLsb' 22 7).toNat = m) ∧
    base.mayTrap ∧ (inHandler base 1).mayTrap := by decide +kernel

/-- A state whose next step fetches a word. -/
def placed (w : Nat) : State := base.withFetchWord 32 w

theorem wit_StepRunsTheDecodedWord :
    (∀ w ∈ [0x00430420, 0], (placed w).agenda = [] ∧ (placed w).module.boot ≠ .off ∧ (placed w).core.absent = false ∧
      (placed w).core.hold = 0 ∧ (placed w).choose.goes = true ∧ (placed w).choose.prepare.me.trapPend = none ∧
      (placed w).choose.prepare.fetch = .ok (.ofNat 32 w) ∧ (placed w).choose.prepare.time % 64 ≠ 0) ∧
    decode 0x00430420#32 = .ok (.add 3 1 2) ∧ decode 0#32 ≠ .ok (.add 3 1 2) := by decide +kernel

theorem wit_RegistersAndTheirResults : (0#6).toNat < 56 ∧ (55#6).toNat < 56 ∧ 56 ≤ (56#6).toNat ∧ 56 ≤ (63#6).toNat ∧ (0#6) ≠ 55 ∧ (30#5) ≠ 31 ∧
    (⟨3, .x 5 9, true⟩ : Pend).wr = .x 5 9 ∧
    (∀ p ∈ [(0x01, 56), (0x02, 61), (0x10, 59), (0x1D, 63)],
      ((BitVec.ofNat 32 (p.1 * 2 ^ 22 + p.2 * 2 ^ 16)).extractLsb' 22 7).toNat = p.1 ∧
      ((BitVec.ofNat 32 (p.1 * 2 ^ 22 + p.2 * 2 ^ 16)).extractLsb' 16 6).toNat = p.2) ∧
    (0x0040FC00#32).extractLsb' 10 6 = 63 ∧ (0x008003F0#32).extractLsb' 4 6 = 63 := by decide +kernel

/-- The state before a cycle, as IssueMovesByYieldAndBlocking tries slots in it. -/
def ahead (s : State) : State := { s.tick with core := { s.tick.core with cycle := s.core.cycle + 1 } }
def hubCore (s : State) : State := { s with core := { s.core with id := 256 } }
def yielded (s : State) : State := { s with core := { s.core with lastY := true } }
def parked (s : State) (b : Block) : State := { s with me := { s.me with block := some b } }

theorem wit_IssueMovesByYieldAndBlocking :
    base.core.id / 128 ≠ 2 ∧ (hubCore base).core.id / 128 = 2 ∧
    base.core.lastY = false ∧ (ahead base).blocked ((ahead base).numbered base.core.cur) = false ∧
    (yielded base).core.lastY = true ∧ (yielded base).choose.core.cur = 0 ∧
    (let s := parked base (.barrier 0); (ahead s).blocked ((ahead s).numbered s.core.cur) = true) ∧
    (let s := { base with ir := 0xC0000000 }
      let m := (s.passes id).me
      let t := { s with core := { s.core with cycle := 3 } }
      m.gapUntil = (s.passes id).me.gapUntil ∧ m.trapPend = none ∧ t.core.cycle ≤ s.core.cycle + (s.ir.extractLsb' 30 2).toNat) := by
  decide +kernel

theorem wit_ProductsAndQuotients : base.hasRoom .G ∧ (withX base 2 0).rx 2 = 0 ∧ (withX base 2 5).rx 2 ≠ 0 := by decide +kernel

/-- FCVT's formats, and values to convert to an integer: 1.5, 2 to the 127th, an infinity, a NaN. -/
theorem wit_ScalarFloatArithmetic : (0#3).toNat < 7 ∧ (6#3).toNat < 7 ∧ (4#3).toNat < 5 ∧ 5 ≤ (5#3).toNat ∧
    (match Sys2Proof.Num.decode .fp32 0x3FC00000 with | .fin n _ e => !n && decide (e < 0) | _ => false) = true ∧
    (match Sys2Proof.Num.decode .fp32 0xFF000000 with | .fin n _ e => n && decide (0 ≤ e) | _ => false) = true ∧
    Sys2Proof.Num.decode .fp32 0xFF800000 = .inf true ∧ (Sys2Proof.Num.decode .fp32 0x7F800001).isNan = true := by decide +kernel

theorem wit_RepresentableValuesKeepTheirCode :
    (∀ p ∈ [(Sys2Proof.Num.Fmt.fp32, 0x7F800000), (.fp32, 0), (.fp16, 0x8000), (.bf16, 0xFF7F), (.e4m3, 0xFE), (.e5m2, 0x7C)],
      p.2 < 2 ^ p.1.width ∧ (Sys2Proof.Num.decode p.1 p.2).isNan = false) ∧
    (Sys2Proof.Num.decode .e4m3 0xFE).isInf = false := by decide +kernel

theorem wit_FloatComparisons :
    (∀ w ∈ [0x09000007, 0x0900000F], (BitVec.ofNat 32 w).extractLsb' 22 7 = 0x24 ∧ 7 ≤ ((BitVec.ofNat 32 w).extractLsb' 0 4).toNat) ∧
    (0x09000016#32).extractLsb' 0 4 = 6 ∧ (0x09000016#32).extractLsb' 4 6 ≠ 0 ∧
    fpNan 0x7F800001 ∧ fpNan 0xFFFFFFFF ∧ ¬fpNan 0x7F800000 ∧ ¬fpNan 0xFF800000 ∧
    (∀ v ∈ [0x80800000, 0xFF7FFFFF], 0x80800000 ≤ v ∧ v < 0xFF800000) ∧ (∀ v ∈ [0x80000001, 0x807FFFFF], 0x80000000 < v ∧ v < 0x80800000) ∧
    (∀ v ∈ [1, 0x007FFFFF], 0 < v ∧ v < 0x00800000) ∧ (∀ v ∈ [0x00800000, 0x7F7FFFFF], 0x00800000 ≤ v ∧ v < 0x7F800000) ∧
    0x7F800001 / 2 ^ 22 % 2 = 0 ∧ 0x7FC00000 / 2 ^ 22 % 2 = 1 := by decide +kernel

theorem wit_FloatSpecialValues : base.hasRoom .G ∧ fpNan 0x7F800001 ∧ 0x80000000 % 2 ^ 31 = 0 ∧ 0xFF800000 % 2 ^ 31 = 0x7F800000 ∧
    (∀ v ∈ [1, 0xFF7FFFFF], 0 < v % 2 ^ 31 ∧ v % 2 ^ 31 < 0x7F800000) ∧
    (∀ v ∈ [0x80000001, 0xFF7FFFFF], 0x80000000 < v ∧ v < 0xFF800000) := by decide +kernel

/-- Object 1's capability without a tag, without DV. -/
def noTag : Cap := { capOf 1 0 0 with tag := false }
def noDv : Cap := ⟨(capOf 1 0 0).raw &&& ~~~(1#128 <<< 21), true⟩

theorem wit_CapabilityRegisterResults : base.mayTrap ∧ (base.rc 2).tag = true ∧ (base.rc 2).raw.getLsbD 21 = true ∧
    ((withX base 3 65536).rx 3).toNat ≤ (base.rc 2).len ∧ (base.rc 2).len < ((withX base 3 65537).rx 3).toNat ∧
    ((withC base 2 noTag).rc 2).tag = false ∧ ((withC base 2 noDv).rc 2).tag = true ∧
    ((withC base 2 noDv).rc 2).raw.getLsbD 21 = false := by decide +kernel

def atPc (s : State) (pc : BitVec 48) : State := { s with me := { s.me with ctx := { s.me.ctx with pc := pc } } }

theorem wit_BranchesGoToTheirTargets : base.targetIn 0 ∧ base.targetIn 65532 ∧
    (let s := atPc base 65532; s.targetIn ((s.me.ctx.pc.toNat : Int) + 4 * (0#22).toInt) ∧ s.targetIn ((s.me.ctx.pc.toNat : Int) + 4 * (0xC001#16).toInt) ∧
      s.targetIn ((s.me.ctx.pc.toNat : Int) + 4 * (0x200#10).toInt)) ∧
    base.mayTrap ∧ (∀ t ∈ [(-4 : Int), 2, 65533, 65536], ¬base.targetIn t) ∧
    ¬(atPc base 65532).targetIn ((65532 : Int) + 4 * (1#10).toInt) := by decide +kernel

/-- A nest record: three dimensions of 1, 2 and 3 points over one stream of c2, and one with three streams. -/
def nestRec1 : Nat := 2 + 1 * 4 + 2 * 16 + 1 * 2 ^ 16 + (1 + 2 * 2 ^ 32 + 3 * 2 ^ 64) * 2 ^ 64 + (256 + (8 * 2 ^ 32 + 16 * 2 ^ 64) * 2 ^ 64 + 4 * 2 ^ 224) * 2 ^ 192
def nestRec3 : Nat := 0 + 3 * 4 + (2 + 2 * 16 + 3 * 256) * 16 + (1 + 2 * 4 + 3 * 16) * 2 ^ 16 + 1 * 2 ^ 64 +
  ((4 * 2 ^ 224) * (1 + 2 ^ 256 + 2 ^ 512)) * 2 ^ 192

/-- A nest armed with a record, at indices. -/
def armed (r : Nat) (i : Vector Nat 4) : Nest := ⟨true, .ofNat 1024 r, #v[capOf 1 0 0, capOf 1 0 0, capOf 1 0 0], i⟩
def withN (s : State) (k : Nat) (n : Nest) : State := { s with me := { s.me with ctx := { s.me.ctx with n := vset s.me.ctx.n k n } } }

theorem wit_LoopNests :
    (∀ r ∈ [nestRec1, nestRec3], let s := inData base 1024 128 r; let x := withX s 5 1024
      x.onCompute ∧ x.access (x.rc 2) { rd := true } (((x.rc 2).off : Int) + (x.rx 5).toInt) 128 8 [] false = .ok (seg 1024 128) ∧
      x.syncAccess (seg 1024 128) false = .ok () ∧ nestOk (x.readNat (seg 1024 128)) = true ∧
      ∀ k, k < nestStreams r → nestCheck (x.rc (.ofNat 4 (r / 2 ^ (4 + 4 * k) % 16))) (x.readNat (seg 1024 128)) k = .ok ()) ∧
    nestStreams nestRec1 = 1 ∧ nestStreams nestRec3 = 3 ∧
    (let s := withN base 0 (armed nestRec1 #v[0, 1, 0, 0]); (s.rn 0).armed = true ∧ s.targetIn 0 ∧
      (∀ i, i < 2 → nestRec1 / 2 ^ (64 + 32 * i) % 2 ^ 32 ≤ (s.rn 0).i i + 1) ∧ (s.rn 0).i 2 + 1 < nestRec1 / 2 ^ (64 + 32 * 2) % 2 ^ 32 ∧
      0 < (s.rn 0).par.toNat / 4 % 4) ∧
    (let s := withN base 3 (armed nestRec1 #v[0, 1, 2, 0]); (s.rn 3).armed = true ∧
      ∀ i, i ≤ 2 → nestRec1 / 2 ^ (64 + 32 * i) % 2 ^ 32 ≤ (s.rn 3).i i + 1) := by decide +kernel

/-- The launch of `base`. -/
def baseLaunch : Launch := { placedLaunch with r := { placedLaunch.r with frame := capOf 1 0 0 } }
def withDeque (s : State) (n : Nat) : State := { s with core := { s.core with deque := List.replicate n placedRec } }
def withLaunch (s : State) (l : Launch) : State := { s with launches := [(0, l)] }
def withRec (s : State) (r : Rec) : State := { s with me := { s.me with ctx := { s.me.ctx with r := r } } }

theorem wit_SpawnPushesARecord : (∀ n ∈ [0, 63, 64], let s := withDeque base n;
    s.me.lvl = 0 ∧ s.launch? s.me.ctx.r.lid = some baseLaunch ∧ s.targetIn 0 ∧ s.targetIn 65532 ∧
    ∀ h ∈ s.core.deque.head?, (s.queue (s.core.id / 128) h.prio.toNat).length < 256 + s.module.ring) := by decide +kernel

theorem wit_SpawnjRegistersAWaitingRecord :
    (∀ v ∈ [0, 3], let s := inData base 32 8 v;
      s.me.lvl = 0 ∧ s.launch? s.me.ctx.r.lid = some baseLaunch ∧ s.targetIn 0 ∧ s.targetIn 65532 ∧
      s.joinSegs baseLaunch.r.frame (s.me.ctx.r.foff.toNat + 32) = .ok (seg 32 8) ∧ s.syncAccess (seg 32 8) false = .ok () ∧
      s.me.rerun = false ∧ s.me.spawnj.length < 16 ∧ (∀ e ∈ s.joins, e.pa ≠ segsPa s (seg 32 8)) ∧
      (s.joins.filter (·.iface == s.me.iface)).length < (match s.cfg s.me.iface with | some f => f.joinCap | none => 65536) ∧
      s.readNat (seg 32 8) = v ∧ (s.queue (s.me.id / 16384) s.me.ctx.r.prio.toNat).length < 256 + s.module.ring) ∧
    (let s := { base with me := { base.me with rerun := true, spawnj := [(0, 32)] } };
      s.me.rerun = true ∧ (s.me.ctx.pc.toNat, 32) ∈ s.me.spawnj ∧ (s.me.ctx.pc.toNat, 40) ∉ s.me.spawnj ∧
      s.joinSegs baseLaunch.r.frame 40 = .ok (seg 40 8)) := by decide +kernel

/-- A launch record of two continuations, with its tags, at offset 2048 of object 1. -/
def launchWord (next : Nat) : Nat := placedCode.raw.toNat + (capOf 1 0 0).raw.toNat * 2 ^ 128 + 2 * 2 ^ 256 + next * 2 ^ 288
def launchState (next : Nat) : State :=
  let s := withC (inData base 2048 64 (launchWord next)) 4 (capOf 1 0 2048)
  { s with mem := (s.mem.setTag (32 * 65536 + 2048) true).setTag (32 * 65536 + 2064) true }

theorem wit_LaunchControl :
    (∀ n ∈ [0, 2], let s := launchState n; let c := s.rc 4; let shows := c.cl && c.kind != 2; let segs := seg 2048 64;
      s.me.lvl = 0 ∧ s.hasRoom .C ∧ s.access c { rd := true } c.off 64 64 [] false = .ok segs ∧ s.syncAccess segs false = .ok () ∧
      launchRefuses (s.readNat segs)
        (launchRec (s.readNat segs) (shows && s.mem.tag (segsPa s segs)) (shows && s.mem.tag (segsPa s segs + 16))) = none ∧
      s.freeLid = some 1) ∧
    (∀ x ∈ [0, 1, 2 ^ 32 - 2], let s := withX base 5 x; s.launch? s.me.ctx.r.lid = some baseLaunch ∧ baseLaunch.complete = false ∧
      baseLaunch.r.count.toNat + (s.rx 5).toNat % 2 ^ 32 < 2 ^ 32) ∧
    baseLaunch.r.next = baseLaunch.r.count ∧ (base.queue baseLaunch.home baseLaunch.r.prio.toNat).length < 256 + base.module.ring ∧
    (let l := { baseLaunch with r := { baseLaunch.r with count := 4 } }; (withLaunch base l).launch? 0 = some l ∧ l.r.next ≠ l.r.count) ∧
    ((withX base 5 15).rx 5).toNat ≤ 15 ∧ base.cfg base.me.iface = some testCfg ∧ testCfg.ceiling ≤ 15 := by decide +kernel

theorem wit_ContinuationEndsAndCommits :
    (let l := { baseLaunch with live := 2 }; let s := withLaunch base l;
      s.me.lvl = 0 ∧ s.launch? s.me.ctx.r.lid = some l ∧ (∀ o ∈ s.me.ops, o.lvl ≠ 0) ∧ s.me.ctx.r.join = .allOnes 32 ∧ s.me.groups = [] ∧ l.live ≠ 1 ∧
      s.lost (s.me.groups.map (·.seg)) = none ∧
      s.me.pend = [] ∧ s.me.pre = false) ∧
    (let s := { base with me := { base.me with pre := true } }; s.me.pend = [] ∧ s.me.pre = true ∧ s.me.groups = [] ∧ (∀ o ∈ s.me.ops, o.lvl ≠ 0) ∧
      (s.queue (s.me.id / 16384) s.me.ctx.r.prio.toNat).length < 256 + s.module.ring) ∧
    (∀ e ∈ [(1, 2), (2, 2), (0, 1), (2 ^ 64 - 1, 3)],
      let s := inData (withRec { withLaunch base { baseLaunch with live := e.2 } with joins := [⟨0, 32 * 65536 + 32, placedRec, 0⟩] }
        { placedRec with join := 32 }) 32 8 e.1;
      s.me.lvl = 0 ∧ s.me.ops = [] ∧ s.me.ctx.r.join ≠ .allOnes 32 ∧ s.launch? s.me.ctx.r.lid = some { baseLaunch with live := e.2 } ∧
      s.joinSegs baseLaunch.r.frame (s.me.ctx.r.foff.toNat + s.me.ctx.r.join.toNat) = .ok (seg 32 8) ∧
      s.joins.find? (·.pa == segsPa s (seg 32 8)) = some ⟨0, 32 * 65536 + 32, placedRec, 0⟩ ∧ s.me.groups = [] ∧
      s.readNat (seg 32 8) = e.1 ∧ (s.queue 0 placedRec.prio.toNat).length < 256 + s.module.ring) ∧
    (let s := inData (withRec { base with joins := [⟨0, 32 * 65536 + 32, placedRec, 0⟩] } { placedRec with join := 32 }) 32 8 1;
      s.joins.find? (·.pa == segsPa s (seg 32 8)) = some ⟨0, 32 * 65536 + 32, placedRec, 0⟩ ∧ s.readNat (seg 32 8) = 1 ∧
      (s.queue 0 placedRec.prio.toNat).length < 256 + s.module.ring ∧
      s.me.ctx.r.join ≠ .allOnes 32 ∧ s.launch? s.me.ctx.r.lid = some baseLaunch ∧
      s.joinSegs baseLaunch.r.frame (s.me.ctx.r.foff.toNat + s.me.ctx.r.join.toNat) = .ok (seg 32 8)) := by decide +kernel

/-- The piece of the group object at the start of object 1, and a state whose slot is a member. -/
def groupPiece : Seg := ⟨32 * 65536, 64, 1, false, 0, 0⟩
def memberState (p : Bool) : State := { base with me := { base.me with groups := [⟨groupPiece, p, 0, false⟩] } }

/-- The last continuation of a launch: complete already, to complete, with a THEN record; a member or a pending joiner. -/
theorem wit_ContinuationEndsAndCommits_last :
    (∀ e ∈ [(true, false), (false, false), (false, true)], ∀ u ∈ [base, memberState true, memberState false],
      let l := { baseLaunch with complete := e.1, r := { baseLaunch.r with thenV := e.2 } }; let s := withLaunch u l;
      s.me.lvl = 0 ∧ s.launch? s.me.ctx.r.lid = some l ∧ (∀ o ∈ s.me.ops, o.lvl ≠ 0) ∧ s.me.ctx.r.join = .allOnes 32 ∧
      s.lost (s.me.groups.map (·.seg)) = none ∧ l.live = 1 ∧ l.actions = [] ∧ l.r.barV = false ∧ l.r.thenV = e.2 ∧ l.r.joinV = false ∧
      l.complete = e.1 ∧ s.ringFull l.home l.r.prio.toNat = false) ∧
    (∀ p ∈ [true, false], let u := memberState p;
      u.me.groups = [⟨groupPiece, p, 0, false⟩] ∧ (u.group groupPiece).phase = 0) := by decide +kernel

theorem wit_GroupInstructions :
    (∀ s ∈ [base, memberState true, memberState false], s.me.lvl = 0 ∧ s.groupSeg 2 = .ok groupPiece ∧
      s.syncAccess [groupPiece] true = .ok () ∧ s.syncAccess [groupPiece] false = .ok ()) ∧
    base.me.groups.length < 4 ∧ base.me.member? groupPiece.pa = none ∧
    (base.group groupPiece).members + (base.group groupPiece).joins + 1 < 2 ^ 32 ∧
    (memberState true).me.member? groupPiece.pa = some ⟨groupPiece, true, 0, false⟩ ∧
    (memberState false).me.member? groupPiece.pa = some ⟨groupPiece, false, 0, false⟩ := by decide +kernel

/-- A slot parked for two changes; an update that closes the phase, one of a group without members, and one that does not. -/
theorem wit_GroupInstructions_phase : let s := { base with me := { base.me with block := some (.group groupPiece.pa 2) } };
    let late := (s.allSlots.filter fun m => m.block == some (.group groupPiece.pa 2)).length;
    (∀ m ∈ s.allSlots, m.block = none ∨ m.block = some (.group groupPiece.pa 2)) ∧ late = 1 ∧ groupPiece.len = 64 ∧
    (∀ e ∈ [((⟨2 ^ 32 - 1, 3, 3, 1, 1, 1⟩ : Group), true), (⟨0, 0, 0, 2, 0, 0⟩, true), (⟨0, 3, 2, 0, 0, 0⟩, false)], let u := e.1;
      u.phase < 2 ^ 32 ∧ u.members + u.joins < 2 ^ 32 ∧ u.arrived < 2 ^ 32 ∧ u.leaves ≤ u.members + u.joins ∧ u.err < 2 ∧
      (e.2 = true ↔ (u.arrived = u.members ∧ 0 < u.members) ∨ (u.members = 0 ∧ 0 < u.joins)) ∧ late ≠ u.members + u.joins - u.leaves) := by
  decide +kernel

/-- Object 1's tables at address 0 onward, under key 0: its page 0 is present at frame 32, page 1 is absent, and so is all
from 2^30 on but for a bad table at 2^31. -/
def withTables (s : State) : State :=
  let m := ((s.mem.writes 0 0 (bytesOf 8 0x1001)).writes 0 0x1000 (bytesOf 8 0x20001)).writes 0 0x1010 (bytesOf 8 (0x20001 + 2 ^ 12))
  { s with mem := m.writes 0 0x20000 (bytesOf 8 (2 ^ 63 + 2 ^ 60 + 32 * 2 ^ 16 + 65535)) }

/-- Object 1 of two pages with those tables, and a capability of both in c2, 256 bytes before the absent one. -/
def twoPages : State :=
  withC { withTables base with objects := mset base.objects 1 (.ofNat 256 (1 * 2 ^ 213 + 2 ^ 206 + 131072 * 2 ^ 144)) } 2 ⟨.ofNat 128 (2 ^ 96 + 65280 * 2 ^ 48 + 2 ^ 30 + 17 * 2 ^ 24 + 255 * 2 ^ 16), true⟩

theorem wit_LoadsStart : base.hasRoom .L ∧
    base.access (base.rc 2) { rd := true } ((base.rc 2).off + (511#10).toInt * 8) 8 1 [] false = .ok (seg 4088 8) ∧
    (let s := withX base 5 65535; s.access (s.rc 2) { rd := true } ((s.rc 2).off + (s.rx 5).toInt * 1) 1 1 [] false = .ok (seg 65535 1)) ∧
    (let s := withX base 5 8191; s.access (s.rc 2) { rd := true } ((s.rc 2).off + (s.rx 5).toInt * 8) 8 8 [] false = .ok (seg 65528 8)) ∧
    base.access (base.rc 2) { rd := true } ((base.rc 2).off + (511#10).toInt * 16) 16 16 [] false = .ok (seg 8176 16) ∧
    (let gs : List (Nat × Option Seg) := [(65280, some ⟨32 * 65536 + 65280, 256, 1, false, 0, 65280⟩)];
      base.portAccess (base.rc 2) { rd := true } ((base.rc 2).off + 256 * (255#10).toNat) 256 1 [] = .ok gs ∧
      portPart gs 65280 256 = seg 65280 256) ∧
    (twoPages.portAccess (twoPages.rc 2) { rd := true } ((twoPages.rc 2).off + 256 * (1#10).toNat) 256 1 [] = .ok [(65536, none)]) ∧
    base.vectorFree ∧ twoPages.vectorFree ∧ twoPages.hasRoom .L ∧
    base.access (base.rc 3) { rd := true } ((base.rc 3).off + (0#10).toInt * 1) 1 1 [] false = .ok (padSeg 0 1) ∧
    base.general = false := by decide +kernel

theorem wit_StoresStart : base.hasRoom .S ∧
    base.access (base.rc 2) { wr := true } ((base.rc 2).off + (511#10).toInt * 8) 8 1 [] false = .ok (seg 4088 8) ∧
    (let s := withX base 5 65535; s.access (s.rc 2) { wr := true } ((s.rc 2).off + (s.rx 5).toInt * 1) 1 1 [] false = .ok (seg 65535 1)) ∧
    (let s := withX base 5 8191; s.access (s.rc 2) { wr := true } ((s.rc 2).off + (s.rx 5).toInt * 8) 8 8 [] false = .ok (seg 65528 8)) ∧
    base.access (base.rc 2) { wr := true } ((base.rc 2).off + (0#10).toInt * 16) 16 16 [] false = .ok (seg 0 16) ∧
    base.access (base.rc 2) { wr := true } ((base.rc 2).off + 256 * (255#10).toNat) 256 1 [] false = .ok (seg 65280 256) ∧
    base.general = false := by decide +kernel

/-- Object 1's capability with a kind or without rights. -/
def kinded (k : Nat) : Cap := ⟨(capOf 1 0 0).raw ||| .ofNat 128 (k * 2 ^ 12), true⟩
def noRights : Cap := ⟨(capOf 1 0 0).raw &&& ~~~(255#128 <<< 16), true⟩
def onHub (s : State) : State := { s with me := { s.me with id := 2 * 16384 } }

theorem wit_AccessFaultsInOrder : base.mayTrap ∧ base.vectorFree ∧ base.hasRoom .L ∧ base.hasRoom .S ∧ (onHub base).mayTrap ∧ (onHub base).hasRoom .L ∧
    (onHub base).hasRoom .S ∧ ((withC base 2 noTag).rc 2).tag = false ∧
    ((onHub base).rc 3).kind = 1 ∧ (onHub base).general = true ∧ 6 ≤ ((withC base 2 (kinded 6)).rc 2).kind ∧ (withC base 2 (kinded 6)).mayTrap ∧
    ((withC base 2 noRights).rc 2).rd = false ∧ ((withC base 2 noRights).rc 2).wr = false ∧ ((withC base 2 (kinded 5)).rc 2).kind = 5 ∧
    (base.rc 2).tag = true ∧ (base.rc 2).rd = true ∧ (base.rc 2).wr = true ∧ (base.rc 2).kind = 0 ∧ base.general = false ∧
    (∀ t ∈ [(-8 : Int), 65529, 65536], ¬(0 ≤ t ∧ t + 8 ≤ (base.rc 2).len)) ∧
    (∀ t ∈ [(0 : Int), 65528], 0 ≤ t ∧ t + 8 ≤ (base.rc 2).len) ∧ (65527 : Int) % 8 ≠ 0 := by decide +kernel

def rmw : Rights := ⟨true, true, true, false⟩

theorem wit_AtomicsStart : base.hasRoom .L ∧ base.hasRoom .S ∧
    base.access (base.rc 2) rmw ((base.rc 2).off + 8 * 15) 8 8 [2, 5] true = .ok (seg 120 8) ∧
    (let gs (n : Nat) : List (Nat × Option Seg) := [(504, some ⟨32 * 65536 + 504, n, 1, false, 0, 504⟩)];
      base.portAccess (base.rc 2) rmw ((base.rc 2).off + 8 * 63) 8 8 [2, 5] = .ok (gs 8) ∧
      base.portAccess (base.rc 2) rmw ((base.rc 2).off + 8 * 63) 256 8 [2, 5] = .ok (gs 256) ∧
      portPart (gs 8) 504 8 = seg 504 8 ∧ portPart (gs 8) 504 4 = seg 504 4) ∧
    twoPages.hasRoom .S ∧ (∀ n ∈ [8, 256],
      twoPages.portAccess (twoPages.rc 2) rmw ((twoPages.rc 2).off + 8 * 32) n 8 [2, 5] = .ok [(65536, none)]) ∧
    base.access (base.rc 3) rmw ((base.rc 3).off + 8 * 0) 8 8 [2, 5] true = .ok (padSeg 0 8) := by decide +kernel

def loadTask : Task := .load (seg 65534 2) true 3 false
def barPiece : Seg := ⟨32 * 65536 + 16, 16, 1, false, 0, 16⟩

theorem wit_WaitsAndBarrierInstructions :
    (let s := withOp base .L loadTask;
      s.me.count .L s.me.lvl ≤ 1 ∧ ¬s.me.count .L s.me.lvl ≤ 0 ∧ s.me.count .S s.me.lvl ≤ 0 ∧ s.me.count .C s.me.lvl ≤ 0 ∧
      s.me.count .T s.me.lvl ≤ 0 ∧ s.me.count .G s.me.lvl ≤ 0 ∧
      (s.me.ops.filter fun o => o.lvl == s.me.lvl && o.knot 0b10000).map (·.id) ≠ [] ∧
      (s.me.ops.filter fun o => o.lvl == s.me.lvl && o.knot 0b01111).map (·.id) = []) ∧
    (onHub (withOp base .T (.tclaim 0))).general = true ∧
    (∀ v ∈ [0, 2 ^ 80], let s := inData base 16 16 v;
      s.hasRoom .S ∧ s.barObject (s.rc 2) rmw ((s.rc 2).off + 16 * 1) = .ok barPiece ∧
      s.barObject (s.rc 2) { rd := true } ((s.rc 2).off + 16 * 1) = .ok barPiece ∧ s.syncAccess [barPiece] false = .ok () ∧
      s.readNat [barPiece] = v) ∧
    0 / 2 ^ 80 % 2 ≠ (1#1).toNat ∧ 0 / 2 ^ 80 % 2 = (0#1).toNat := by decide +kernel

theorem wit_BarrierObjectCountsArrivals : barPiece.len = 16 ∧
    (∀ n ∈ [0, 1], (withOp base .S (.barr barPiece n)).mayComplete 7 (opOf base .S (.barr barPiece n))) ∧
    (let s := inData base 16 16 (3 + 1 * 2 ^ 40); s.readNat [barPiece] % 2 ^ 40 = 3 ∧ s.readNat [barPiece] / 2 ^ 40 % 2 ^ 40 = 1) := by decide +kernel

def valueTask : Task := .value 3 9
def storeTask : Task := .store (seg 16 8) (bytesOf 8 5) false
def casTask : Task := .cas (seg 16 8) 0 7 31 false false false
def amoTask (op : Nat) : Task := .amo (seg 16 8) op 7 3 false false

theorem wit_LoadsArePerformed :
    (let s := withOp base .G valueTask; s.me.op? 7 = some (opOf base .G valueTask) ∧ (opOf base .G valueTask).cls = .G ∧
      s.mayGo s.me.id (opOf base .G valueTask) true = true) ∧
    (∀ t ∈ [loadTask, .load (seg 0 8) false 3 true, .loadCap (seg 16 16) true 4, .loadVec (capOf 1 0 0) 256 (seg 256 256) 5, .loadVec (capOf 1 0 0) 256 [] 5],
      (withOp base .L t).mayComplete 7 (opOf base .L t) ∧ (withOp base .L t).spills = []) ∧
    (withOp base .L (.loadVec (capOf 1 0 0) 256 [] 5)).stream 0 0 (capOf 1 0 0) 256 256 false = .ok (seg 256 256) ∧
    (let t := Task.gather (capOf 1 0 0) (some 65534 :: none :: List.replicate 62 (some 0)) 2 5; let s := withOp base .L t;
      s.mayComplete 7 (opOf base .L t) ∧ s.spills = [] ∧ (etFmt 2).width = 16 ∧
      s.stream s.me.id 0 (capOf 1 0 0) 65534 2 false = .ok (seg 65534 2) ∧ s.stream s.me.id 0 (capOf 1 0 0) 0 2 false = .ok (seg 0 2)) ∧
    0 < 8 * ((seg 65534 2).map (·.len)).sum ∧ 8 * ((seg 0 8).map (·.len)).sum ≤ 64 := by decide +kernel

/-- A store of two pieces, and a scatter whose second element lies outside. -/
def twoSegs : List Seg := seg 65532 4 ++ padSeg 0 4
def scatterTask (add : Bool) : Task := .scatter (capOf 1 0 0) [(some 0, 5), (none, 6), (some 65535, 7)] 5 add []

theorem wit_StoresArePerformed : (withOp base .S storeTask).mayComplete 7 (opOf base .S storeTask) ∧ (bytesOf 8 5).length = 8 ∧
    (let t := Task.store twoSegs (bytesOf 8 5) true; (withOp base .S t).mayComplete 7 (opOf base .S t) ∧ base.separate twoSegs) ∧
    (∀ t ∈ [Task.storeCap (seg 16 16) (capOf 1 0 0), .binit barPiece 3, scatterTask false, scatterTask true],
      (withOp base .S t).mayComplete 7 (opOf base .S t)) ∧
    base.canon barPiece.pa % 16 = 0 ∧ base.spills = [] ∧ base.separate (seg 0 1) := by decide +kernel

theorem wit_StoresArePerformed_scatter (add : Bool) (f v : Nat) (h : (some f, v) ∈ [(some 0, 5), (none, 6), (some 65535, 7)]) (m : Memory) :
    ({ withOp base .S (scatterTask add) with mem := m } : State).stream 0 0 (capOf 1 0 0) f ((etFmt 5).width / 8) true = .ok (seg f 1) := by
  simp only [List.mem_cons, Prod.mk.injEq, Option.some.injEq, List.not_mem_nil, or_false, reduceCtorEq, false_and, false_or] at h
  obtain ⟨rfl, -⟩ | ⟨rfl, -⟩ := h <;> rfl

theorem wit_AtomicsArePerformed : (withOp base .L casTask).mayComplete 7 (opOf base .L casTask) ∧
    (∀ op, op < 9 → (withOp base .L (amoTask op)).mayComplete 7 (opOf base .L (amoTask op))) ∧
    (∀ t ∈ [amoTask 9, .red (capOf 1 0 0) 0 false [(16, seg 16 8, 5)], .red (capOf 0 1 0) 8 true [(16, padSeg 16 8, 5)],
        .red (capOf 1 0 0) 9 true [(16, seg 16 4, 5)]],
      (withOp base .S t).mayComplete 7 (opOf base .S t) ∧ (withOp base .S t).spills = []) ∧
    (∀ w ∈ [8, 4],
      let t := Task.red (capOf 1 0 0) (if w = 8 then 0 else 9) false ((List.range (256 / w)).map fun k => (256 + w * k, seg (256 + w * k) w, k));
      (withOp base .S t).mayComplete 7 (opOf base .S t) ∧ (withOp base .S t).spills = []) ∧
    (∀ k ∈ [0, 255], base.canon (32 * 65536 + 256 + k) = base.canon (32 * 65536 + 256) + k) ∧
    (⟨32 * 65536 + 16, 8, 1, false, 0, 16⟩ : Seg).len = 8 ∧ seg 16 8 = [⟨32 * 65536 + 16, 8, 1, false, 0, 16⟩] := by decide +kernel

/-- `base` with a second capability of object 1 at its upper half in c4, and a destination list of it at 4096 in c5. -/
def upper : Cap := capOf 1 0 32768
def copyState : State :=
  let s := withC (withC (inData (inData base 4096 16 1) 4112 16 upper.raw.toNat) 4 upper) 5 (capOf 1 0 4096)
  { s with mem := s.mem.setTag (32 * 65536 + 4112) true }

theorem wit_CopiesStartInChunks :
    (∀ n ∈ [0, 1, 32768], let s := withX copyState 6 n; let d := s.rc 4; let c := s.rc 2;
      s.hasRoom .C ∧ s.checkRange c { rd := true } (c.off : Nat) n = .ok () ∧ s.checkRange d { wr := true } (d.off : Nat) n = .ok () ∧
      noOverlap [⟨c, c.off, n⟩, ⟨d, d.off, n⟩] = .ok () ∧ (s.rx 6).toNat - 0 < 2 ^ 40 ∧ s.barOperand 0 0 = .ok none ∧
      ∀ k, k ≤ 2 → s.boardRoom k = .ok ()) ∧
    (inData base 48 16 9).barOperand 2 3 = .ok (some ⟨32 * 65536 + 48, 16, 1, false, 0, 48⟩) ∧
    (let s := withX (withX copyState 46 300) 47 100; let d := s.rc 4; let c := s.rc 2;
      (46#6).toNat % 2 = 0 ∧ (46#6).toNat ≤ 46 ∧ (s.rx (46 + 1)).toNat ≤ (s.rx 46).toNat ∧
      s.checkRange c { rd := true } (c.off + 100 : Nat) 200 = .ok () ∧ s.checkRange d { wr := true } (d.off + 100 : Nat) 200 = .ok () ∧
      noOverlap [⟨c, c.off + 100, 200⟩, ⟨d, d.off + 100, 200⟩] = .ok ()) := by decide +kernel

/-- A nest that COPYN takes: two streams, one read and one written, of equal length. -/
def copyNest : Nest :=
  { armed (0 + 2 * 4 + 2 * 16 + 4 * 256 + (1 + 2 * 4) * 2 ^ 16 + 2 * 2 ^ 64 + ((8 * 2 ^ 64 + 4 * 2 ^ 224) * (1 + 2 ^ 256)) * 2 ^ 192) #v[0, 0, 0, 0]
    with caps := #v[capOf 1 0 0, upper, capOf 1 0 0] }

theorem wit_OtherCopiesStart : let s := withX copyState 6 64; let src := s.rc 2;
    s.hasRoom .C ∧ (∀ k, k ≤ 20 → s.boardRoom k = .ok ()) ∧ 0 < (s.rx 6).toNat ∧ [upper].length ≤ 16 ∧
    s.checkRange src { rd := true } src.off 64 = .ok () ∧ s.destList (s.rc 5) = .ok [upper] ∧
    s.checkDests { wr := true } [0, 1, 2, 3, 4] 64 0 [upper] = .ok () ∧
    noOverlap (⟨src, src.off, 64⟩ :: [upper].map fun k => (⟨k, k.off, 64⟩ : Range)) = .ok () ∧ 64 * [upper].length < 2 ^ 40 ∧
    s.barOperand 0 0 = .ok none ∧
    (let u := withN s 0 copyNest; let p := (u.rn 0).par.toNat;
      u.onCompute ∧ (u.rn 0).armed = true ∧ nestStreams p = 2 ∧ nestDir p 0 % 2 = 1 ∧ 2 ≤ nestDir p 1 ∧ nestExt p 0 = nestExt p 1 ∧
      noOverlap [(u.rn 0).span 0, (u.rn 0).span 1] = .ok () ∧ (u.rn 0).left * nestExt p 0 < 2 ^ 40) ∧
    s.widened s.me.iface src src.off 64 < 2 ^ 40 ∧ (2#4) ≠ 15 ∧ (0#3) ≠ 7 ∧ s.moveCheck src 64 = .ok () ∧ s.moveCheck src 1 = .ok () ∧
    s.checkRange src { rd := true } src.off (4 * 64) = .ok () ∧ s.checkRange (s.rc 3) ⟨true, true, false, false⟩ (s.rc 3).off (4 * 64) = .ok () ∧
    (s.rc 3).kind ∈ [0, 1, 4] ∧ s.checkDests ⟨true, true, true, false⟩ [0, 3, 4] (4 * 64) 0 [upper] = .ok () ∧
    noOverlap (⟨src, src.off, 4 * 64⟩ :: ⟨s.rc 3, (s.rc 3).off, 4 * 64⟩ :: [upper].map fun k => (⟨k, k.off, 4 * 64⟩ : Range)) = .ok () ∧
    4 * 64 * [upper].length < 2 ^ 40 := by decide +kernel

/-- A general core whose vector unit was last used a cycle ago. -/
def hubAhead : State := { onHub base with core := { base.core with cycle := 1 } }

theorem wit_Vectors : base.vectorFree ∧ hubAhead.vectorFree ∧ hubAhead.general = true ∧ base.general = false ∧
    (etFmt 0).isInt = true ∧ (etFmt 3).isInt = false ∧ (64#7).toNat ≤ 64 := by decide +kernel

def withV (s : State) (r : Nat) (l : List Nat) : State :=
  { s with me := { s.me with ctx := { s.me.ctx with v := vset s.me.ctx.v r (ofLanes 16 l) } } }

/-- BF16 lanes in v1 and v2: a number with a number, a NaN with a number, a number with a NaN, two NaNs. -/
def laneState : State := withV (withV base 1 [0x3F80, 0x7FC0, 0x8000, 0xFF81]) 2 [0xBF80, 0, 0x7F81, 0x7FC0]

/-- VMIN, VMAX, VCMP, VRED, TOPK and VCVT by lanes, masked and not. -/
theorem wit_Vectors_lanes :
    (laneState.vectorFree ∧ laneState.rv 1 = ofLanes 16 [0x3F80, 0x7FC0, 0x8000, 0xFF81] ∧
      (laneState.rv 2).toNat / 2 ^ (16 * 2) % 2 ^ 16 = 0x7F81 ∧ (0#4).getLsbD 3 = false ∧ (8#4).getLsbD 3 = true ∧
      (laneState.rm ((8#4).truncate 3)).getLsbD 0 = false ∧ laneRank 3 0xBF80 < laneRank 3 0x3F80 ∧ laneKey 3 0x8000 = laneKey 3 0 ∧
      (4#3).toNat ≤ 4 ∧ (2#5).toNat ≤ 2 ∧ 1 ≤ (1#7).toNat ∧ (3#3) ≠ 0 ∧ (etFmt 5).isInt = true ∧
      (List.range 128).filter (fun i => !(8#4).getLsbD 3 || (laneState.rm ((8#4).truncate 3)).getLsbD i) = []) ∧
    laneNan 3 0x7F81 ∧ ¬laneNan 3 0x7F80 ∧ ¬laneNan 3 0x3F80 ∧ laneNan 1 0xFF800001 ∧ laneNan 6 0xFF ∧ ¬laneNan 7 0xFC := by
  refine ⟨by decide +kernel, ?_⟩
  show 0x7F80 < 0x7F81 ∧ ¬0x7F80 < 0x7F80 ∧ ¬0x7F80 < 0x3F80 ∧ 0x7F800000 < 0x7F800001 ∧ 0x7F = 0x7F ∧ ¬0x7C < 0x7C
  decide

theorem wit_IndexedVectorAccessesStart : base.vectorFree ∧ (base.rc 2).kind ≠ 1 ∧ (base.rc 2).kind ≠ 2 ∧ (base.rc 2).kind ≠ 5 ∧
    base.hasRoom .L ∧ base.hasRoom .S ∧
    base.checkTag (base.rc 2) { rd := true } (base.rc 2).off = .ok () ∧ base.checkTag (base.rc 2) { wr := true } (base.rc 2).off = .ok () ∧
    base.checkTag (base.rc 2) rmw (base.rc 2).off = .ok () := by decide +kernel

/-- BF16 tiles of one row of three elements; the slot's window is tiles 0-5 and it holds accumulator 0. -/
def rowTc : BitVec 28 := .ofNat 28 (3 * 2 ^ 20 + 0x30 * 2 ^ 10 + 2 * 2 ^ 8)
def colTc : BitVec 28 := .ofNat 28 (1 * 2 ^ 20 + 0x30 * 2 ^ 10 + 2 * 2 ^ 8 + 2)
def tileState : State :=
  { base with me := { base.me with
      window := [0, 1, 2, 3, 4, 5], accs := [0]
      ctx := { base.me.ctx with
        tc := #v[rowTc, rowTc, rowTc, rowTc, rowTc, colTc, 0, 0, 0, 0, 0, 0, 0, 0, 0, 0]
        r := { base.me.ctx.r with need := 6 } } } }

theorem wit_TileControl :
    base.onCompute ∧ base.me.lvl = 0 ∧ (13#4).toNat < 14 ∧ (inHandler base 1).me.lvl = 1 ∧ (inHandler base 1).onCompute ∧ (inHandler base 1).mayTrap ∧ 14 ≤ (14#4).toNat ∧
    base.mayTrap ∧ base.me.lvl < 2 ∧ base.hasRoom .T ∧ (3#2).toNat ∉ base.me.held ∧ base.accHeld (base.me.id / 128) 3 = false ∧
    base.accHandler (base.me.id / 128) 3 = false ∧ base.interlock (.tclaim 3) = .ok () := by decide +kernel

theorem wit_TileComputationsStart : let s := tileState;
    s.onCompute ∧ s.me.lvl < 2 ∧ s.hasRoom .T ∧ (0#2).toNat ∈ s.me.held ∧
    (∀ t ∈ [Task.azero 0, .rowmax 3 0, .rowsum 4 0, .movv 3 0 127], s.interlock t = .ok ()) ∧ (4#5).toNat % 2 = 0 ∧
    s.tiles [0, 1] = .ok [(0, rowTc), (1, rowTc)] ∧ tcWidth rowTc = tcWidth rowTc ∧ tcWidth rowTc ≠ 3 ∧ tcRows rowTc ≤ 64 ∧
    (∀ t ∈ [Task.tmma 0 0 1 rowTc rowTc, .tzero 2 rowTc, .tarith 0 2 0 1 rowTc rowTc rowTc 0 false, .tarith 2 2 0 0 rowTc rowTc rowTc 0 true,
      .tarith 3 5 0 0 colTc rowTc rowTc 0 false], s.takePair.interlock t = .ok ()) ∧
    s.tiles [2] = .ok [(2, rowTc)] ∧ s.tiles [2, 0, 1] = .ok [(2, rowTc), (0, rowTc), (1, rowTc)] ∧
    s.tiles [2, 0, 0] = .ok [(2, rowTc), (0, rowTc), (0, rowTc)] ∧ s.tiles [5, 0, 0] = .ok [(5, colTc), (0, rowTc), (0, rowTc)] ∧
    tcRows colTc = tcValid rowTc ∧ tcValid colTc = tcRows rowTc := by decide +kernel

/-- A nest of one row for TLDN and TGEMM. -/
def rowNest : Nest :=
  armed (0 + 2 * 4 + 2 * 16 + 2 * 256 + (1 + 1 * 4) * 2 ^ 16 + 1 * 2 ^ 64 + ((8 * 2 ^ 224) * (1 + 2 ^ 256)) * 2 ^ 192) #v[0, 0, 0, 0]

/-- Route entry k of core 0's scratchpad, with a destination capability and its tag. -/
def withRoute (s : State) (k e : Nat) (dest : Cap) : State :=
  let t := inPad s (0x2FFC00 + 64 * k) 64 (e * 2 ^ 256 + dest.raw.toNat)
  if dest.tag then { t with mem := t.mem.setTag (scratchPa 0 (0x2FFC00 + 64 * k)) true } else t

theorem wit_TileMemoryStarts : let s := withN tileState 1 rowNest;
    s.onCompute ∧ s.me.lvl < 2 ∧ s.hasRoom .T ∧ s.tiles [2] = .ok [(2, rowTc)] ∧
    s.tileRows (s.rc 2) false rowTc ((s.rc 2).off + 16 * 255) 0 = .ok [(4080, false)] ∧
    s.tileRows (s.rc 2) true rowTc ((s.rc 2).off + 16 * 0) 0 = .ok [(0, false)] ∧
    (∀ t ∈ [Task.tld (s.rc 2) 2 rowTc [(4080, false)], .tst (s.rc 2) 2 rowTc [(0, false)], .tldn 2 rowTc rowNest 0,
      .tgemm 0 (0, 1) (2, 3) rowTc rowTc rowNest 0], s.takePair.interlock t = .ok ()) ∧
    rowNest.armed = true ∧ nestStreams rowNest.par.toNat = 2 ∧ nestDir rowNest.par.toNat 0 % 2 = 1 ∧ nestDir rowNest.par.toNat 1 % 2 = 1 ∧
    (0#2).toNat ∈ s.me.held ∧ (0#4).toNat + 1 < (2#4).toNat ∧ (2#4).toNat ≤ 12 ∧ rowNest.i 0 = 0 ∧
    s.tiles [0, 0 + 1, 2, 2 + 1] = .ok [(0, rowTc), (1, rowTc), (2, rowTc), (3, rowTc)] ∧
    nestCount rowNest.par.toNat 0 = max (tcRows rowTc) (tcRows rowTc) := by decide +kernel

/-- Route entries of KIND 1 and 3. -/
def memRoute : Nat := 0x40 * 2 ^ 24 + 1
def vecRoute : Nat := 0x40 * 2 ^ 24 + 31 * 2 ^ 64 + 3

theorem wit_TileMemoryStarts_tdrain :
    (let s := withRoute tileState 3 memRoute upper; let e := memRoute * 2 ^ 256 + upper.raw.toNat; let acc := s.acc s.me.id 0;
      s.interlock (.drain 0 0 Cap.null none 0) = .ok () ∧ s.route 3 = .ok (e, upper, ⟨0, false⟩) ∧ rtOk e = true ∧ rtKind e = 1 ∧ rtKind e ≠ 0 ∧
      s.checkDest upper e acc.m (acc.n * rtSize e) = .ok () ∧ s.boardRows upper e acc.m (acc.n * rtSize e) = .ok () ∧
      s.routeBar e upper ⟨0, false⟩ = .ok none) ∧
    (let s := withRoute tileState 3 vecRoute ⟨0, false⟩; let e := vecRoute * 2 ^ 256;
      s.route 3 = .ok (e, ⟨0, false⟩, ⟨0, false⟩) ∧ rtOk e = true ∧ rtKind e = 3 ∧ rtBv e = false ∧ rtFmt e = 0x40 ∧
      rtPort e + (s.acc s.me.id 0).m ≤ 32 ∧ s.routeBar e ⟨0, false⟩ ⟨0, false⟩ = .ok none) := by decide +kernel

/-- A tile state without tiles in its window, whose area is 256 bytes and an accumulator. -/
def bareState : State :=
  { tileState with me := { tileState.me with window := [], ctx := { tileState.me.ctx with r := { tileState.me.ctx.r with need := 0 } } } }

theorem wit_TileMemoryStarts_tsave :
    (let s := bareState; s.saveCheck (s.rc 2) true = .ok () ∧
      (∀ o ∈ s.me.ops, o.cls ≠ .T) ∧
      s.takePair.interlock (.tsave (s.rc 2) s.me.saveTiles ((List.range 14).map s.rtc) ((List.range 4).filter s.me.held.contains)
        (pages (s.rc 2).off (saveSize s.me.saveTiles.length s.me.held.length))) = .ok ()) ∧
    (let s := inData bareState 0 2 256; let tiles := s.me.saveTiles; let accs := (List.range 4).filter s.me.held.contains;
      s.saveCheck (s.rc 2) false = .ok () ∧ s.translate (s.rc 2) (s.rc 2).off 2 false (s.rc 2).off = .ok (seg 0 2) ∧
      (∀ o ∈ s.me.ops, o.task.acquires = false) ∧ s.interlock (.trest (s.rc 2) tiles accs) = .ok () ∧ s.readNat (seg 0 2) % 256 = tiles.length ∧
      s.readNat (seg 0 2) / 256 % 16 = accs.foldl (fun m k => m + 2 ^ k) 0 ∧ s.takePair.interlock (.trest (s.rc 2) tiles accs) = .ok ()) := by
  decide +kernel

theorem wit_TileOperationsArePerformed :
    (∀ t ∈ [Task.tzero 1 rowTc, .azero 0, .tclaim 0, .tmma 0 0 1 rowTc rowTc, .movv 3 0 5, .rowsum 4 0],
      (withOp tileState .T t).mayComplete 7 (opOf tileState .T t)) ∧
    (withOp tileState .T (.azero 0)).me.id / 128 = (withOp tileState .T (.azero 0)).core.id := by decide +kernel

/-- An accumulator with one row of two columns, one a NaN where `n` holds. -/
def rowAcc (n : Bool) : Acc :=
  { Acc.zero with rows := vset Acc.zero.rows 0 (.ofNat 2048 (0x3F800000 + (if n then 0x7FC00000 else 0) * 2 ^ 32)), m := 1, n := 2 }
def accState (n : Bool) : State :=
  { tileState with core := { tileState.core with accs := vset tileState.core.accs 0 (rowAcc n) } }

theorem wit_TileOperationsArePerformed_arith :
    (∀ t ∈ [Task.rowmax 3 0, .tarith 0 2 0 1 rowTc rowTc rowTc 0 false, .tarith 1 2 0 1 rowTc rowTc rowTc 0 false,
        .tarith 2 2 0 0 rowTc rowTc rowTc 0 false, .tarith 3 5 0 0 colTc rowTc rowTc 0 false],
      (withOp tileState .T t).mayComplete 7 (opOf tileState .T t)) ∧
    (∀ n ∈ [true, false], let s := withOp (accState n) .T (.rowmax 3 0); let u := vget s.core.accs 0 Acc.zero;
      s.mayComplete 7 (opOf (accState n) .T (.rowmax 3 0)) ∧ u.m = 1 ∧ u.n = 2 ∧ (Sys2Proof.Num.of32 (u.get 0 0)).isNan = false ∧
      (Sys2Proof.Num.of32 (u.get 0 1)).isNan = n) := by decide +kernel

/-- The rows of a tile loaded and stored in device memory, and in scratchpad, where no translation depends on memory. -/
theorem wit_TileOperationsArePerformed_rows :
    (∀ d ∈ [true, false], let t := Task.tld (capOf 1 0 0) 2 rowTc [(64, d)]; let s := withOp tileState .T t; let o := opOf tileState .T t;
      s.mayComplete 7 o ∧ s.spills = [] ∧ [(64, d)].length = tcRows rowTc ∧ s.accepts 0 o 0 (capOf 1 0 0) 64 = true ∧
      (match s.segsOf 0 0 (capOf 1 0 0) 64 (if d then 64 * tcBlk rowTc else (tcValid rowTc * Sys2Proof.Num.widthBits (tcWidth rowTc) + 7) / 8) false with
        | .ok g => g == seg 64 (if d then 64 else 6) | _ => false) = true ∧ Sys2Proof.Num.fmtOf (tcFmt rowTc) 0 ≠ none) ∧
    (∀ d ∈ [true, false], let t := Task.tst (capOf 0 1 0) 2 rowTc [(64, d)];
      (withOp tileState .T t).mayComplete 7 (opOf tileState .T t) ∧ Sys2Proof.Num.fmtOf (tcFmt rowTc) (tcType rowTc) = some .bf16) := by
  decide +kernel

theorem wit_TileOperationsArePerformed_pad (d : Bool) (m : Memory) (n : Nat) (h : n ∈ [6, 64]) :
    let t := Task.tst (capOf 0 1 0) 2 rowTc [(64, d)]; let s : State := { withOp tileState .T t with mem := m };
    s.accepts 0 (opOf tileState .T t) 0 (capOf 0 1 0) 64 = true ∧
    s.segsOf 0 0 (capOf 0 1 0) 64 n true = .ok [⟨scratchPa 0 64, n, 1, false, 0, 64⟩] := by
  simp only [List.mem_cons, List.not_mem_nil, or_false] at h
  constructor
  · rfl
  · rcases h with rfl | rfl <;> rfl

/-- Object 1's page described; a nest of two streams of one row of 64 bytes. -/
def described : State :=
  { tileState with tlb := ⟨0, 0, 1, 0, .ofNat 64 (2 ^ 63 + 2 ^ 60 + 2 ^ 59 + 32 * 2 ^ 16 + 65535)⟩ :: tileState.tlb }
def wideNest : Nest := { rowNest with par := rowNest.par ||| .ofNat 1024 (64 * 2 ^ 224 * (1 + 2 ^ 256) * 2 ^ 192) }

/-- A step of TGEMM over plain rows, over described rows that need more than EXT bytes, and over described rows. -/
theorem wit_TileOperationsArePerformed_tgemm : ∀ c ∈ [(tileState, rowNest, false), (described, rowNest, true), (described, wideNest, true)],
    let t := Task.tgemm 0 (0, 1) (2, 3) rowTc rowTc c.2.1 0; let s := withOp c.1 .T t; let o := opOf c.1 .T t;
    s.mayComplete 7 o ∧ s.me.id / 128 = s.core.id ∧ c.2.1.armed = true ∧ o.lvl = s.me.lvl ∧ s.me.trapPend = none ∧
    (∀ e ∈ s.spills, e.slot ≠ s.me.id) ∧ nestCount c.2.1.par.toNat 0 = max (tcRows rowTc) (tcRows rowTc) ∧
    (sweepRows rowTc rowTc c.2.1).map (·.key) = [0, 1] ∧
    (∀ e ∈ sweepRows rowTc rowTc c.2.1, s.nestReady s.me.id o e = true ∧
      (match s.readNest s.me.id o.iface e with | .ok v => v == (c.2.2, 0) | _ => false) = true ∧
      (e.short c.2.2 = true ↔ c.2.2 = true ∧ c.2.1 = rowNest)) ∧
    Sys2Proof.Num.fmtOf (tcFmt rowTc) 0 ≠ none := by decide +kernel

/-- A drain of one row of two elements through a braid's route, to registers, and to memory with and without a barrier. -/
theorem wit_TileOperationsArePerformed_drain :
    (∀ r ∈ [(0x40 * 2 ^ 24 + 2, 2), (vecRoute, 3)], let t := Task.drain 0 (.ofNat 512 (r.1 * 2 ^ 256)) Cap.null none 0;
      (withOp (accState false) .T t).mayComplete 7 (opOf (accState false) .T t) ∧ rtKind (r.1 * 2 ^ 256) = r.2 ∧ rtPort (r.1 * 2 ^ 256) + 1 ≤ 32) ∧
    (vget (accState false).core.accs 0 Acc.zero).m = 1 ∧ (vget (accState false).core.accs 0 Acc.zero).n ≠ 0 ∧
    (∀ b ∈ [none, some ⟨32 * 65536 + 512, 16, 1, false, 0, 512⟩],
      let t := Task.drain 0 (.ofNat 512 (memRoute * 2 ^ 256)) upper b 0; let s := withOp (accState false) .T t; let o := opOf (accState false) .T t;
      s.mayComplete 7 o ∧ rtKind (memRoute * 2 ^ 256) = 1 ∧ s.barLost b = none ∧ s.accepts s.me.id o 0 upper 32768 = true ∧
      (match s.segsOf s.me.id o.iface upper 32768 (2 * rtSize (memRoute * 2 ^ 256)) true with | .ok g => g == seg 32768 8 | _ => false) = true ∧
      ((upper.off : Int) + (0 : Nat) * rtPitch (memRoute * 2 ^ 256)).toNat = 32768) := by decide +kernel

/-- The same drain into scratchpad, where no translation depends on memory. -/
theorem wit_TileOperationsArePerformed_drain_pad (m : Memory) : let t := Task.drain 0 (.ofNat 512 (memRoute * 2 ^ 256)) (capOf 0 1 64) none 0;
    let s : State := { withOp (accState false) .T t with mem := m };
    s.accepts 0 (opOf (accState false) .T t) 0 (capOf 0 1 64) 64 = true ∧
    s.segsOf 0 0 (capOf 0 1 64) 64 8 true = .ok [⟨scratchPa 0 64, 8, 1, false, 0, 64⟩] := by
  constructor <;> rfl

/-- An area of one tile and no accumulator in the scratchpad: TSAVE's parts, and TREST's. -/
theorem wit_TileOperationsArePerformed_area :
    pages (capOf 0 1 0).off (256 + 16384 * 1 + 32768 * 0) = [(0, 16640)] ∧
    (let t := Task.tsave (capOf 0 1 0) [(0, 0)] [rowTc] [] [(0, 16640)]; (withOp tileState .T t).mayComplete 7 (opOf tileState .T t)) ∧
    (∀ l ∈ [[(0, 0)], [(14, 14)]], let t := Task.trest (capOf 1 0 0) l []; let s := withOp tileState .T t; let o := opOf tileState .T t;
      s.mayComplete 7 o ∧ (∀ e ∈ s.spills, e.slot ≠ s.me.id) ∧ (l.map (·.1)).Nodup ∧ (∀ p ∈ l, p.1 < 16) ∧
      s.accepts s.me.id o 0 (capOf 1 0 0) 0 = true ∧
      (match s.segsOf s.me.id o.iface (capOf 1 0 0) 0 16640 false with | .ok g => g == seg 0 16640 | _ => false) = true) := by decide +kernel

theorem wit_TileOperationsArePerformed_area_pad (m : Memory) : let t := Task.tsave (capOf 0 1 0) [(0, 0)] [rowTc] [] [(0, 16640)];
    let s : State := { withOp tileState .T t with mem := m };
    s.accepts 0 (opOf tileState .T t) 0 (capOf 0 1 0) 0 = true ∧
    s.segsOf 0 0 (capOf 0 1 0) 0 16640 true = .ok [⟨scratchPa 0 0, 16640, 1, false, 0, 0⟩] := by
  constructor <;> rfl

/-- The image of 18's notes, at 8192 of object 1; c4 names it. -/
def braidImage : Nat :=
  12 + 3 * 2 ^ 32 + 3 * 2 ^ 64 + 8 * 2 ^ 96 + 0x40 * 2 ^ 104 +
  natOfBytes ([0x0010000000000000, 0x0010000000400000, 0x0010000000800000, 0x1116000000000000, 0x1094000000400001, 0x5010000000800000,
    0x1018000000C00004, 0x2018000000C00004, 0x1016000001000005, 0x6018000001800000, 0x6018000001C00001, 0x6016000002000002].flatMap (bytesOf 8)) * 2 ^ 512 +
  (1 * 2 ^ 16 + 2 * 2 ^ 32) * 2 ^ 1280 + (0x7F0 + 0x7F0 * 2 ^ 16 + 0x7E0 * 2 ^ 32) * 2 ^ 1344
def imageState : State := withC (inData base 8192 174 braidImage) 4 (capOf 1 0 8192)

theorem wit_BraidInstructions_bgload : let s := imageState; let cap := s.rc 4; let hs := seg 8192 64; let segs := seg 8192 174;
    let h := s.readNat hs; let img := s.readNat segs; let nodes := entries img 64 64 (bhNodes h);
    s.onCompute ∧ s.hasRoom .C ∧ vget s.module.engHold s.myDie 0 ≤ s.time ∧ (∀ o ∈ s.me.ops, o.task.acquires = false) ∧
    s.checkTag cap { rd := true } cap.off = .ok () ∧ cap.off % 64 = 0 ∧
    s.checkRange cap { rd := true } cap.off 64 = .ok () ∧ s.translateEach cap false (accessPieces cap cap.off 64) = .ok hs ∧
    bhOk h = true ∧ bhLen h = 174 ∧ s.checkRange cap { rd := true } cap.off 174 = .ok () ∧
    s.translateEach cap false (accessPieces cap cap.off 174) = .ok segs ∧
    s.board cap cap.off 174 false = .ok () ∧ s.boardRoom (spRange cap cap.off (bhLen h) false).length = .ok () ∧
    (match nodesCheck h nodes with
      | .ok chk => listsOk h chk (entries img (bhP h) 16 (bhNin h)) (entries img (bhQ h) 16 (bhNout h)) && chk.seen.all fun p => decide (p.2 ≤ 1024)
      | .error _ => false) = true ∧
    s.freeBraidSlots s.myDie ((bhNodes h + 131071) / 131072) = some 0 := by decide +kernel

/-- A loaded braid of one input and one row: an IN and an OUT node. -/
def smallBraid : Braid :=
  { die := 0, handle := 0, nslot := 1, iface := 0, ofmt := 0x40, wi := 8, nout := 1, nin := 1,
    nodes := [0x0010000000000000, 0x6010000000000000], list := [0], scales := [0x7F0], run := none, cut := 0, lost := false, ev := false, edge := false,
    nan := false, done := 0, freeing := none }
def braidState (b : Braid) : State := { withRoute copyState 3 memRoute upper with braids := [b] }

/-- V = 0, an input edge that does not agree, and both edges agreeing; a braid whose output edge does not agree. -/
theorem wit_BraidInstructions : (∀ b ∈ [smallBraid, { smallBraid with ofmt := 0x30 }],
    ∀ v ∈ [0, 2 + 0x40 * 2 ^ 40, 2 + 0x40 * 2 ^ 40 + 1 * 2 ^ 48], let s := withX (braidState b) 6 v; let e := memRoute * 2 ^ 256 + upper.raw.toNat;
    s.onCompute ∧ s.hasRoom .C ∧ vget s.module.engHold s.myDie 0 ≤ s.time ∧ (∀ o ∈ s.me.ops, o.task.acquires = false) ∧
    s.braidOf (s.rx 7) = .ok b ∧ b.armed = false ∧ (∀ k, k ≤ 2 → s.boardRoom k = .ok ()) ∧
    s.route 3 = .ok (e, upper, ⟨0, false⟩) ∧ rtOk e = true ∧
    (let n := v % 2 ^ 32; let sf := v / 2 ^ 40 % 2 ^ 8; let ls := v / 2 ^ 48 % 2 ^ 16
      s.checkCap (s.rc 2) { rd := true } (s.rc 2).off (n * ls * sfmtSize sf) = .ok () ∧ rtKind e = 1 ∧ rtFmt e = 0x40 ∧
      s.checkDest upper e n (b.nout * rtSize e) = .ok () ∧ s.routeBar e upper ⟨0, false⟩ = .ok none ∧ ∀ i ∈ b.list, i < 1)) := by decide +kernel

theorem wit_BraidInstructions_bgstat : (let s := braidState smallBraid;
    (∀ q ∈ s.braids, q.die = s.myDie → q.handle = 0 → q.iface = s.me.iface ∧ q.freeing = none) ∧ (s.myDie, 0, s.me.iface) ∉ s.gone ∧
    (∀ q ∈ s.braids, q.handle ≠ 63)) := by decide +kernel

/-- BGLOAD and BGSTAT performed: of a loaded braid, of none. -/
theorem wit_BraidInstructions_performed : (∀ t ∈ [Task.bgload 3 256, .bgstat 0 3, .bgstat 5 3],
      (withOp (braidState smallBraid) .C t).mayComplete 7 (opOf (braidState smallBraid) .C t)) ∧
    (let s := withOp (braidState smallBraid) .C (.bgstat 0 3);
      s.braids.find? (fun q => q.die == s.me.id / 16384 && q.handle == 0) = some smallBraid ∧ smallBraid.iface = 0 ∧ smallBraid.nslot < 64 ∧
      ∀ q ∈ s.braids, q.die = s.me.id / 16384 → q.handle ≠ 5) := by decide +kernel

/-- The arena of object 4 with one layer; a job record at 128 of object 1 with its capabilities, named by c4. -/
def arenaBits : Nat := 0x1000 + 10 * 2 ^ 48 + 0x40 * 2 ^ 64 + 0x8000 * 2 ^ 128 + 16 * 2 ^ 176
def layerBits : Nat := 0x0004040203008020 + 0x3F800000 * 2 ^ 64
def jobBits : Nat := 0x0000082400000001 + 256 * 2 ^ 64 + (capOf 1 0 0).raw.toNat * 2 ^ 128 + upper.raw.toNat * 2 ^ 256
def attnState : State :=
  let s := withC (inData (inArena (inArena base 0 64 arenaBits) 0x40 16 layerBits) 128 128 jobBits) 4 (capOf 1 0 128)
  { s with mem := (s.mem.setTag (32 * 65536 + 144) true).setTag (32 * 65536 + 160) true }
def testArena : Arena := arenaFields 4 arenaBits

theorem wit_AttentionInstructions_attn : let s := attnState; let cap := s.rc 4; let segs := seg 128 128; let desc := s.readNat segs;
    s.onCompute ∧ s.hasRoom .C ∧ (∀ k, k ≤ 3 → s.boardRoom k = .ok ()) ∧ s.arena = .ok testArena ∧
    s.access cap { rd := true } cap.off 128 64 [] false = .ok segs ∧ s.layer testArena (jbLayer desc) = .ok layerBits ∧ jobOk desc = true ∧
    s.jobFits testArena layerBits desc = true ∧
    s.fieldCap cap segs 1 = capOf 1 0 0 ∧ s.fieldCap cap segs 2 = upper ∧ (s.fieldCap cap segs 3).tag = false ∧
    s.checkRange (capOf 1 0 0) { rd := true } (capOf 1 0 0).off (jbQn desc * lyH layerBits * lyDh layerBits * (if jbQfmt desc = 0 then 4 else 2)) = .ok () ∧
    s.checkRange upper { wr := true } upper.off (arrayLen (jbQn desc * lyH layerBits) (lyDh layerBits)) = .ok () := by decide +kernel

/-- With a barrier object at 512, named by the record's fourth capability. -/
theorem wit_AttentionInstructions_barrier : let s := inData attnState 176 16 (capOf 1 0 512).raw.toNat;
    let t : State := { s with mem := s.mem.setTag (32 * 65536 + 176) true };
    t.fieldCap (t.rc 4) (seg 128 128) 3 = capOf 1 0 512 ∧
    t.barObject (capOf 1 0 512) rmw (capOf 1 0 512).off = .ok ⟨32 * 65536 + 512, 16, 1, false, 0, 512⟩ := by decide +kernel

/-- A KVAPP descriptor at 1024 of object 1, and two state arrays of one record at its start. -/
theorem wit_AttentionInstructions :
    let s := withX (withX (inData (inData (inData attnState 1024 32 1) 0 8 (1 + 2 * 2 ^ 32)) 32768 8 (1 + 2 * 2 ^ 32)) 5 0) 6 (1024 - 128)
    let t := withC s 5 upper; let cap := s.rc 4
    s.layer testArena ((s.rx 5).toNat / 2 ^ 24 % 2 ^ 8) = .ok layerBits ∧ s.keyFits testArena layerBits 0 = true ∧ s.barAt 0 = .ok none ∧
    s.access cap { rd := true } (cap.off + (s.rx 6).toInt) 32 32 [] false = .ok (seg 1024 32) ∧
    (let desc := s.readNat (seg 1024 32); s.layer testArena (apLayer desc) = .ok layerBits ∧ apOk layerBits desc = true ∧
      s.keyFits testArena layerBits (kvKey (apSeq desc) (apLayer desc) (apBlock layerBits desc).1) = true ∧
      s.checkCap cap { rd := true } (cap.off + desc / 2 ^ 128 % 2 ^ 48 : Nat) (4 * lyG layerBits * lyDh layerBits) = .ok () ∧
      s.checkCap cap { rd := true } (cap.off + desc / 2 ^ 192 % 2 ^ 48 : Nat) (4 * lyG layerBits * lyDh layerBits) = .ok ()) ∧
    (let ha := 1 + 2 * 2 ^ 32; s.arrayHead (s.rc 2) = .ok ha ∧ t.arrayHead (t.rc 5) = .ok ha ∧ ha / 2 ^ 42 % 2 = 0 ∧
      s.checkCap (s.rc 2) { rd := true } (s.rc 2).off (arrayLen 1 2) = .ok () ∧ t.checkCap (t.rc 5) { rd := true } (t.rc 5).off (arrayLen 1 2) = .ok () ∧
      s.checkCap cap { wr := true } cap.off (arrayLen 1 2) = .ok ()) := by
  decide +kernel

/-- An arena with frames of 2^14 bytes; a map entry of sequence 1 with the frame at unit 768, in the buffers or in the table,
behind an entry of another key or not; the arena's piece. -/
def smallArena : Arena := { testArena with frameLog := 14 }
def testKey : Nat := kvKey 1 0 0
def testEntry : Nat := testKey + 768 * 2 ^ 56 + 2 ^ 110
def mapOffOf (j : Nat) : Nat := 0x1000 + 16 * ((testKey * 0x9E3779B97F4A7C15 % 2 ^ 64 / 2 ^ 54 + j) % 1024)
def arenaSeg (off n : Nat) : List Seg := [⟨48 * 65536 + off, n, 1, false, 0, off⟩]
def cachedState : State := { attnState with kvBufs := [⟨0, 0, testKey, mapOffOf 0, testEntry⟩] }
def mappedState : State := inArena (inArena attnState (mapOffOf 0) 16 (testEntry + 1)) (mapOffOf 1) 16 testEntry
/-- Neither the buffers nor the walk find a key. -/
def misses (s : State) (ar : Arena) (key : Nat) : Bool :=
  (s.kvCached 0 0 key).isNone && match s.kvWalk 0 0 ar key with | .ok w => w.hit.isNone | .error _ => false

theorem lookup_miss {s : State} {ar : Arena} {key : Nat} (h : misses s ar key = true) : s.kvLookup 0 0 ar key = .ok (s, none) := by
  unfold misses at h
  split at h
  · next w e => simp only [Bool.and_eq_true, Option.isNone_iff_eq_none] at h; exact State.kvLookup_miss h.1 e h.2
  · simp at h

def pooledState : State := { attnState with ifaces := [(0, { Iface.zero with cfg := some testCfg, kvPool := [768, 769] })] }

theorem wit_AttentionInstructions_kvmap :
    (∀ s ∈ [cachedState, mappedState, attnState], let t := Task.kvmap 3 testKey smallArena;
      (withOp s .C t).mayComplete 7 (opOf s .C t) ∧ (withOp s .C t).spills = []) ∧
    (withOp cachedState .C (.kvmap 3 testKey smallArena)).kvCached 0 0 testKey = some (mapOffOf 0, testEntry) ∧
    (∀ s ∈ [mappedState, attnState], let v := (withOp s .C (.kvmap 3 testKey smallArena)).settleDue 0;
      v.kvCached 0 0 testKey = none ∧ ∀ i, i ≤ 1 → answersOk (v.segsOf 0 0 (arenaCap 4) (mapOffOf i) 16 false) (arenaSeg (mapOffOf i) 16) = true) ∧
    mappedState.readNat (arenaSeg (mapOffOf 0) 16) % 2 ^ 56 ≠ testKey ∧ mappedState.readNat (arenaSeg (mapOffOf 0) 16) ≠ 0 ∧
    mappedState.readNat (arenaSeg (mapOffOf 1) 16) = testEntry ∧ attnState.readNat (arenaSeg (mapOffOf 0) 16) = 0 ∧
    testEntry / 2 ^ 110 % 2 = 1 ∧ testEntry / 2 ^ 123 % 2 = 0 ∧ testEntry % 2 ^ 56 = testKey := by decide +kernel

/-- SUMM of a key that misses; SUMM and KVAPP of one that the buffers hold, whose frame has a count of 0; KVAPP of one that misses. -/
def summTask (at_ : Option (Nat × List Nat)) : Task := .summ testKey 1 none smallArena (.ofNat 128 layerBits) at_
def kvappTask (at_ : Option (Nat × List Nat)) : Task := .kvapp (capOf 1 0 0) 1 smallArena (.ofNat 128 layerBits) at_

theorem wit_AttentionInstructions_found :
    (∀ t ∈ [summTask none, kvappTask none], let s := withOp cachedState .C t; let v := s.settleDue s.me.id;
      s.mayComplete 7 (opOf cachedState .C t) ∧ s.spills = [] ∧
      v.kvLookup 0 0 smallArena testKey = .ok (v, some (mapOffOf 0, testEntry)) ∧ v.kvCount 0 0 smallArena 768 = .ok 0) ∧
    testEntry / 2 ^ 56 % 2 ^ 40 = 768 ∧ codeFits layerBits (testEntry / 2 ^ 119 % 16) smallArena.frameLog = true ∧
    kvKey (apSeq 1) (apLayer 1) (apBlock layerBits 1).1 = testKey ∧ (apBlock layerBits 1).2.2 = none ∧ 1 / 2 ^ 37 % 2 = 0 := by
  have h (t : Task) (ht : t ∈ [summTask none, kvappTask none]) :
      ((withOp cachedState .C t).settleDue 0).kvCached 0 0 testKey = some (mapOffOf 0, testEntry) := by
    revert t; decide +kernel
  refine ⟨fun t ht => ⟨?_, ?_, State.kvLookup_cached (h t ht), ?_⟩, by decide +kernel⟩ <;> revert t <;> decide +kernel

theorem wit_AttentionInstructions_miss :
    (let s := withOp attnState .C (summTask none); let v := s.settleDue s.me.id;
      s.mayComplete 7 (opOf attnState .C (summTask none)) ∧ s.spills = [] ∧ v.kvLookup 0 0 smallArena testKey = .ok (v, none)) ∧
    (let s := withOp pooledState .C (kvappTask none); let v := s.settleDue s.me.id; let i : Nat := 0;
      s.mayComplete 7 (opOf pooledState .C (kvappTask none)) ∧ s.spills = [] ∧ v.kvCached 0 0 testKey = none ∧
      v.kvWalk 0 0 smallArena testKey = .ok ⟨none, some (mapOffOf 0), none⟩ ∧ (v.iface i).kvPool = [768, 769] ∧ testEntry < 2 ^ 119 ∧
      testKey < 2 ^ 56 ∧ codeFits layerBits 0 smallArena.frameLog = true ∧
      (let a := v.setIface i { v.iface i with kvPool := [769] };
        let t1 := a.writeSegs (arenaSeg 49152 16384) (bytesOf (2 ^ 14) 0);
        let t2 : State := { t1.writeSegs (arenaSeg (mapOffOf 0) 16) (bytesOf 16 testEntry) with kvBufs := [⟨0, 0, testKey, mapOffOf 0, testEntry⟩] };
        answersOk (a.segsOf 0 0 (arenaCap 4) (64 * 768) (2 ^ 14) true) (arenaSeg 49152 16384) = true ∧
        answersOk (t1.segsOf 0 0 (arenaCap 4) (mapOffOf 0) 16 true) (arenaSeg (mapOffOf 0) 16) = true ∧
        answersOk (t2.segsOf 0 0 (arenaCap 4) (smallArena.countOff 768) 4 true) (arenaSeg 0x800C 4) = true)) := by
  exact ⟨⟨by decide +kernel, by decide +kernel, lookup_miss (by decide +kernel)⟩, by decide +kernel⟩

/-- The heads of SUMM and of KVAPP in the frame at unit 768. -/
theorem wit_AttentionInstructions_heads : let f := frameOf layerBits 0;
    (let t := summTask (some (testEntry, [0])); let s := withOp attnState .C t; let v := s.settleDue s.me.id;
      s.mayComplete 7 (opOf attnState .C t) ∧ s.spills = [] ∧ testEntry / 2 ^ 119 % 16 < 3 ∧ v.barLost none = none ∧
      answersOk (v.segsOf 0 0 (arenaCap 4) (64 * 768 + f.keyRow 0 0) (64 * f.rbk) false) (arenaSeg 49152 64) = true ∧
      answersOk (v.segsOf 0 0 (arenaCap 4) (64 * 768 + f.meanRow 0) (64 * f.rbs) true) (arenaSeg (49152 + 8192) 64) = true ∧
      answersOk ((v.writeSegs (arenaSeg (49152 + 8192) 64) (bytesOf 64 1)).segsOf 0 0 (arenaCap 4) (64 * 768 + f.meanRow 0 + 64 * f.rbs)
        (64 * f.rbs) true) (arenaSeg (49152 + 8256) 64) = true) ∧
    (let t := kvappTask (some (testEntry, [0])); let s := withOp attnState .C t; let v := s.settleDue s.me.id;
      s.mayComplete 7 (opOf attnState .C t) ∧ s.spills = [] ∧
      answersOk (v.segsOf 0 0 (capOf 1 0 0) 0 (4 * 2) false) (seg 0 8) = true ∧
      answersOk (v.segsOf 0 0 (arenaCap 4) (64 * 768 + f.keyRow 0 0) (64 * f.rbk) true) (arenaSeg 49152 64) = true ∧
      answersOk ((v.writeSegs (arenaSeg 49152 64) (bytesOf 64 1)).segsOf 0 0 (arenaCap 4) (64 * 768 + f.valRow 0 0) (64 * f.rbv) true)
        (arenaSeg (49152 + 4096) 64) = true) := by decide +kernel

/-- AMERGE's last record, merged with another array's and finalised. -/
theorem wit_AttentionInstructions_amerge : ∀ cb ∈ [none, some (capOf 1 0 4096)],
    let t := Task.amerge upper (capOf 1 0 0) cb 1 2 false ⟨0, [], false, false, false⟩; let s := withOp attnState .C t; let v := s.settleDue s.me.id;
    s.mayComplete 7 (opOf attnState .C t) ∧ s.spills = [] ∧ answersOk (v.segsOf 0 0 (capOf 1 0 0) 64 24 false) (seg 64 24) = true ∧
    (∀ x ∈ cb, answersOk (v.segsOf 0 0 x (x.off + 64) 24 false) (seg (4096 + 64) 24) = true) ∧
    answersOk (v.segsOf 0 0 upper (upper.off + 64) 24 true) (seg (32768 + 64) 24) = true ∧
    answersOk ((v.writeSegs (seg (32768 + 64) 24) (bytesOf 24 1)).segsOf 0 0 upper upper.off 64 true) (seg 32768 64) = true := by decide +kernel

/-! Soft registers, the log, the tree, traps -/

def withS (s : State) (k : Nat) (d : BitVec 128) (dig : Nat) : State :=
  { s with me := { s.me with ctx := { s.me.ctx with s := vset s.me.ctx.s k ⟨d, .ofNat 64 dig⟩ } } }

/-- A MIX of two pairs (5, 1.0) and (9, 0.5), at an offset of the scratchpad. -/
def mixDesc (off : Nat) : BitVec 128 := softDesc 0 2 0 off 1 2 0 0 0 3
def mixState (off : Nat) : State :=
  withS (inPad base off 16 (5 + 0x3F800000 * 2 ^ 32 + (9 + 0x3F000000 * 2 ^ 32) * 2 ^ 64)) 1 (mixDesc off) 0
def textDesc (tok : Nat) : BitVec 128 := softDesc tok 1 0 0 1 2 0 0 0 1

/-- An embedding table of 16 rows of 16 FP32 elements at the start of object 1; s2 names the end of the scratchpad. -/
def embState (s : State) : State :=
  withS (inData s 0 64 (16 + 16 * 2 ^ 32 + 0x40 * 2 ^ 48 + 64 * 2 ^ 64)) 2 (softDesc 0 0 0 (softLimit - 64) 0 0 0 0 0 0) 0

theorem wit_SoftRegisters :
    base.onCompute ∧ base.softReady 1 = .ok () ∧ base.softFree 2 = .ok () ∧ base.hasRoom .S ∧ base.hasRoom .C ∧
    (∀ k, k ≤ 20 → base.boardRoom k = .ok ()) ∧
    (let s := inData base 0 32 (textDesc 7).toNat;
      s.access (s.rc 2) { rd := true } (s.rc 2).off 32 32 [] false = .ok (seg 0 32) ∧ s.syncAccess (seg 0 32) false = .ok () ∧
      softOk (s.readNat (seg 0 32) % 2 ^ 128) = true) ∧
    base.access (base.rc 2) { wr := true } (base.rc 2).off 32 32 [] false = .ok (seg 0 32) ∧
    (∀ off ∈ [64, softLimit - 24], let s := mixState off; let q := (s.rs 1).desc.toNat;
      let pad := Sys2Proof.Machine.padSeg (s.me.id / 128) (sfOff q) (8 * sfLen q); let pairs := mixPairs (sfLen q) (s.readNat [pad]);
      s.softFree 1 = .ok () ∧ sfKind q = 3 ∧ s.syncAccess [pad] false = .ok () ∧ pairs.map (·.1) = [5, 9] ∧
      pairs[1]?.map (·.1) = some 9 ∧ (∀ i, i < 1 → pairs[i]?.map (·.1) ≠ some 9) ∧ (∀ p ∈ pairs, p.1 ≠ 7) ∧
      sfLen q < 16 ∧ sfOff q + 8 * (sfLen q + 1) ≤ softLimit) := by
  decide +kernel

theorem wit_SoftRegisters_semb : (∀ e ∈ [(withS base 1 (textDesc 5) 0, [(5, 0x3F800000)]), (mixState 64, [(5, 0x3F800000), (9, 0x3F000000)])],
    let s := embState e.1; let cap := s.rc 2; let q := (s.rs 2).desc.toNat; let p := (s.rs 1).desc.toNat; let v := s.readNat (seg 0 64);
    s.onCompute ∧ s.softReady 1 = .ok () ∧ s.softFree 2 = .ok () ∧ s.hasRoom .C ∧ (∀ k, k ≤ 20 → s.boardRoom k = .ok ()) ∧
    (sfKind p = 1 ∧ e.2 = [(sfTok p, 0x3F800000)] ∨ sfKind p = 3 ∧ sfLen p ≤ 16 ∧
      s.padRead (sfOff p) (8 * sfLen p) = .ok (5 + 0x3F800000 * 2 ^ 32 + (9 + 0x3F000000 * 2 ^ 32) * 2 ^ 64) ∧
      e.2 = mixPairs (sfLen p) (5 + 0x3F800000 * 2 ^ 32 + (9 + 0x3F000000 * 2 ^ 32) * 2 ^ 64)) ∧
    s.access cap { rd := true } cap.off 64 64 [] false = .ok (seg 0 64) ∧ s.syncCommand = .ok () ∧ embOk v = true ∧
    (∀ t ∈ e.2, t.1 < v % 2 ^ 32 ∧ s.access cap { rd := true } (cap.off + 64 + t.1 * (v / 2 ^ 64 % 2 ^ 64) : Nat)
      (v / 2 ^ 32 % 2 ^ 16 * sfmtSize (v / 2 ^ 48 % 2 ^ 8)) 1 [] false = .ok (seg (64 + t.1 * 64) 64)) ∧
    sfOff q % 64 = 0 ∧ sfOff q + 4 * (v / 2 ^ 32 % 2 ^ 16) ≤ softLimit) := by decide +kernel

/-- A position log at the start of object 1, of 4 records of which `next` are written; record 1 is given, and s1 is a TEXT. -/
def withLog (s : State) (next r : Nat) : State := inData (inData s 0 64 (next + 4 * 2 ^ 64 + 0 * 2 ^ 128 + 1024 * 2 ^ 192)) 96 32 r
def logState (next kind : Nat) : State := withS (withLog base next (logRecord 1 0 0 77 5 kind 2 0)) 1 (textDesc 9) 0

/-- A soft vector of two FP32 elements. -/
def vecState : State := withS (inPad base 64 8 0x3F8000003F800000) 1 (softDesc 0 2 0x40 64 1 2 0 0 0 2) 0

theorem wit_SoftPositions :
    base.onCompute ∧ base.hasRoom .C ∧ (∀ k, k ≤ 2 → base.boardRoom k = .ok ()) ∧
    (let s := mixState 64; let q := (s.rs 1).desc.toNat;
      s.softReady 1 = .ok () ∧ s.softFree 1 = .ok () ∧ s.softFree 2 = .ok () ∧ sfKind q = 3 ∧ sfLen q ≠ 0 ∧
      s.padRead (sfOff q) (8 * sfLen q) = .ok (5 + 0x3F800000 * 2 ^ 32 + (9 + 0x3F000000 * 2 ^ 32) * 2 ^ 64)) ∧
    (let s := vecState; let q := (s.rs 1).desc.toNat; s.softReady 1 = .ok () ∧ s.softFree 1 = .ok () ∧ 2 ≤ sfKind q ∧ s.padRead (sfOff q) (sfBytes q) = .ok 0x3F8000003F800000) ∧
    (∀ n ∈ [0, 3], ∀ e ∈ [(logState n 1, 1, 0), (withLog vecState n 0, 2, 0x3F8000003F800000),
        (withLog (mixState 64) n 0, 3, 5 + 0x3F800000 * 2 ^ 32 + (9 + 0x3F000000 * 2 ^ 32) * 2 ^ 64)],
      let s := e.1; let q := (s.rs 1).desc.toNat; let cap := s.rc 2; let hs := seg 0 64;
      s.softReady 1 = .ok () ∧ s.softFree 1 = .ok () ∧ sfKind q = e.2.1 ∧ s.access cap ⟨true, true, true, false⟩ cap.off 64 64 logKinds true = .ok hs ∧ s.syncCommand = .ok () ∧
      s.padRead (sfOff q) (sfBytes q) = .ok e.2.2 ∧
      (let h := logHead (s.readNat hs); let used := (h.used + 63) / 64 * 64;
        h.next ≠ h.limit ∧ used + sfBytes q ≤ h.alimit ∧
        s.checkCap cap ⟨true, true, true, false⟩ (cap.off + 64 + 32 * h.next : Nat) 32 = .ok () ∧
        s.checkCap cap ⟨true, true, true, false⟩ (cap.off + ((64 + 32 * h.limit + 63) / 64 * 64 + used) : Nat) (sfBytes q) = .ok ())) := by
  decide +kernel

theorem wit_SoftPositions_replay : (∀ k ∈ [1, 4], let s := withX (logState 2 k) 5 1; let cap := s.rc 2; let hs := seg 0 64; let rs := seg 96 32;
      let n := (s.rx 5).toNat % 2 ^ 32;
      s.softReady 1 = .ok () ∧ s.softFree 2 = .ok () ∧
      s.access cap { rd := true } cap.off 64 64 logKinds false = .ok hs ∧ s.syncCommand = .ok () ∧
      n < (logHead (s.readNat hs)).next ∧ s.access cap { rd := true } (cap.off + 64 + 32 * n : Nat) 32 1 [] false = .ok rs ∧
      lrOk (logHead (s.readNat hs)) (s.readNat rs) = true ∧ lrKind (s.readNat rs) = k) := by
  decide +kernel

/-- The digest that a record of KIND 2 or 3 has for its bytes. -/
def digestOf (fmt : Nat) (bytes : List Byte) : Nat := natOfBytes (Keccak.shake256 8 (.ofNat 8 fmt :: bytes))

/-- Records of two FP32 elements and of no pair, whose bytes stand at 192. -/
theorem wit_SoftPositions_contents : (∀ e ∈ [(2, 0x40, 2), (3, 0, 0)], let bytes := bytesOf 8 0x3F8000003F800000;
      let r := logRecord e.2.2 192 e.2.1 (digestOf e.2.1 (if e.2.2 = 0 then [] else bytes)) 5 e.1 2 0;
      let s := withX (withS (inData (withLog base 2 r) 192 8 0x3F8000003F800000) 2 (softDesc 0 0 0 64 0 0 0 0 0 0) 0) 5 1; let cap := s.rc 2;
      let p := (s.rs 2).desc.toNat;
      s.softReady 1 = .ok () ∧ s.softFree 2 = .ok () ∧
      s.access cap { rd := true } (cap.off + 64 + 32 * 1 : Nat) 32 1 [] false = .ok (seg 96 32) ∧
      lrOk (logHead (s.readNat (seg 0 64))) (s.readNat (seg 96 32)) = true ∧ lrKind (s.readNat (seg 96 32)) = e.1 ∧
      lrTok (s.readNat (seg 96 32)) = digestOf e.2.1 (if e.2.2 = 0 then [] else bytes) ∧
      (e.2.2 = 0 ∧ lrBytes r = 0 ∨ lrBytes r = 8 ∧ s.readSegs (seg 192 8) = bytes ∧
        s.access cap { rd := true } (cap.off + lrAoff r : Nat) 8 1 [] false = .ok (seg 192 8)) ∧
      sfOff p % 64 = 0 ∧ sfOff p + lrBytes r ≤ softLimit) := by
  decide +kernel

/-- A tree at the start of object 1 whose one node holds the key 77, and a key list of 77 at 64 of the scratchpad. -/
def treeState (root : Nat) : State :=
  withX (inPad (inData (inData (inData base 0 64 (1 + root * 2 ^ 32)) 64 64
    (0xFFFFFFFF * 2 ^ 32 + 0xFFFFFFFF * 2 ^ 64 + 1 * 2 ^ 96 + 3 * 2 ^ 128)) 128 8 77) 64 8 77) 5 (64 + 2 ^ 32)

theorem wit_SpliceTreeInstructions :
    base.onCompute ∧ base.hasRoom .C ∧ (∀ k, k ≤ 2 → base.boardRoom k = .ok ()) ∧ attnState.arena = .ok testArena ∧
    (∀ p ∈ [(0, 1, 1), (noNode, 0, 0)], let s := treeState p.1; let cap := s.rc 2; let hs := seg 0 64;
      (s.rx 5).toNat % 2 ^ 22 = 64 ∧ (s.rx 5).toNat / 2 ^ 32 % 2 ^ 16 = 1 ∧ s.syncCommand = .ok () ∧ s.padRead 64 8 = .ok 77 ∧
      s.access cap { rd := true } cap.off 64 64 treeKinds false = .ok hs ∧
      s.access cap ⟨true, true, false, false⟩ cap.off 64 64 treeKinds false = .ok hs ∧
      (match s.unspilled.treeWalk s.me.id s.me.iface cap (s.readNat hs) ((List.range 1).map fun i => 77 / 2 ^ (64 * i) % 2 ^ 64) with
        | .ok t => t.pos == p.2.1 && t.handles.length == p.2.2 && decide (64 + 8 * 1 + 8 * t.handles.length ≤ softLimit)
        | .error _ => false) = true) := by decide +kernel

/-- SPLFIND, and SPLINS of a list that the tree holds, of one with a key more, and into an empty tree with a free node. -/
def splinsTask (n : Nat) : Task := .splins (capOf 1 0 0) 64 n 3 0
def longList (root : Nat) : State := inPad (treeState root) 64 16 (77 + 78 * 2 ^ 64)

theorem wit_SpliceTreeInstructions_trees :
    (withOp base .C (.splfind 3 72 (bytesOf 8 1) 1)).mayComplete 7 (opOf base .C (.splfind 3 72 (bytesOf 8 1) 1)) ∧
    (∀ e ∈ [(0, 1, [77], 1), (0, 2, [77, 78], 1), (noNode, 2, [77, 78], 0)],
      let s := withOp (longList e.1) .C (splinsTask e.2.1); let w := s.settleDue s.me.id; let c := capOf 1 0 0;
      s.mayComplete 7 (opOf (longList e.1) .C (splinsTask e.2.1)) ∧ s.spills = [] ∧
      w.treeRead 0 0 c 0 64 = .ok (1 + e.1 * 2 ^ 32) ∧
      (let v := w.readNat [Sys2Proof.Machine.padSeg 0 64 (8 * e.2.1)]; (List.range e.2.1).map (fun i => v / 2 ^ (64 * i) % 2 ^ 64) = e.2.2.1) ∧
      (match w.treeWalk 0 0 c (1 + e.1 * 2 ^ 32) e.2.2.1 with | .ok t => t.pos == e.2.2.2 | .error _ => false) = true) ∧
    (let s := withOp (longList 0) .C (splinsTask 2); let w := s.settleDue s.me.id; let c := capOf 1 0 0;
      let h := noNode * 2 ^ 32 + noNode * 2 ^ 64 + 1 * 2 ^ 96 + 3 * 2 ^ 128;
      (match w.treeWalk 0 0 c 1 [77, 78] with | .ok t => t.best == some (0, 1, h) | .error _ => false) = true ∧
      nhFill h = 1 ∧ nhSeq h = 3 ∧ nhBlk h = (0 + 1 / 64) % 2 ^ 24 ∧ inBounds c (c.off + (nodeOff 0 + 64 + 8 * 1) : Nat) 8 = true ∧
      answersOk (w.segsOf 0 0 c (nodeOff 0 + 64 + 8 * 1) 8 true) (seg 136 8) = true ∧ inBounds c (c.off + nodeOff 0 : Nat) 64 = true ∧
      answersOk ((w.writeSegs (seg 136 8) (bytesOf 8 78)).segsOf 0 0 c (nodeOff 0) 64 true) (seg 64 64) = true) ∧
    (let s := withOp (longList noNode) .C (splinsTask 2); let w := s.settleDue s.me.id; let c := capOf 1 0 0; let hdr := 1 + noNode * 2 ^ 32;
      let fh := 0xFFFFFFFF * 2 ^ 32 + 0xFFFFFFFF * 2 ^ 64 + 1 * 2 ^ 96 + 3 * 2 ^ 128;
      hdr / 2 ^ 32 % 2 ^ 32 = noNode ∧ hdr / 2 ^ 64 % 2 ^ 32 = 0 ∧ 0 ≠ noNode ∧ 0 < hdr % 2 ^ 32 ∧ w.treeRead 0 0 c (nodeOff 0) 64 = .ok fh ∧
      (let a := w.writeSegs (seg 0 64) (bytesOf 64 (treeHeader (setBits hdr 95 64 (nhNext fh))));
        let b := a.writeSegs (seg 64 64) (bytesOf 64 (noNode + noNode * 2 ^ 32 + noNode * 2 ^ 64 + 2 * 2 ^ 96 + 3 * 2 ^ 128 + 0 % 2 ^ 24 * 2 ^ 152));
        let d := b.writeSegs (seg 128 16) (bytesOf 16 (packWords 64 [77, 78]));
        answersOk (w.segsOf 0 0 c 0 64 true) (seg 0 64) = true ∧ answersOk (a.segsOf 0 0 c (nodeOff 0) 64 true) (seg 64 64) = true ∧
        answersOk (b.segsOf 0 0 c (nodeOff 0 + 64) 16 true) (seg 128 16) = true ∧ answersOk (d.segsOf 0 0 c 0 64 false) (seg 0 64) = true ∧
        answersOk (d.segsOf 0 0 c 0 64 true) (seg 0 64) = true ∧ d.readNat (seg 0 64) / 2 ^ 32 % 2 ^ 32 = noNode ∧
        inBounds c (c.off + 0 : Nat) 64 = true ∧ inBounds c (c.off + nodeOff 0 : Nat) 64 = true ∧
        inBounds c (c.off + (nodeOff 0 + 64) : Nat) 16 = true)) := by decide +kernel

/-- SPLREF that releases layer 0 of sequence 1, and one that shares layer 0 of sequence 2 with it; the buffers hold what is found. -/
def sharedEntry : Nat := kvKey 2 0 0 + 768 * 2 ^ 56 + 2 ^ 110
def heldState : State := { base with kvBufs := cachedState.kvBufs }
def sharedState : State := { base with kvBufs := [⟨0, 0, kvKey 2 0 0, 0x1000, sharedEntry⟩] }
def splrefTask (release : Bool) : Task := .splref 1 0 release 2 0 smallArena

theorem wit_SpliceTreeInstructions_release : let s := withOp heldState .C (splrefTask true); let w := s.settleDue s.me.id;
    let z := (testEntry - testEntry / 2 ^ 110 % 2 * 2 ^ 110) % 2 ^ 124;
    let a : State := { w.writeSegs (arenaSeg (mapOffOf 0) 16) (bytesOf 16 z) with
      kvBufs := w.kvBufs.filter fun b => !(b.iface == 0 && (b.off == mapOffOf 0 || b.key == keK testEntry)) };
    let b := a.writeSegs (arenaSeg 0x800C 4) (bytesOf 4 ((a.readNat (arenaSeg 0x800C 4) + 2 ^ 32 - 1) % 2 ^ 32));
    let t : State := if a.readNat (arenaSeg 0x800C 4) % 2 ^ 32 = 1 then { b with freed := b.freed ++ [⟨0, 768, w.lookedUp 0⟩] } else b;
    s.mayComplete 7 (opOf heldState .C (splrefTask true)) ∧ s.spills = [] ∧
    w.kvLookup 0 0 smallArena (kvKey 1 0 0) = .ok (w, some (mapOffOf 0, testEntry)) ∧
    answersOk (w.segsOf 0 0 (arenaCap 4) (mapOffOf 0) 16 true) (arenaSeg (mapOffOf 0) 16) = true ∧
    (∀ d ∈ [true, false], answersOk (a.segsOf 0 0 (arenaCap 4) (smallArena.countOff 768) 4 d) (arenaSeg 0x800C 4) = true) ∧
    ∀ l, l < 256 → 0 < l → t.kvLookup 0 0 smallArena (kvKey 1 l 0) = .ok (t, none) := by
  refine ⟨by decide +kernel, by decide +kernel, State.kvLookup_cached (by decide +kernel), by decide +kernel, by decide +kernel, ?_⟩
  intro l h h0
  apply lookup_miss; revert l; decide +kernel

theorem wit_SpliceTreeInstructions_share : let s := withOp sharedState .C (splrefTask false); let w := s.settleDue s.me.id;
    let n := kvKey 1 0 0 + 768 * 2 ^ 56 + 2 ^ 110;
    let a : State := { w.writeSegs (arenaSeg (mapOffOf 0) 16) (bytesOf 16 n) with
      kvBufs := ⟨0, 0, kvKey 1 0 0, mapOffOf 0, n⟩ :: w.kvBufs.filter fun b => !(b.iface == 0 && (b.off == mapOffOf 0 || b.key == kvKey 1 0 0)) };
    let t := a.writeSegs (arenaSeg 0x800C 4) (bytesOf 4 ((a.readNat (arenaSeg 0x800C 4) + 1) % 2 ^ 32));
    s.mayComplete 7 (opOf sharedState .C (splrefTask false)) ∧ s.spills = [] ∧
    w.kvLookup 0 0 smallArena (kvKey 1 0 0) = .ok (w, none) ∧ w.kvLookup 0 0 smallArena (kvKey 2 0 0) = .ok (w, some (0x1000, sharedEntry)) ∧
    w.kvWalk 0 0 smallArena (kvKey 1 0 0) = .ok ⟨none, some (mapOffOf 0), none⟩ ∧ kvKey 1 0 0 < 2 ^ 56 ∧
    n = kvKey 1 0 0 + sharedEntry / 2 ^ 56 % 2 ^ 40 * 2 ^ 56 + sharedEntry / 2 ^ 96 % 2 ^ 12 * 2 ^ 96 +
      sharedEntry / 2 ^ 108 % 2 * 2 ^ 108 + 2 ^ 110 + sharedEntry / 2 ^ 119 % 16 * 2 ^ 119 ∧
    answersOk (w.segsOf 0 0 (arenaCap 4) (mapOffOf 0) 16 true) (arenaSeg (mapOffOf 0) 16) = true ∧
    (∀ d ∈ [true, false], answersOk (a.segsOf 0 0 (arenaCap 4) (smallArena.countOff 768) 4 d) (arenaSeg 0x800C 4) = true) ∧
    ∀ l, l < 256 → 0 < l → t.kvLookup 0 0 smallArena (kvKey 1 l 0) = .ok (t, none) ∧ t.kvLookup 0 0 smallArena (kvKey 2 l 0) = .ok (t, none) := by
  refine ⟨by decide +kernel, by decide +kernel, lookup_miss (by decide +kernel), State.kvLookup_cached (by decide +kernel), by decide +kernel,
    by decide +kernel, by decide +kernel, by decide +kernel, by decide +kernel, ?_⟩
  intro l h h0
  constructor <;> apply lookup_miss <;> revert l <;> decide +kernel

/-- PLYCUT on an interface without an arena; on one whose map has no entry that it cuts, and one entry. -/
def cutEntry : Nat := 1 + 2 ^ 109 + 2 ^ 110 + 3 * 2 ^ 111
def mapState (e : Nat) : State := inArena (inArena base 0 64 arenaBits) (mapOffOf 0) 16 e
def bareIface : State := { base with ifaces := [(0, { Iface.zero with cfg := some { testCfg with arena := none } })] }

/-- What its walk of the map reads: an entry of the table, or nothing. -/
def cutWalk (e : Nat) : State := ((withOp (mapState e) .C (.plycut 1 3)).settleDue 0).cutUnits 0 1 3 7
def entryAt (e n : Nat) : Nat := if n = testKey * 0x9E3779B97F4A7C15 % 2 ^ 64 / 2 ^ 54 % 1024 then e else 0

theorem cutWalk_reads (e : Nat) (h : e ∈ [0, cutEntry]) (n : Nat) (hn : n < 1024) :
    (cutWalk e).gread 0 0 (arenaCap testArena.oid) (testArena.entryOff n) 16 = .ok (entryAt e n) ∧ keLink (entryAt e n) = false := by
  simp only [List.mem_cons, List.not_mem_nil, or_false] at h
  rcases h with rfl | rfl <;> revert n <;> decide +kernel

theorem wit_SpliceTreeInstructions_plycut : let t := Task.plycut 1 3;
    (∀ s ∈ [bareIface, mapState 0, mapState cutEntry], let v := withOp s .C t;
      v.mayComplete 7 (opOf s .C t) ∧ v.spills = [] ∧ (v.settleDue 0).appending 0 1 3 7 = false) ∧
    (withOp bareIface .C t).arenaOid 0 = none ∧
    (∀ e ∈ [(0, []), (cutEntry, [(mapOffOf 0, cutEntry)])],
      ((withOp (mapState e.1) .C t).settleDue 0).cutArena 0 0 = .ok (some testArena) ∧
      ((List.range 1024).map fun n => (testArena.entryOff n, entryAt e.1 n)).filter (fun p => p.2 / 2 ^ 110 % 2 == 1 && p.2 / 2 ^ 123 % 2 == 0 &&
        p.2 / 2 ^ 109 % 2 == 1 && p.2 % 2 ^ 24 == 1 && decide (3 ≤ p.2 / 2 ^ 111 % 256)) = e.2) ∧
    (let u := cutWalk cutEntry; let a := u.writeSegs (arenaSeg (mapOffOf 0) 16) (bytesOf 16 ((cutEntry - 2 ^ 110) % 2 ^ 124));
      answersOk (u.segsOf 0 0 (arenaCap 4) (mapOffOf 0) 16 true) (arenaSeg (mapOffOf 0) 16) = true ∧
      ∀ d ∈ [true, false], answersOk (a.segsOf 0 0 (arenaCap 4) (testArena.countOff (cutEntry / 2 ^ 56 % 2 ^ 40)) 4 d) (arenaSeg 0x8000 4) = true) := by
  decide +kernel

theorem wit_SpliceTreeInstructions_entries (e : Nat) (h : e ∈ [0, cutEntry]) :
    (cutWalk e).kvEntries 0 0 testArena = .ok ((List.range 1024).map fun n => (testArena.entryOff n, entryAt e n)) :=
  State.kvEntries_plain (entryAt e) (cutWalk_reads e h)

theorem wit_SystemRegisters :
    1 ≤ (inHandler base 1).me.lvl ∧ 1 ≤ (inHandler base 2).me.lvl ∧ base.me.lvl = 0 ∧ base.me.steward = none ∧ base.mayTrap ∧ (inHandler base 1).hasRoom .C ∧
    ((withX base 5 (2 ^ 63)).rx 5).getLsbD 63 = true ∧ ((withX base 5 1).rx 5).getLsbD 63 = false := by decide +kernel

/-- The queue of priority 0 of CD0 with a full ring. -/
def fullQueue (s : State) : State :=
  { s with queues := [(0, List.replicate 256 ⟨.one placedRec, [], false, 0⟩)], module := { s.module with ring := 0 } }

theorem wit_TrapsAreTaken : base.mayTrap ∧ (inHandler base 1).mayTrap ∧ (inHandler base 1).me.mode = .super ∧
    (let s := withOp base .L loadTask; s.me.lvl < 2 ∧ s.me.drained false = false) ∧
    2 ≤ (inHandler base 2).me.lvl ∧ (inHandler base 2).me.groups = [] ∧ (inHandler base 2).me.steward = none ∧
    (inHandler base 2).cfg (inHandler base 2).me.iface = some testCfg ∧ testCfg.faultRing = none ∧
    ({ inHandler base 2 with ifaces := [] } : State).cfg 0 = none ∧
    (inHandler base 2).ringFull ((inHandler base 2).me.id / 16384) (inHandler base 2).me.restart.prio = false ∧
    (let s := fullQueue (inHandler base 2); 2 ≤ s.me.lvl ∧ s.me.groups = [] ∧ s.me.steward = none ∧
      s.ringFull (s.me.id / 16384) s.me.restart.prio = true) ∧
    (∀ s ∈ [parked base .restart, fullQueue (parked base .restart)], let t := { s with agenda := [.requeue 0] };
      t.module.boot ≠ .off ∧ (t.slot 0).id = 0 ∧ (t.slot 0).block = some .restart ∧ t.ringFull (0 / 16384) (t.slot 0).restart.prio = t.queues.any fun _ => true) := by
  decide +kernel

/-- The interface with a fault ring at an offset of an object, of 4 slots of which `pub` − `rel` are full. -/
def ringState (oid off pub rel : Nat) : State :=
  inData { inHandler base 2 with ifaces := [(0, { Iface.zero with cfg := some { testCfg with faultRing := some (oid, off) } })] }
    off 64 (pub + rel * 2 ^ 64 + 4 * 2 ^ 128)

/-- A ring with room, one that is full, one whose control block and one whose record lies outside its object. -/
theorem wit_TrapsAreTaken_ring :
    (∀ e ∈ [(256, 3, 0), (256, 4, 0)], let s := ringState 1 e.1 e.2.1 e.2.2; let cap := s.objCap s.me.iface 1; let at_ (o : Nat) := s.stream 0 s.me.iface cap o 64 true;
      s.cfg s.me.iface = some { testCfg with faultRing := some (1, e.1) } ∧ cap.tag = true ∧ cap.kind = 0 ∧ at_ e.1 = .ok (seg e.1 64) ∧
      (let v := s.readNat (seg e.1 64); v / 2 ^ 128 % 2 ^ 32 = 4 ∧ v % 2 ^ 64 = e.2.1 ∧ v / 2 ^ 64 % 2 ^ 64 = e.2.2) ∧
      at_ (e.1 + 64 + 64 * (e.2.1 % 4)) = .ok (seg (e.1 + 64 + 64 * (e.2.1 % 4)) 64) ∧
      s.separate (seg e.1 64 ++ seg (e.1 + 64 + 64 * (e.2.1 % 4)) 64)) ∧
    (let s := ringState 1 65536 0 0; (s.stream 0 0 (s.objCap 0 1) 65536 64 true).isOk = false) ∧
    (let s := ringState 1 65472 0 0; (s.stream 0 0 (s.objCap 0 1) 65472 64 true).isOk = true ∧
      (s.stream 0 0 (s.objCap 0 1) (65472 + 64) 64 true).isOk = false) ∧
    ((ringState 9 0 0 0).objCap 0 9).tag = false ∧
    (let s := withObject (ringState 7 0 0 0) 7 5 49; (s.objCap 0 7).kind ≠ 0 ∧ (s.objCap 0 7).kind ≠ 4) := by
  decide +kernel

theorem wit_TrapEntryState : base.me.lvl < 2 ∧ (inHandler base 1).me.lvl = 1 ∧ (255 : Nat) < 2 ^ 8 ∧ (15 : Nat) < 2 ^ 4 ∧
    (∀ wd ∈ [true, false], ∀ n ∈ [0, 1], (inHandler base n).me.drained wd = true ∧ (inHandler base n).me.dogHand = none) ∧
    base.cfg base.me.iface = some testCfg ∧
    ({ base with me := { base.me with dogHand := some 9 } } : State).me.dogHand.isSome = true := by decide +kernel

theorem wit_ReturnFromATrap :
    (∀ n ∈ [1, 2], let s := inHandler base n; 1 ≤ s.me.lvl ∧ (∀ o ∈ s.me.ops, o.lvl ≠ s.me.lvl) ∧ s.me.pend = [] ∧ s.me.bank.wd = false ∧
      s.me.dogHeld = false) ∧
    (let s := inHandler { base with me := { base.me with dogHeld := true } } 1;
      1 ≤ s.me.lvl ∧ s.me.ops = [] ∧ s.me.pend = [] ∧ s.me.bank.wd = false ∧ s.me.lvl = 1 ∧ s.me.dogHeld = true) ∧
    (let s := inHandler { base with me := { base.me with bank1 := { Bank.zero with wd := true } } } 1;
      1 ≤ s.me.lvl ∧ s.me.ops = [] ∧ s.me.pend = [] ∧ s.me.bank.wd = true ∧ s.me.groups = [] ∧ s.me.steward = none ∧
      s.ringFull (s.me.id / 16384) s.me.restart.prio = false) := by decide +kernel


/-! Events of other agents -/

/-- Object 1's entry as `withObject` caches it, and its leaf. -/
def entry1 : BitVec 256 := .ofNat 256 (1 * 2 ^ 213 + 2 ^ 206 + 65536 * 2 ^ 144)
def leaf1 : BitVec 64 := .ofNat 64 (2 ^ 63 + 2 ^ 60 + 32 * 2 ^ 16 + 65535)

theorem wit_SlotEvents :
    (let s := withOp base .L loadTask; let o := opOf base .L loadTask;
      s.findOp 0 7 = some (o, true) ∧ s.mayGo 0 o true = true ∧ s.storesDone 0 o true = true) ∧
    (∀ f ∈ [0, 65536, 2 ^ 31], let s := parked (withTables base) (.walk 0 1 f 0);
      (s.slot 0).id = 0 ∧ (s.slot 0).block = some (.walk 0 1 f 0) ∧ s.objEntry 0 1 = some entry1 ∧ oeKind entry1 ≠ 3) ∧
    (∀ f ∈ [0, 2 ^ 31], let s := parked (withTables base) (.page 0 1 f 0);
      (s.slot 0).block = some (.page 0 1 f 0) ∧ s.objEntry 0 1 = some entry1 ∧ s.walk entry1 f ≠ .absent) ∧
    (let s := withTables base; s.walk entry1 0 = .leaf leaf1 0x20000 0 ∧ s.walk entry1 65536 = .absent ∧ s.walk entry1 (2 ^ 31) = .bad) ∧
    (base.slot 0).busy = true ∧ (base.slot 0).pre = false ∧ (base.slot 0).steward = none ∧ (base.slot 0).block ≠ some .restart := by decide +kernel

/-- An expiry in a handler, with a trap pending, with a command that is dropped, and with one that is not. -/
def expiring (s : State) : State := { s with time := 5, me := { s.me with dog := some 5, dogHand := some 5 } }

theorem wit_SlotEvents_watchdog :
    (∀ s ∈ [inHandler base 1, { base with me := { base.me with trapPend := some ⟨9, 0, 0, 0, false⟩ } }, base,
        withOp base .C (.launch 0), withOp base .C (.bgload 3 256), withOp base .L loadTask], let t := expiring s;
      (t.slot 0).dog = some 5 ∧ (t.slot 0).dogHand = some 5 ∧ 5 ≤ t.time ∧ (t.slot 0).busy = true ∧ (t.slot 0).id = 0 ∧ t.retiring 0 = false) ∧
    ((expiring (inHandler base 1)).slot 0).lvl = 1 ∧ ((expiring base).slot 0).lvl = 0 ∧ ((expiring base).slot 0).trapPend = none ∧
    (opOf base .C (.launch 0)).cls = .C ∧ (opOf base .C (.launch 0)).begun = false ∧ (opOf base .C (.bgload 3 256)).begun = false ∧ (opOf base .L loadTask).cls = .L := by
  decide +kernel

theorem wit_SlotEvents_idle :
    (let s := parked { base with core := { base.core with clock := 64 } } (.idle 63);
      (s.slot 0).block = some (.idle 63) ∧ 63 < s.clockOf 0) ∧
    (let s := parked { base with me := { base.me with pre := true } } (.idle 63); (s.slot 0).block = some (.idle 63) ∧ (s.slot 0).pre = true) := by
  decide +kernel

theorem wit_SlotEvents_endc : (∀ j ∈ [0xFFFFFFFF, 32], let s := parked (inData (withRec base { placedRec with join := .ofNat 32 j }) 32 8 2) (.endc 0);
    (s.slot 0).block = some (.endc 0) ∧ (s.slot 0).quiet = true ∧ (s.slot 0).trapPend = none ∧
    (let u : State := { s.turnTo 0 with ir := 0 }; u.launch? u.me.ctx.r.lid = some baseLaunch ∧ u.me.ctx.r.join = .ofNat 32 j ∧
      u.joinSegs baseLaunch.r.frame (u.me.ctx.r.foff.toNat + 32) = .ok (seg 32 8) ∧ u.releaseRoom (seg 32 8) = .ok ())) := by decide +kernel

theorem wit_SlotEvents_commit : (∀ p ∈ [true, false], let s := parked { base with me := { base.me with pre := p } } (.commit 0);
    let q := (s.slot 0).deliver (s.coreAt 0).cycle;
    q.block = some (.commit 0) ∧ q.quiet = true ∧ q.pend = [] ∧ q.trapPend = none ∧ q.pre = p ∧
    s.ringFull (q.id / 16384) q.ctx.r.prio.toNat = false) := by decide +kernel

theorem wit_DispatchSetsTheSlot : let s := { withDeque base 2 with me := Slot.idle 0 };
    s.module.boot = .open_ ∧ coreOk 0 = true ∧ s.mayDispatch 0 = true ∧ (∀ d, d < 3 → (s.guard d).armed = false) ∧
    (s.guard (0 / 128)).count < 63 ∧ s.idleSlot 0 = some s.me.id ∧ s.me.id / 128 = 0 ∧ s.source 0 = some .own ∧
    (s.coreAt 0).id = 0 ∧ (s.coreAt 0).deque.getLast? = some placedRec ∧ s.launch? placedRec.lid = some baseLaunch := by decide +kernel

/-- Cores with an idle slot that find the head of another core's deque, and an entry of a die queue: of one record, of a launch
with one index left and with two, of a checkpoint. -/
def idleState : State := { base with me := Slot.idle 0 }
def stealState : State := { idleState with cores := [(1, { Core.idle 1 with deque := [placedRec, placedRec] })] }
def savedRec : Saved := ⟨{ Ctx.zero with r := placedRec }, 0, [], [(1, Acc.zero)]⟩
def queueState (x : Item) (count : Nat) : State :=
  { withLaunch idleState { baseLaunch with r := { baseLaunch.r with count := .ofNat 32 count } } with queues := [(0, [⟨x, [], false, 0⟩])] }

theorem wit_DispatchSetsTheSlot_sources :
    (∀ s ∈ [stealState, queueState (.one placedRec) 1, queueState (.launch 0) 1, queueState (.launch 0) 2, queueState (.saved savedRec) 1],
      s.module.boot = .open_ ∧ s.mayDispatch 0 = true ∧ (∀ d, d < 3 → (s.guard d).armed = false) ∧ (s.guard (0 / 128)).count < 63 ∧
      s.idleSlot 0 = some s.me.id ∧ (s.launch? placedRec.lid).isSome = true) ∧
    (stealState.source 0 = some (.steal 1) ∧ stealState.outranked [] 0 (.steal 1) = false ∧ (stealState.coreAt 1).deque = [placedRec, placedRec]) ∧
    (∀ e ∈ [(Item.one placedRec, 1), (.launch 0, 1), (.launch 0, 2), (.saved savedRec, 1)], let s := queueState e.1 e.2;
      s.source 0 = some (.die 0 0 0) ∧ s.outranked [] 0 (.die 0 0 0) = false ∧ (s.queue 0 0)[0]? = some ⟨e.1, [], false, 0⟩) ∧
    (0 + 1 = (1 : BitVec 32) ∧ 0 + 1 ≠ (2 : BitVec 32)) ∧ (savedRec.accs.map (·.1)).Nodup ∧ ∀ q ∈ savedRec.accs, q.1 < 4 := by
  decide +kernel

theorem coreAt_id {s : State} (h : ∀ p ∈ s.cores, p.2.id = p.1) (k : Nat) : (s.coreAt k).id = k := by
  have go (l : Map Core) (h : ∀ p ∈ l, p.2.id = p.1) : ((mget l k).getD (Core.idle k)).id = k := by
    induction l with
    | nil => rfl
    | cons a t ih =>
      obtain ⟨n, c⟩ := a
      unfold mget
      split
      · next e => exact (h (n, c) (by simp)).trans e
      · exact ih fun p hp => h p (by simp [hp])
  unfold State.coreAt
  split
  · next e => exact e.symm
  · exact go _ h

theorem wit_DispatchSetsTheSlot_ids (s : State) (h : s ∈ [{ withDeque base 2 with me := Slot.idle 0 }, stealState, queueState (.one placedRec) 1,
    queueState (.launch 0) 1, queueState (.launch 0) 2, queueState (.saved savedRec) 1]) (k : Nat) : (s.coreAt k).id = k := by
  refine coreAt_id ?_ k
  revert s; decide +kernel

/-- A complete launch with one action left, its barrier and counter in the frame at offsets. -/
def finished (act b c : Nat) : Launch :=
  { baseLaunch with r := { baseLaunch.r with barOff := .ofNat 32 b, joinOff := .ofNat 32 c }, live := 0, complete := true, actions := [act] }

/-- An action done, one that waits for a page of the other die, one skipped. -/
theorem wit_LaunchAndEngineEvents_actions :
    (let s := { base with guards := vset base.guards 0 ⟨63, false, 0⟩ }; 63 ≤ (s.guard 0).count) ∧
    (∀ a ∈ [1, 2, 3], (withLaunch base (finished a 16 32)).launch? 0 = some (finished a 16 32)) ∧
    base.ringFull baseLaunch.home baseLaunch.r.prio.toNat = false ∧
    base.actionSegs (finished 1 16 32) true (baseLaunch.r.frame.off + 16) = .ok (seg 16 16) ∧
    base.actionSegs (finished 3 16 32) false (baseLaunch.r.frame.off + 32) = .ok (seg 32 8) ∧ base.releaseFull (seg 32 8) = none ∧
    (let s := inData { base with joins := [⟨0, 32 * 65536 + 32, placedRec, 0⟩] } 32 8 1;
      s.readNat (seg 32 8) = 1 ∧ s.joins.find? (·.pa == segsPa s (seg 32 8)) = some ⟨0, 32 * 65536 + 32, placedRec, 0⟩ ∧ s.releaseFull (seg 32 8) = none) ∧
    (∀ a ∈ [(1, true, 16), (3, false, 32)], base.actionSegs { finished a.1 16 32 with home := 1 } a.2.1 a.2.2 = .error none) ∧
    (∀ a ∈ [(1, true, 8), (3, false, 4)], base.actionSegs (finished a.1 8 4) a.2.1 a.2.2 = .error (some 12)) := by decide +kernel

theorem wit_LaunchAndEngineEvents_ids :
    (let r := { baseLaunch.r with next := 0, count := 2 }; let w : Waiting := ⟨0, r, none⟩; let v : Waiting := ⟨0, r, some (0, 7)⟩;
      let s := { withOp base .C (.launch 0) with waiting := [w, v] };
      s.waiting[0]? = some w ∧ s.waiting[1]? = some v ∧ s.freeLid = some 1 ∧ s.launchRoom 1 0 r = true ∧ r.next ≠ r.count ∧
      s.findOp 0 7 = some (opOf base .C (.launch 0), true) ∧ (s.slot 0).id = 0) ∧
    (let bytes := bytesOf 64 (launchWord 0); let v := natOfBytes bytes; let r0 := launchRec v true true;
      let r := launchRec v (base.registerTag 0 r0.code) (base.registerTag 0 r0.frame);
      base.module.boot = .open_ ∧ (base.iface 0).stopped = false ∧ (base.iface 0).posted = [] ∧ bytes.length = 64 ∧
      (base.waiting.filter fun w => w.iface == 0 && w.from_.isNone).length < 64 ∧ launchRefuses v r = none ∧ base.freeLid = some 1 ∧
      base.launchRoom 1 0 r = true ∧ r.next ≠ r.count) ∧
    (∀ e ∈ [(launchWord 3, some 0), (launchWord 0 - placedCode.raw.toNat, some 2)], let r0 := launchRec e.1 true true;
      launchRefuses e.1 (launchRec e.1 (base.registerTag 0 r0.code) (base.registerTag 0 r0.frame)) = e.2) ∧
    (let s := base.setIface 0 { base.iface 0 with posted := [⟨.window, 0, [1], 0⟩] };
      s.module.boot = .open_ ∧ (s.iface 0).stopped = false ∧ (s.iface 0).posted ≠ []) ∧
    (let s := { base with waiting := List.replicate 64 ⟨0, baseLaunch.r, none⟩ };
      64 ≤ (s.waiting.filter fun w => w.iface == 0 && w.from_.isNone).length) := by decide +kernel

theorem lowestFree_range' (n a : Nat) : lowestFree (List.range' a n) a = a + n := by
  induction n generalizing a with
  | zero => rfl
  | succ n ih => simp only [List.range'_succ, lowestFree, if_true, ih]; omega

/-- Every launch ID in use. -/
theorem wit_LaunchAndEngineEvents_full :
    ({ base with launches := (List.range' 0 1048576).map fun k => (k, baseLaunch) } : State).freeLid = none := by
  simp [State.freeLid, List.map_map, Function.comp_def, lowestFree_range']

/-- A chunk that COPY has still to do, spilled or not, and the task. -/
def testPiece (spilled : Bool) : Piece := ⟨0, 0, 64, spilled, false, false⟩
def chunkTask (spilled : Bool) : Task := .copy (capOf 1 0 0) [upper] [testPiece spilled] [] false none

/-- A page move's unit, a state with object 1's tables and a free frame, and a migration of object 1's page. -/
def moveTask : Task := .move (capOf 1 0 0) 9 true [⟨0, 0, 64, false, false, false⟩] none none
def poolState : State :=
  { withTables base with ifaces := [(0, { Iface.zero with cfg := some testCfg, hbmPool := [(40 * 65536, 65536)] })] }
def page1 (switched : Bool) : Migration := ⟨0, 1, 0, 0x20000, 32 * 65536, 33 * 65536, 65536, 0, 0, switched, none⟩

/-- A group of CRED that one destination is to perform, and one that it has performed. -/
def credTask (left : List Nat) : Task :=
  .cred (capOf 1 0 0) (capOf 1 0 4096) [upper] 0 4 [⟨0, left, if left = [] then 1 else 0, [0, 0, 0, 0], []⟩] none none

theorem wit_LaunchAndEngineEvents :
    (∀ b ∈ [false, true], let s := { withOp base .C (chunkTask b) with spills := [⟨3, 0, 7, (testPiece b).key, 1, 0, none⟩] };
      s.findOp 0 7 = some (opOf base .C (chunkTask b), true) ∧ (s.slot 0).id = 0 ∧ s.mayGo 0 (opOf base .C (chunkTask b)) true = true ∧
      (s.spillQueue 3)[0]? = some ⟨3, 0, 7, (testPiece b).key, 1, 0, none⟩ ∧ (∀ q ∈ [testPiece b], (testPiece b).off ≤ q.off) ∧
      indexWhere (fun p => p.key == (testPiece b).key) [testPiece b] = some 0 ∧
      s.accepts 0 (opOf base .C (chunkTask b)) (testPiece b).key (capOf 1 0 0) 0 = true ∧
      s.accepts 0 (opOf base .C (chunkTask b)) (testPiece b).key upper 32768 = true ∧
      answersOk (s.pieceSegs 0 0 (capOf 1 0 0) [upper] none (testPiece b)) (seg 0 64, seg 32768 64) = true ∧
      answersOk (s.chunkSegs 0 0 (capOf 1 0 0) upper 0 32768 64) (seg 0 64, seg 32768 64) = true) := by
  decide +kernel

theorem wit_LaunchAndEngineEvents_moves :
    (let t := Task.gather (capOf 1 0 0) [some 0] 2 5; let s := { withOp base .L t with spills := [⟨3, 0, 7, 0, 1, 0, none⟩] };
      s.findOp 0 7 = some (opOf base .L t, true) ∧ s.mayGo 0 (opOf base .L t) true = true ∧
      answersOk (s.segsOf 0 0 (capOf 1 0 0) 0 ((etFmt 2).width / 8) false) (seg 0 ((etFmt 2).width / 8)) = true ∧
      (s.spillQueue 3)[0]? = some ⟨3, 0, 7, 0, 1, 0, none⟩) ∧
    (let s := { base with moves := [page1 false, page1 true] };
      s.moves[0]? = some (page1 false) ∧ s.moves[1]? = some (page1 true) ∧ s.stale (page1 true) = false ∧ (page1 true).old < cxlBase ∧
      s.storageLost (page1 false).old 65536 = false ∧ s.storageLost (page1 false).new 65536 = false ∧ (page1 false).owner = none ∧
      (page1 false).old % 65536 = 0 ∧ (page1 false).new % 65536 = 0 ∧ (page1 false).old + 65536 ≤ (page1 false).new ∧
      s.mem.wf ∧ (page1 false).new + (page1 false).size ≤ 2 ^ 52 ∧ (page1 false).leafPa + 8 ≤ (page1 false).new) := by
  decide +kernel

/-- Migrations to the second tier and out of it: with every port up, and with ports down, where the frame is lost. -/
theorem wit_LaunchAndEngineEvents_tiers : let up (sw : Bool) : Migration := { page1 sw with new := cxlBase + 5 * 65536 }
    let out (sw : Bool) : Migration := { page1 sw with old := cxlBase + 5 * 65536 }
    (let s := { base with moves := [up false, out true, out false] };
      s.moves[0]? = some (up false) ∧ s.storageLost (up false).old 65536 = false ∧ s.storageLost (up false).new 65536 = false ∧
      cxlBase ≤ (up false).new ∧ (up false).new + 65536 ≤ cxlBase + 2 ^ 52 ∧ (up false).leafPa + 8 ≤ (up false).new ∧
      s.moves[1]? = some (out true) ∧ s.stale (out true) = false ∧ cxlBase ≤ (out true).old ∧
      (out false).new + 65536 ≤ (out false).old ∧ s.storageLost (out true).old 65536 = false) ∧
    (let s := { base with moves := [out false, out true], module := { base.module with cxlDown := [0, 1, 2, 3] } };
      s.moves[0]? = some (out false) ∧ s.storageLost (out false).old 65536 = true ∧ s.moves[1]? = some (out true) ∧
      s.stale (out true) = false ∧ s.storageLost (out true).old 65536 = true) := by
  decide +kernel

theorem wit_LaunchAndEngineEvents_units :
    (let s := { poolState with me := (withOp base .C moveTask).me, nextOp := 8 }; let o := opOf base .C moveTask;
      s.findOp 0 7 = some (o, true) ∧ s.mayGo 0 o true = true ∧ s.objEntry 0 1 = some entry1 ∧ s.keysOk 0 entry1 = true ∧
      s.accepts 0 o 0 (capOf 1 0 0) 0 = true ∧ s.walk entry1 0 = .leaf leaf1 0x20000 0 ∧ oeAdmits entry1 0 0 1 = true ∧
      oeAdmits entry1 0 0 64 = true ∧ s.useLeaf entry1 leaf1 0 64 false = .ok ⟨32 * 65536, 64, 1, false, 0, 0⟩ ∧ lfM leaf1 = false ∧
      s.moves = [] ∧ s.freeFrame 0 9 65536 = some (40 * 65536) ∧ s.barLost none = none) ∧
    (∀ l ∈ [[0], []], let s := withOp base .C (credTask l); let o := opOf base .C (credTask l);
      s.findOp 0 7 = some (o, true) ∧ (s.slot 0).id = 0 ∧ s.mayGo 0 o true = true ∧ (1 : Nat) = 2 ^ [upper].length - 1 ∧ s.barLost none = none ∧
      s.accepts 0 o (credKey 0 0) upper (upper.off + 4 * (credSpan 0 4 0).1) = true ∧ s.accepts 0 o (credKey 0 30) (capOf 1 0 4096) (4096 + 4 * (credSpan 0 4 0).1) = true ∧
      answersOk (s.segsOf 0 0 upper (upper.off + 4 * (credSpan 0 4 0).1) (4 * (credSpan 0 4 0).2) true) (seg 32768 16) = true ∧
      answersOk (s.segsOf 0 0 (capOf 1 0 4096) ((capOf 1 0 4096).off + 4 * (credSpan 0 4 0).1) (4 * (credSpan 0 4 0).2) true)
        (seg 4096 16) = true ∧ (credSpan 0 4 0).2 = 4) := by
  decide +kernel

/-- A nest of one row of 64 bytes. -/
def blockNest : Nest :=
  armed (0 + 1 * 4 + 2 * 16 + 1 * 2 ^ 16 + 1 * 2 ^ 64 + (64 * 2 ^ 224) * 2 ^ 192) #v[0, 0, 0, 0]

theorem wit_LaunchAndEngineEvents_macro :
    (let t := Task.copyn copyNest none [] [] none; let s := withOp base .C t;
      s.findOp 0 7 = some (opOf base .C t, true) ∧ (s.slot 0).id = 0 ∧ s.mayGo 0 (opOf base .C t) true = true ∧ copyNest.armed = true ∧
      (opOf base .C t).lvl = (s.slot 0).lvl ∧ (s.slot 0).trapPend = none) ∧
    (let t := Task.tldn 2 rowTc blockNest 0; let s := withOp described .T t; let o := opOf described .T t;
      s.findOp 0 7 = some (o, true) ∧ s.mayGo 0 o true = true ∧ blockNest.armed = true ∧ 0 < tcRows rowTc ∧ (s.coreAt (0 / 128)).id = 0 / 128 ∧
      s.padBusy 0 blockNest 0 rowTc = false ∧ blockNest.at 0 = 0 ∧ 64 * tcBlk rowTc = 64 ∧ 64 ≤ nestExt blockNest.par.toNat 0 ∧
      s.accepts 0 o 0 (capOf 1 0 0) 0 = true ∧ s.heldVal 0 7 0 = none ∧ answersOk (s.segsOf 0 0 (capOf 1 0 0) 0 1 false) [⟨32 * 65536, 1, 1, true, 0, 0⟩] = true ∧
      answersOk (s.segsOf 0 0 (capOf 1 0 0) 0 64 false) [⟨32 * 65536, 64, 1, true, 0, 0⟩] = true ∧ o.lvl = (s.slot 0).lvl ∧
      (s.slot 0).trapPend = none) := by decide +kernel

/-- A run of `smallBraid` with one accepted vector whose output is to be written through a route; one armed for a push, and
one with a memory source. -/
def smallRun (route : Nat) : BRun := ⟨0, 7, 0, 0, 1, 1, [(0, some (0, [1]))], none, .ofNat 512 (route * 2 ^ 256), upper, none, false⟩
def openRun (src : Option (Cap × Nat × Nat)) : BRun :=
  { smallRun memRoute with taken := 0, flight := [], open_ := true, src := src }
def withBraid (r : Option BRun) : State := { base with braids := [{ smallBraid with run := r }] }

theorem wit_BraidPipeAndDieEvents_vectors :
    (∀ r ∈ [none, some (openRun none), some (openRun (some (capOf 1 0 0, 0x40, 1)))],
      let s := { withBraid r with pushes := [⟨0, 0, 0, [0]⟩] }; let b := { smallBraid with run := r }
      s.pushes.find? (fun p => p.die == 0 && p.handle == 0) = some ⟨0, 0, 0, [0]⟩ ∧ s.time ≥ vget s.module.engHold 0 0 ∧
      s.braids.find? (fun b => b.die == 0 && b.handle == 0) = some b ∧ b.freeing = none ∧ b.iface = 0) ∧
    (let b := { smallBraid with run := some (openRun none) }; b.armed = true ∧ (openRun none).taken < (openRun none).total ∧ ∀ e ∈ b.list, e < [0].length) ∧
    (let r := openRun (some (capOf 1 0 0, 0x40, 1)); let s := withBraid (some r);
      s.pushes.find? (fun p => p.die == 0 && p.handle == 0) = none ∧ r.open_ = true ∧ r.taken < r.total ∧ s.runMay r = true ∧
      s.runAccepts r 0 (capOf 1 0 0) 0 = true ∧ answersOk (s.segsOf 0 0 (capOf 1 0 0) 0 4 false) (seg 0 4) = true) ∧
    (∀ k ∈ [memRoute, 0x40 * 2 ^ 24 + 2], let r := smallRun k; let s := withBraid (some r); let b := { smallBraid with run := some r };
      s.braids.find? (fun b => b.die == 0 && b.handle == 0) = some b ∧ rtKind r.route.toNat = (if k = memRoute then 1 else 2) ∧
      s.runMay r = true ∧ s.runAccepts r 1 r.dest 32768 = true ∧ s.barLost r.bar = none ∧
      answersOk (s.segsOf r.slot b.iface r.dest ((r.dest.off : Int) + 0 * rtPitch r.route.toNat).toNat (b.nout * rtSize r.route.toNat)
        true) (seg 32768 4) = true) ∧
    (let r := smallRun vecRoute; let s := { withOp base .C (.bgrun 0 true) with braids := [{ smallBraid with run := some r }] };
      rtKind r.route.toNat = 3 ∧ ((s.slot r.slot).op? r.op).isSome = true ∧ (s.slot r.slot).id = r.slot ∧
      rtPort r.route.toNat + (smallBraid.nout + 63) / 64 ≤ 32) := by decide +kernel

/-- A job of the arena's layer, and an A-pipe that has planned it with one block of an undefined precision. -/
def testJob : Job := ⟨0, 7, 0, 0, .ofNat 1024 jobBits, capOf 1 0 0, upper, none, testArena, .ofNat 128 layerBits⟩
def testBlock : JobBlock := ⟨0, 0, 0, 3, [0], false, false⟩
def testPipe : Pipe := ⟨0, 0, testJob, true, List.replicate 64 0, [testBlock], [none, none, none, none], false⟩

theorem wit_BraidPipeAndDieEvents :
    (let s := { base with jobs := [testJob] }; s.pipes.find? (fun p => p.die == 0 && p.pipe == 0) = none ∧ s.firstJob 0 = some testJob ∧
      vget s.module.engHold 0 0 ≤ s.time) ∧
    (let s := { attnState with pipes := [testPipe] }; s.pipes.find? (fun p => p.die == 0 && p.pipe == 0) = some testPipe ∧
      testPipe.blocks[0]? = some testBlock ∧ testPipe.planned = true ∧ testPipe.mayMerge 0 testBlock = true ∧
      s.blockAccepted testPipe testBlock = true ∧ testBlock.tier = false ∧ ((s.roomFor 0 7 testBlock.key).mergeBlock testPipe testBlock).isOk = true) ∧
    (let s := { base with freed := [⟨0, 5, [3]⟩] }; s.freed[0]? = some ⟨0, 5, [3]⟩ ∧ s.outstanding 3 = false) ∧
    (∀ n ∈ [0, 128, 223], (base.coreAt n).absent = false) ∧ 0 < vget base.module.spares 0 0 ∧
    (let s := { base with module := { base.module with spares := vset base.module.spares 1 0 } }; vget s.module.spares 1 0 = 0) ∧
    (let s := { base with cores := [(1, { Core.idle 1 with deque := [placedRec] })], module := { base.module with spares := vset base.module.spares 0 0 } };
      vget s.module.spares 0 0 = 0 ∧ s.busySlots 1 = [] ∧ (s.coreAt 1).id = 1 ∧ (s.coreAt 1).deque = [placedRec] ∧
      (s.coreAt 1).absent = false ∧ s.ringFull 0 placedRec.prio.toNat = false) ∧
    coreOk 0 = true ∧ coreOk (2 * 128 + 31) = true := by decide +kernel

/-- A container: HEAD, a table of three sections, 4 bytes of CODE, no binding, one SEQ step that ends. -/
def testFile : List Byte :=
  bytesOf 64 (0x31584241 + 1 * 2 ^ 32 + 3 * 2 ^ 48 + 272 * 2 ^ 128) ++ bytesOf 32 (idCode + 192 * 2 ^ 64 + 4 * 2 ^ 128) ++
  bytesOf 32 (idBind + 256 * 2 ^ 64) ++ bytesOf 32 (idSeq + 256 * 2 ^ 64 + 16 * 2 ^ 128) ++ bytesOf 32 0 ++ bytesOf 64 0x430420 ++ bytesOf 16 5
def testSections : List Section := [⟨idCode, 192, 4⟩, ⟨idBind, 256, 0⟩, ⟨idSeq, 256, 16⟩]
def testArgs : LoadArgs := ⟨0, capOf 3 5 0, upper, upper, []⟩
def loadState : State := withObject base 3 5 49

/-- Object 2 of kind 3, its entry cached. -/
def entry3 : BitVec 256 := .ofNat 256 (1 * 2 ^ 213 + 3 * 2 ^ 207 + 2 ^ 206 + 65536 * 2 ^ 144)

theorem wit_HostLinkAndFirmwareEvents :
    base.answers 0 = true ∧ ({ base with launches := [] } : State).launchFree 0 = true ∧ cfgOk testCfg = true ∧
    (∃ c, base.windowCap 0 = some c ∧ base.stream 0 0 c 16 4 true = .ok (seg 16 4) ∧ base.stream 0 0 c 16 4 false = .ok (seg 16 4)) ∧
    (base.iface 0).posted = [] ∧ base.module.boot = .open_ ∧
    (let s := { base with tlb := [], ifaces := [(0, { Iface.zero with cfg := some testCfg, posted := [⟨.window, 0, [1], 0⟩] })] };
      s.answers 0 = true ∧ (s.windowCap 0).isSome = true ∧ (s.iface 0).posted = [⟨.window, 0, [1], 0⟩] ∧ s.hostAccess 0 ⟨.window, 0, [1], 0⟩ = .error (1, 0)) := by
  refine ⟨by decide +kernel, by decide +kernel, by decide +kernel, ⟨base.objCap 0 1, by decide +kernel⟩, by decide +kernel⟩

theorem wit_HostLinkAndFirmwareEvents_remote :
    (∀ p ∈ [(RemoteOp.load 4, 4), (.store [1, 2, 3, 4], 4), (.amo 0 5, 8), (.cas 0 5, 8), (.red 9 5, 4), (.red 0 5, 8), (.cred 0 2 0, 8),
        (.loadCap, 16), (.storeCap (capOf 1 0 0), 16), (.binit 3, 16), (.barr 1, 16), (.join, 64), (.arrive, 64), (.leave true, 64),
        (.leave false, 64), (.withdraw, 64), (.joinDec, 8)],
      let s : State := { base with module := { base.module with dom := true } }
      s.module.dom = true ∧ s.answers 0 = true ∧ s.objEntry 0 1 = some entry1 ∧ remoteSize p.1 = p.2 ∧
      oeAdmits entry1 (oeKind entry1) 64 p.2 = true ∧ oeKind entry1 ∈ [0, 4, 5] ∧
      s.linked = true ∧ remotePlaced p.1 64 (seg 64 p.2) = true ∧
      s.stream 0 0 ⟨.ofNat 128 (1 * 2 ^ 96 + oeKind entry1 * 2 ^ 12), true⟩ 64 p.2 (remoteWrites p.1) = .ok (seg 64 p.2)) ∧
    (oeAdmits entry1 (oeKind entry1) 24 16 = true ∧ remotePlaced (.barr 1) 24 (seg 24 16) = false ∧
      base.stream 0 0 ⟨.ofNat 128 (1 * 2 ^ 96 + oeKind entry1 * 2 ^ 12), true⟩ 24 16 true = .ok (seg 24 16)) ∧ base.cutOff.linked = false := by
  decide +kernel

/-- A group with a pending joiner, and a counter of 1 that a record waits on. -/
theorem wit_HostLinkAndFirmwareEvents_counters :
    (let s := inData base 64 64 (1 * 2 ^ 96); (s.group ⟨s.canon (32 * 65536 + 64), 64, 1, false, 0, 64⟩).joins = 1) ∧
    (let s := inData { base with joins := [⟨0, 32 * 65536 + 64, placedRec, 0⟩] } 64 8 1;
      s.releaseFull (seg 64 8) = none ∧ s.readNat (seg 64 8) = 1 ∧
      s.joins.find? (·.pa == segsPa s (seg 64 8)) = some ⟨0, 32 * 65536 + 64, placedRec, 0⟩) := by decide +kernel

/-- Accesses translated before their port failed, and a slot that waits for a far barrier object whose PHASE is poked. -/
theorem wit_HostLinkAndFirmwareEvents_lost : let g : Seg := ⟨cxlBase + 65536, 8, 1, false, 0, 0⟩;
    (∀ t ∈ [Task.load [g] true 5 false, .loadCap [g] true 5, .store [g] (bytesOf 8 0) false, .storeCap [g] Cap.null, .amo [g] 0 1 5 false false],
      let s := { withOp base .L t with module := { base.module with cxlDown := [0, 1, 2, 3] } };
      s.findOp 0 7 = some (opOf base .L t, true) ∧ s.mayGo 0 (opOf base .L t) true = true ∧
      cxlBase ≤ s.canon g.pa ∧ s.canon g.pa < encryptedEnd ∧ s.frameLost ((s.canon g.pa - cxlBase) / 65536 * 65536) 65536 = true) ∧
    (let s := { parked base (.barrier remoteBase) with agenda := [.poke 0 remoteBase (bytesOf 16 (2 ^ 80))] };
      (s.slot 0).block = some (.barrier remoteBase) ∧
      s.barPhase remoteBase ≠ ({ s with mem := s.mem.writes 0 remoteBase (bytesOf 16 (2 ^ 80)) } : State).barPhase remoteBase ∧ s.joins = []) ∧
    (∀ e ∈ [(Act.poke 0 remoteBase (bytesOf 8 0), base.mem), (.farCap remoteBase 0, base.mem.setTag remoteBase true)],
      let j : JoinEntry := ⟨0, remoteBase, placedRec, 0⟩;
      let s := { base with joins := [j], agenda := [e.1], mem := base.mem.writes 0 remoteBase (bytesOf 8 1) };
      s.module.boot ≠ .off ∧ remoteBase % 16 = 0 ∧ s.ringFull j.die j.r.prio.toNat = false ∧ s.farGroups = [] ∧
      (s.joins.filter fun q => decide (remoteBase ≤ q.pa) && s.joinCount q.pa != 0 && ({ s with mem := e.2 } : State).joinCount q.pa == 0) = [j] ∧
      (e.2 = s.mem.writes 0 remoteBase (bytesOf 8 0) ∨ e.2 = (s.mem.writes 0 remoteBase (bytesOf 16 (0 : BitVec 128).toNat)).setTag remoteBase true)) := by
  decide +kernel

/-- A walk of an object of another device and of one of this, and commands that stream through the former. -/
theorem wit_HostLinkAndFirmwareEvents_timeout :
    (let s := parked { base with objects := mset base.objects 2 entry3 } (.walk 0 2 0 0);
      (s.slot 0).block = some (.walk 0 2 0 0) ∧ (s.slot 0).id = 0 ∧ s.objEntry 0 2 = some entry3 ∧ oeKind entry3 = 3 ∧ s.module.dom = false) ∧
    (let s := parked base (.walk 0 1 0 0);
      (s.slot 0).block = some (.walk 0 1 0 0) ∧ (s.slot 0).id = 0 ∧ s.objEntry 0 1 = some entry1 ∧ oeKind entry1 ≠ 3 ∧ s.findOp 0 7 = none) ∧
    (let l : List (Option Nat) := List.replicate 64 (some 0); let t := Task.gather (capOf 2 3 0) l 2 5; let s := { withOp base .L t with objects := mset base.objects 2 entry3 };
      s.findOp 0 7 = some (opOf base .L t, true) ∧ s.far 0 (capOf 2 3 0) = true ∧ (s.slot 0).block = none ∧
      s.mayGo 0 (opOf base .L t) true = true ∧ s.spills = [] ∧ s.objEntry 0 2 = some entry3 ∧
      l.length = 64 ∧ l.find? (·.isSome) = some (some 0) ∧ ∀ p ∈ pages 0 2, oeAdmits entry3 (capOf 2 3 0).kind p.1 p.2 = true) ∧
    (let t := Task.copy (capOf 2 3 0) [upper] [testPiece false] [] false none
      let s := { withOp base .C t with objects := mset base.objects 2 entry3 };
      s.findOp 0 7 = some (opOf base .C t, true) ∧ (s.slot 0).block = none ∧ s.mayGo 0 (opOf base .C t) true = true ∧
      (match s.cutOff.pieceSegs 0 0 (capOf 2 3 0) [upper] none (testPiece false) with | .bad 10 f => f == 0 | _ => false) = true) ∧
    15 ∉ base.module.cxlDown ∧ ({ base with launches := [] } : State).waiting = [] ∧ (List.replicate 32 (0 : Byte)).length = 32 := by
  decide +kernel

theorem wit_HostLinkAndFirmwareEvents_loader :
    sectionsOf testFile = some testSections ∧ sectionsOk testFile testSections = true ∧ sectionOf testSections idBraid = none ∧
    testArgs.codeCap.kind = 5 ∧ testArgs.dataCap.kind = 0 ∧ sectionOf testSections idSeq = some ⟨idSeq, 256, 16⟩ ∧
    sectionOf testSections idBind = some ⟨idBind, 256, 0⟩ ∧ sectionsOf [] = none ∧ sectionsOk testFile [] = false ∧
    loadState.answers 0 = true ∧ (loadState.placeFile testArgs testFile testSections []).isOk = true ∧
    (∀ q ∈ [5, 0, 6, 255, 5 + 2 ^ 9, 5 + 2 ^ 47], let l : Loader := ⟨[.ofNat 128 q], 0, none, capOf 1 0 0, upper, [], none⟩;
      let s := base.setLoader 0 l;
      s.answers 0 = true ∧ (s.iface 0).loader = some l ∧ l.steps[0]? = some (.ofNat 128 q) ∧
      (q = 5 ∨ q / 2 ^ 9 % 2 ^ 39 ≠ 0 ∨ q % 2 ^ 8 = 0 ∨ 5 < q % 2 ^ 8)) ∧
    (let l : Loader := ⟨[5], 0, none, capOf 1 0 0, upper, [], none⟩;
      (match (base.setLoader 0 l).seqOne 0 l 5 with | .ok (.go _ p) => p == 1 | _ => false) = true) := by
  decide +kernel

/-! Whole-machine rules -/

/-- The powered-down machine, and one that takes a step. -/
def powered (b : Boot) : State := { base with module := { base.module with boot := b } }

theorem wit_OnlyPowerDownStopsTheMachine :
    ((powered .off).agenda = [] ∧ (powered .off).module.boot = .off) ∧ ¬(base.agenda = [] ∧ base.module.boot = .off) ∧
    (let s := { powered .off with agenda := [.event (.longOpComplete 0 7)] }; s.agenda = [.event (.longOpComplete 0 7)] ∧ s.module.boot = .off) := by
  decide +kernel

theorem wit_MemoryKeepsItsForm : base.mem.wf ∧ (match step (placed 0x00430420) with | .next _ => true | _ => false) = true := by
  decide +kernel

end Sys2Proof.Tests
end

/-! The words of 07 R93 whose major opcode has no group. -/

namespace Sys2Proof

/-- A field of a word, read from its number or from its bits. -/
theorem bits_toNat_eq_extractLsb' (w : Word) (hi lo : Nat) :
    bits w.toNat hi lo = (w.extractLsb' lo (hi + 1 - lo)).toNat := by
  simp only [bits, BitVec.extractLsb'_toNat, Nat.shiftRight_eq_div_pow]

/-- Every arm of `decodeMajor` that reads a group stands in `majors`: any other major gives nothing. -/
theorem decodeMajor_eq_none_of_notMem_majors {m : Nat} (hm : m ∉ majors) (w : Nat) : decodeMajor m w = none := by
  unfold decodeMajor
  split
  on_goal -1 => rfl
  all_goals exact absurd (by decide) hm

/-- A word whose major has no group is refused for that reason, whatever its other bits are. -/
theorem decode_eq_noGroup_of_notMem_majors {w : Word} (hw : (w.extractLsb' 22 7).toNat ∉ majors) :
    decode w = .error .noGroup := by
  have hbits : bits w.toNat 28 22 = (w.extractLsb' 22 7).toNat := bits_toNat_eq_extractLsb' w 28 22
  simp only [decode, hbits, decodeMajor_eq_none_of_notMem_majors hw, List.contains_iff_mem, if_neg hw]

end Sys2Proof

namespace Sys2Proof.Machine

theorem instrOf_eq_illegalWord_of_decode_error {w : Word} {e : DecodeError} (hw : decode w = .error e) :
    instrOf w = .illegalWord w := by
  simp only [instrOf, hw]

/-- The illegal word takes trap 1 with the word as its value, at its own address (07 R107, 26 R306). -/
theorem exec_illegalWord_of_mayTrap {s : State} (hs : s.mayTrap) (w : Word) :
    exec (.illegalWord w) s = .next (s.trapped 1 0 (w.zeroExtend 64) s.me.ctx.pc) :=
  finish_trapped hs 1 0 (w.zeroExtend 64)

/-- Settles O3: none of the majors listed is among those of the group maps, so `decode` finds no group for the word. -/
theorem unassignedMajorsRaiseIllegalInstruction : Obligations.UnassignedMajorsRaiseIllegalInstruction := by
  unfold Obligations.UnassignedMajorsRaiseIllegalInstruction
  refine ⟨fun w hw => ?_, by decide⟩
  have unlisted : (w.extractLsb' 22 7).toNat ∉ majors :=
    (by decide : ∀ m ∈ _, m ∉ majors) _ hw
  have herr : decode w = .error .noGroup := decode_eq_noGroup_of_notMem_majors unlisted
  have hinstr : instrOf w = .illegalWord w := instrOf_eq_illegalWord_of_decode_error herr
  refine ⟨fun i => by simp [herr], hinstr, fun s hs => ?_⟩
  rw [hinstr, exec_illegalWord_of_mayTrap hs w]

end Sys2Proof.Machine

/-! The integer instructions of major 0x01 (08 R110). -/

namespace Sys2Proof.Machine

/-- An RRR word as the encoder writes it: the opcode is the major and the function code as one number. -/
theorem encodeNat_eq_rrr {i : Instr} {opcode major fn : Nat} {d a b : BitVec 6} (hop : opcode = major * 2 ^ 22 + fn)
    (hword : encodeNat i = some (opcode + d.toNat * 65536 + a.toNat * 1024 + b.toNat * 16)) :
    encodeNat i = some (rrr major d a b fn) := by
  rw [hword, rrr, Option.some_inj]
  omega

/-- The six bits of xb that a shift reads. -/
theorem bits_shiftAmount (n : Nat) : bits n 5 0 = n % 64 := by
  simp [bits]

section Comparisons
variable (x y u v : XWord)

theorem ite_toInt_lt : (if x.toInt < y.toInt then u else v) = if x.slt y then u else v := by
  simp [BitVec.slt_eq_decide]

theorem ite_toNat_lt : (if x.toNat < y.toNat then u else v) = if x.ult y then u else v := by
  simp [BitVec.ult_eq_decide]

theorem boolX_beq : boolX (x == y) = if x = y then 1 else 0 := by
  simp [boolX]

end Comparisons

/-- Settles O8: each row's word is its opcode with the three fields; the value that the model pushes is the row's, up to
how it spells a shift amount and a comparison. -/
theorem integerRegisterResults : Obligations.IntegerRegisterResults := by
  unfold Obligations.IntegerRegisterResults
  intro s d a b x y k gives
  have amount : bits y.toNat 5 0 = k := bits_shiftAmount _
  have row {i : Instr} {opcode fn : Nat} {v w : XWord} (hop : opcode = 0x01 * 2 ^ 22 + fn)
      (hword : encodeNat i = some (opcode + d.toNat * 65536 + a.toNat * 1024 + b.toNat * 16))
      (hexec : exec i s = .next (s.produceX 2 d v)) (hv : v = w) : gives i fn w :=
    ⟨encodeNat_eq_rrr hop hword, hv ▸ hexec⟩
  refine ⟨?add, ?sub, ?and, ?or, ?xor, ?andn, ?shl, ?shr, ?sar, ?min, ?max, ?minz, ?maxz, ?slt, ?sltz, ?seq⟩
  case add | sub | and | or | xor | andn => exact row rfl rfl rfl rfl
  case shl => exact row rfl rfl rfl (congrArg (x <<< ·) amount)
  case shr => exact row rfl rfl rfl (congrArg (x >>> ·) amount)
  case sar => exact row rfl rfl rfl (congrArg x.sshiftRight amount)
  case min | max => exact row rfl rfl rfl (ite_toInt_lt x y _ _)
  case minz | maxz => exact row rfl rfl rfl (ite_toNat_lt x y _ _)
  case slt | sltz => exact row rfl rfl rfl rfl
  case seq => exact row rfl rfl rfl (boolX_beq x y)

end Sys2Proof.Machine

/-! Codes of float formats: their magnitudes rise with the codes, and rounding undoes decoding (05 R60-R64, R72). -/

namespace Sys2Proof.Num

/-- A code without its sign is subnormal, or has an exponent field k + 1 and a mantissa. -/
theorem subnormal_or_normal (b c : Nat) : c < 2 ^ b ∨ ∃ k m, m < 2 ^ b ∧ c = (k + 1) * 2 ^ b + m := by
  rcases Nat.lt_or_ge c (2 ^ b) with h | h
  · exact .inl h
  · have hpos : 0 < c / 2 ^ b := Nat.div_pos h (by positivity)
    refine .inr ⟨c / 2 ^ b - 1, c % 2 ^ b, Nat.mod_lt _ (by positivity), ?_⟩
    rw [Nat.sub_add_cancel hpos, Nat.div_add_mod']

section Magnitudes
variable (f : Fmt)

theorem magOf_subnormal {c : Nat} (hc : c < 2 ^ f.mb) : magOf f c = (c, f.emin - f.mb) := by
  simp [magOf, Nat.div_eq_of_lt hc, Nat.mod_eq_of_lt hc]

theorem magOf_normal (k : Nat) {m : Nat} (hm : m < 2 ^ f.mb) :
    magOf f ((k + 1) * 2 ^ f.mb + m) = (2 ^ f.mb + m, f.emin - f.mb + k) := by
  have hdiv : ((k + 1) * 2 ^ f.mb + m) / 2 ^ f.mb = k + 1 := by
    rw [add_comm, Nat.add_mul_div_right _ _ (by positivity), Nat.div_eq_of_lt hm, zero_add]
  have hmod : ((k + 1) * 2 ^ f.mb + m) % 2 ^ f.mb = m := by
    rw [Nat.mul_add_mod', Nat.mod_eq_of_lt hm]
  simp [magOf, hdiv, hmod]

theorem le_magOf_exponent (c : Nat) : f.emin - f.mb ≤ (magOf f c).2 := by
  rcases subnormal_or_normal f.mb c with hc | ⟨k, m, hm, rfl⟩
  · simp [magOf_subnormal f hc]
  · simp [magOf_normal f k hm]

/-- The magnitude of a code as a multiple of the least subnormal value of its format. -/
def magUnits (c : Nat) : Nat := (magOf f c).1 * 2 ^ ((magOf f c).2 - (f.emin - f.mb)).toNat

theorem magUnits_subnormal {c : Nat} (hc : c < 2 ^ f.mb) : magUnits f c = c := by
  simp [magUnits, magOf_subnormal f hc]

theorem magUnits_normal (k : Nat) {m : Nat} (hm : m < 2 ^ f.mb) :
    magUnits f ((k + 1) * 2 ^ f.mb + m) = (2 ^ f.mb + m) * 2 ^ k := by
  simp [magUnits, magOf_normal f k hm]

/-- The next code has a mantissa greater by one, or starts the next binade. -/
theorem magUnits_lt_succ (c : Nat) : magUnits f c < magUnits f (c + 1) := by
  have hpos : 0 < 2 ^ f.mb := by positivity
  rcases subnormal_or_normal f.mb c with hc | ⟨k, m, hm, rfl⟩
  · rw [magUnits_subnormal f hc]
    rcases Nat.lt_or_ge (c + 1) (2 ^ f.mb) with h | h
    · rw [magUnits_subnormal f h]; omega
    · have hfirst : c + 1 = (0 + 1) * 2 ^ f.mb + 0 := by omega
      rw [hfirst, magUnits_normal f 0 hpos]; omega
  · rw [magUnits_normal f k hm]
    rcases Nat.lt_or_ge (m + 1) (2 ^ f.mb) with h | h
    · rw [add_assoc, magUnits_normal f k h]
      gcongr; omega
    · have hnext : (k + 1) * 2 ^ f.mb + m + 1 = (k + 1 + 1) * 2 ^ f.mb + 0 := by
        rw [add_mul (k + 1)]; omega
      rw [hnext, magUnits_normal f (k + 1) hpos]
      calc (2 ^ f.mb + m) * 2 ^ k < (2 ^ f.mb * 2) * 2 ^ k := by gcongr; omega
        _ = (2 ^ f.mb + 0) * 2 ^ (k + 1) := by ring

theorem magUnits_strictMono : StrictMono (magUnits f) := strictMono_nat_of_lt_succ (magUnits_lt_succ f)

theorem magUnits_zero : magUnits f 0 = 0 := magUnits_subnormal f (by positivity)

/-- Rounding gives back the code whose magnitude it is given, in every mode. -/
theorem roundMag_magOf (rm : Nat) (neg : Bool) (c : Nat) : roundMag f rm neg (magOf f c).1 (magOf f c).2 = c := by
  rcases subnormal_or_normal f.mb c with hc | ⟨k, m, hm, rfl⟩
  · rw [magOf_subnormal f hc]
    rcases Nat.eq_zero_or_pos c with rfl | hpos
    · simp [roundMag]
    · have hlog : Nat.log2 c < f.mb := (Nat.log2_lt hpos.ne').2 hc
      have htop : (Nat.log2 c : Int) + (f.emin - f.mb) < f.emin := by omega
      simp [roundMag, hpos.ne', htop]
  · rw [magOf_normal f k hm]
    have hlog : Nat.log2 (2 ^ f.mb + m) = f.mb := by
      rw [Nat.log2_eq_iff (by positivity), pow_succ]; omega
    have htop : ((Nat.log2 (2 ^ f.mb + m) : Nat) : Int) + (f.emin - f.mb + k) = f.emin + k := by omega
    have hne : 2 ^ f.mb + m ≠ 0 := by positivity
    have hq : f.emin + k - f.mb = f.emin - f.mb + k := by ring
    simp only [roundMag, if_neg hne, htop, not_lt.2 (Int.le_add_of_nonneg_right (Int.natCast_nonneg k)), if_false, hq,
      le_refl, if_true, sub_self, add_sub_cancel_left, Int.toNat_natCast, Int.toNat_zero]
    ring

end Magnitudes

/-! ### Comparison at a common exponent -/

theorem scaled_eq_mul (neg : Bool) (m : Nat) {e q r : Int} (hqe : q ≤ e) (hrq : r ≤ q) :
    scaled neg m e r = scaled neg m e q * 2 ^ (q - r).toNat := by
  have hexp : (e - r).toNat = (e - q).toNat + (q - r).toNat := by omega
  cases neg <;> simp [scaled, hexp, pow_add, mul_assoc]

/-- Two finite values compare as their multiples of any power of 2 that divides both. -/
theorem lt_fin_fin (x y : Bool) (m n : Nat) {e g r : Int} (he : r ≤ e) (hg : r ≤ g) :
    lt (.fin x m e) (.fin y n g) = decide (scaled x m e r < scaled y n g r) := by
  have common (q : Int) (hqe : q ≤ e) (hqg : q ≤ g) (hrq : r ≤ q) :
      scaled x m e q < scaled y n g q ↔ scaled x m e r < scaled y n g r := by
    rw [scaled_eq_mul x m hqe hrq, scaled_eq_mul y n hqg hrq]
    exact (Int.mul_lt_mul_right (by positivity)).symm
  simp only [lt, decide_eq_decide]
  split
  · exact common e le_rfl ‹_› he
  · exact common g (by omega) le_rfl hg

theorem lt_fin_inf (x y : Bool) (m : Nat) (e : Int) : lt (.fin x m e) (.inf y) = !y := rfl

theorem lt_inf_fin (x y : Bool) (n : Nat) (g : Int) : lt (.inf x) (.fin y n g) = x := rfl

theorem lt_inf_inf (x y : Bool) : lt (.inf x) (.inf y) = (x && !y) := rfl

/-! ### FP32 -/

section Fp32
variable {x y : Nat}

theorem signBit_fp32 (hx : x < 2 ^ 32) : (x / Fmt.fp32.signBit % 2 == 1) = decide (2 ^ 31 ≤ x) := by
  have hbit : x / 2 ^ 31 % 2 = 1 ↔ 2 ^ 31 ≤ x := by omega
  simpa [Fmt.signBit, Fmt.width, beq_eq_decide] using hbit

theorem of32_eq (hx : x < 2 ^ 32) :
    of32 x = if x % 2 ^ 31 = 0x7F800000 then .inf (decide (2 ^ 31 ≤ x)) else if 0x7F800000 < x % 2 ^ 31 then .nan x
      else .fin (decide (2 ^ 31 ≤ x)) (magOf .fp32 (x % 2 ^ 31)).1 (magOf .fp32 (x % 2 ^ 31)).2 := by
  rw [of32, Nat.mod_eq_of_lt hx]
  simp only [decode, signBit_fp32 hx, Nat.mod_eq_of_lt hx]
  rfl

theorem of32_nan (hx : x < 2 ^ 32) (h : 0x7F800000 < x % 2 ^ 31) : of32 x = .nan x := by
  rw [of32_eq hx, if_neg h.ne', if_pos h]

theorem of32_inf (hx : x < 2 ^ 32) (h : x % 2 ^ 31 = 0x7F800000) : of32 x = .inf (decide (2 ^ 31 ≤ x)) := by
  rw [of32_eq hx, if_pos h]

theorem of32_fin (hx : x < 2 ^ 32) (h : x % 2 ^ 31 < 0x7F800000) :
    of32 x = .fin (decide (2 ^ 31 ≤ x)) (magOf .fp32 (x % 2 ^ 31)).1 (magOf .fp32 (x % 2 ^ 31)).2 := by
  rw [of32_eq hx, if_neg h.ne, if_neg h.not_gt]

theorem isNan_of32 (hx : x < 2 ^ 32) (h : Machine.fpNan x) : (of32 x).isNan = true := by
  rw [of32_nan hx h]; rfl

theorem not_isNan_of32 (hx : x < 2 ^ 32) (h : ¬Machine.fpNan x) : (of32 x).isNan = false := by
  rcases (not_lt.1 h).lt_or_eq with h | h
  · rw [of32_fin hx h]; rfl
  · rw [of32_inf hx h]; rfl

theorem neg_of32 (hx : x < 2 ^ 32) (hn : ¬Machine.fpNan x) : (of32 x).neg = decide (2 ^ 31 ≤ x) := by
  rcases (not_lt.1 hn).lt_or_eq with h | h
  · rw [of32_fin hx h]; rfl
  · rw [of32_inf hx h]; rfl

/-- A code is its sign bit and the code of its magnitude. -/
theorem signBit_add_magnitude (hx : x < 2 ^ 32) :
    (if decide (2 ^ 31 ≤ x) then Fmt.fp32.signBit else 0) + x % 2 ^ 31 = x := by
  have hsplit : (if 2 ^ 31 ≤ x then 2 ^ 31 else 0) + x % 2 ^ 31 = x := by split <;> omega
  simpa only [decide_eq_true_eq, Fmt.signBit, Fmt.width] using hsplit

theorem f32_of32 (rm : Nat) (hx : x < 2 ^ 32) : f32 rm (of32 x) = x := by
  rcases lt_trichotomy (x % 2 ^ 31) 0x7F800000 with h | h | h
  · have hmax : x % 2 ^ 31 ≤ Fmt.fp32.maxCode := Nat.le_of_lt_succ h
    rw [of32_fin hx h]
    simp only [f32, encode, Fmt.isInt, Bool.false_eq_true, if_false, roundMag_magOf, if_pos hmax]
    exact signBit_add_magnitude hx
  · have hinf : Fmt.fp32.infCode = x % 2 ^ 31 := h.symm
    rw [of32_inf hx h]
    simp only [f32, encode, Fmt.isInt, Bool.false_eq_true, if_false, hinf]
    exact signBit_add_magnitude hx
  · rw [of32_nan hx h]; rfl

/-- The number that a code stands for, in units of the least subnormal value. -/
def units32 (x : Nat) : Int := if 2 ^ 31 ≤ x then -(magUnits .fp32 (x % 2 ^ 31)) else magUnits .fp32 (x % 2 ^ 31)

theorem scaled_magOf_fp32 (x : Nat) :
    scaled (decide (2 ^ 31 ≤ x)) (magOf .fp32 (x % 2 ^ 31)).1 (magOf .fp32 (x % 2 ^ 31)).2 (Fmt.fp32.emin - Fmt.fp32.mb) =
      units32 x := by
  simp [scaled, units32, magUnits]

/-- The numbers rise with the codes as sign and magnitude, but for the two zeros, which are one number. -/
theorem units32_lt_iff (hx : x < 2 ^ 32) (hy : y < 2 ^ 32) :
    units32 x < units32 y ↔ Machine.fpKey x < Machine.fpKey y ∧ ¬(x % 2 ^ 31 = 0 ∧ y % 2 ^ 31 = 0) := by
  have mono {m n : Nat} : magUnits .fp32 m < magUnits .fp32 n ↔ m < n := (magUnits_strictMono .fp32).lt_iff_lt
  have hxy := @mono (x % 2 ^ 31) (y % 2 ^ 31)
  have hyx := @mono (y % 2 ^ 31) (x % 2 ^ 31)
  have hx0 := @mono 0 (x % 2 ^ 31)
  have hy0 := @mono 0 (y % 2 ^ 31)
  rw [magUnits_zero] at hx0 hy0
  unfold units32 Machine.fpKey
  split_ifs <;> omega

/-- The order of the keys is that of sign and magnitude. -/
theorem fpKey_lt_iff (hx : x < 2 ^ 32) (hy : y < 2 ^ 32) :
    Machine.fpKey x < Machine.fpKey y ↔
      2 ^ 31 ≤ x ∧ (2 ^ 31 ≤ y → y % 2 ^ 31 < x % 2 ^ 31) ∨ x < 2 ^ 31 ∧ y < 2 ^ 31 ∧ x % 2 ^ 31 < y % 2 ^ 31 := by
  unfold Machine.fpKey
  split_ifs <;> omega

theorem fpKey_injective (hx : x < 2 ^ 32) (hy : y < 2 ^ 32) (h : Machine.fpKey x = Machine.fpKey y) : x = y := by
  unfold Machine.fpKey at h
  split at h <;> split at h <;> omega

section Numbers
variable (hx : x < 2 ^ 32) (hy : y < 2 ^ 32) (hxn : ¬Machine.fpNan x) (hyn : ¬Machine.fpNan y)
include hx hy hxn hyn

/-- Codes that are no NaN compare as sign and magnitude, the two zeros as equal (08 R117). -/
theorem lt_of32 :
    lt (of32 x) (of32 y) = decide (Machine.fpKey x < Machine.fpKey y ∧ ¬(x % 2 ^ 31 = 0 ∧ y % 2 ^ 31 = 0)) := by
  rcases (not_lt.1 hxn).lt_or_eq with hxf | hxi <;> rcases (not_lt.1 hyn).lt_or_eq with hyf | hyi
  · rw [of32_fin hx hxf, of32_fin hy hyf, lt_fin_fin _ _ _ _ (le_magOf_exponent ..) (le_magOf_exponent ..),
      scaled_magOf_fp32, scaled_magOf_fp32, decide_eq_decide]
    exact units32_lt_iff hx hy
  · rw [of32_fin hx hxf, of32_inf hy hyi, lt_fin_inf, ← decide_not, decide_eq_decide, fpKey_lt_iff hx hy]
    omega
  · rw [of32_inf hx hxi, of32_fin hy hyf, lt_inf_fin, decide_eq_decide, fpKey_lt_iff hx hy]
    omega
  · rw [of32_inf hx hxi, of32_inf hy hyi, lt_inf_inf, ← decide_not, ← Bool.decide_and, decide_eq_decide, fpKey_lt_iff hx hy]
    omega

theorem eq_of32 : eq (of32 x) (of32 y) = decide (x = y ∨ x % 2 ^ 31 = 0 ∧ y % 2 ^ 31 = 0) := by
  have key := @fpKey_injective x y hx hy
  rw [eq, not_isNan_of32 hx hxn, not_isNan_of32 hy hyn, lt_of32 hx hy hxn hyn, lt_of32 hy hx hyn hxn,
    Bool.eq_iff_iff]
  simp only [Bool.not_false, Bool.and_eq_true, Bool.not_eq_true', decide_eq_false_iff_not, decide_eq_true_eq, true_and]
  constructor
  · rintro ⟨hnlt, hngt⟩
    by_cases hz : x % 2 ^ 31 = 0 ∧ y % 2 ^ 31 = 0
    · exact .inr hz
    · exact .inl (key (by omega))
  · rintro (rfl | hz) <;> omega

theorem le_of32 :
    (lt (of32 x) (of32 y) || eq (of32 x) (of32 y)) =
      decide (Machine.fpKey x ≤ Machine.fpKey y ∨ x % 2 ^ 31 = 0 ∧ y % 2 ^ 31 = 0) := by
  have key : Machine.fpKey x = Machine.fpKey y ↔ x = y := ⟨fpKey_injective hx hy, congrArg _⟩
  rw [lt_of32 hx hy hxn hyn, eq_of32 hx hy hxn hyn, ← Bool.decide_or, decide_eq_decide, ← key]
  omega

/-- Which code FMIN takes: the lesser as a number, and of equal numbers the first if it is negative (so −0 below +0). -/
theorem lesser_eq :
    (if lt (of32 x) (of32 y) then x else if lt (of32 y) (of32 x) then y else if (of32 x).neg then x else y) =
      if Machine.fpKey y < Machine.fpKey x then y else x := by
  rw [lt_of32 hx hy hxn hyn, lt_of32 hy hx hyn hxn, neg_of32 hx hxn]
  simp only [decide_eq_true_eq]
  unfold Machine.fpKey
  split_ifs <;> omega

theorem greater_eq :
    (if lt (of32 x) (of32 y) then y else if lt (of32 y) (of32 x) then x else if (of32 x).neg then y else x) =
      if Machine.fpKey x < Machine.fpKey y then y else x := by
  rw [lt_of32 hx hy hxn hyn, lt_of32 hy hx hyn hxn, neg_of32 hx hxn]
  simp only [decide_eq_true_eq]
  unfold Machine.fpKey
  split_ifs <;> omega

theorem minV_of32 : minV (of32 x) (of32 y) = of32 (if Machine.fpKey y < Machine.fpKey x then y else x) := by
  rw [← lesser_eq hx hy hxn hyn, minV, not_isNan_of32 hx hxn, not_isNan_of32 hy hyn]
  simp only [Bool.false_eq_true, if_false, apply_ite of32]

theorem maxV_of32 : maxV (of32 x) (of32 y) = of32 (if Machine.fpKey x < Machine.fpKey y then y else x) := by
  rw [← greater_eq hx hy hxn hyn, maxV, not_isNan_of32 hx hxn, not_isNan_of32 hy hyn]
  simp only [Bool.false_eq_true, if_false, apply_ite of32]

end Numbers

end Fp32

/-! ### NaN operands -/

section NanOperands
variable {a b : FV}

theorem eq_nan_of_isNan (h : a.isNan = true) : ∃ c, a = .nan c := by
  cases a with
  | nan c => exact ⟨c, rfl⟩
  | inf => cases h
  | fin => cases h

theorem lt_of_nan (h : a.isNan = true ∨ b.isNan = true) : lt a b = false := by
  rcases h with h | h
  · obtain ⟨c, rfl⟩ := eq_nan_of_isNan h
    rfl
  · obtain ⟨c, rfl⟩ := eq_nan_of_isNan h
    cases a <;> rfl

theorem eq_of_nan (h : a.isNan = true ∨ b.isNan = true) : eq a b = false := by
  rcases h with h | h <;> simp [eq, h]

theorem extremes_of_nan_nan (ha : a.isNan = true) (hb : b.isNan = true) :
    minV a b = .nan cnan ∧ maxV a b = .nan cnan := by
  simp [minV, maxV, ha, hb]

theorem extremes_of_nan_left (ha : a.isNan = true) (hb : b.isNan = false) : minV a b = b ∧ maxV a b = b := by
  simp [minV, maxV, ha, hb]

theorem extremes_of_nan_right (ha : a.isNan = false) (hb : b.isNan = true) : minV a b = a ∧ maxV a b = a := by
  simp [minV, maxV, ha, hb]

end NanOperands

end Sys2Proof.Num

/-! Comparisons and classes of scalar floats (08 R117). -/

namespace Sys2Proof

/-- The words of major 0x24 without a row: a function code from 7 on, or FCLASS with a b field. -/
theorem decode24_eq_none {w : Nat} (h : 7 ≤ bits w 3 0 ∨ bits w 3 0 = 6 ∧ bits w 9 4 ≠ 0) : decode24 w = none := by
  have hclass : bits w 9 0 ≠ 6 := by
    simp only [bits] at h ⊢
    omega
  have hfn : 6 ≤ bits w 3 0 := by omega
  unfold decode24
  simp only [if_neg hclass]
  rw [if_neg, if_neg, if_neg, if_neg, if_neg, if_neg] <;> omega

theorem decode_of_major24 {w : Word} (hw : w.extractLsb' 22 7 = 0x24) (hnone : decode24 w.toNat = none) :
    decode w = .error .unassigned := by
  have hbits : bits w.toNat 28 22 = 0x24 := by rw [bits_toNat_eq_extractLsb', hw]; rfl
  have hmajor : decodeMajor 0x24 w.toNat = none := hnone
  rw [decode, hbits, hmajor]
  rfl

end Sys2Proof

namespace Sys2Proof.Machine

theorem bits_fp32 (v : XWord) : bits v.toNat 31 0 = (v.extractLsb' 0 32).toNat := by
  simp [bits, BitVec.extractLsb'_toNat]

theorem fOf_eq_of32 (v : XWord) : fOf v = Num.of32 (v.extractLsb' 0 32).toNat := by
  rw [fOf, bits_fp32]

theorem boolX_eq_ofNat (b : Bool) : boolX b = .ofNat 64 b.toNat := by
  cases b <;> rfl

section Fclass
variable {v : XWord} {x : Nat}

/-- The class by the fields of the code: exponent and mantissa name the kind, the code's upper half is negative. -/
theorem fclassVal_eq (hx : (v.extractLsb' 0 32).toNat = x) :
    fclassVal v =
      if x / 2 ^ 23 % 256 = 255 then
        if x % 2 ^ 23 = 0 then (if 2 ^ 31 ≤ x then 0 else 7) else if x / 2 ^ 22 % 2 = 0 then 8 else 9
      else if x / 2 ^ 23 % 256 = 0 then
        if x % 2 ^ 23 = 0 then (if 2 ^ 31 ≤ x then 3 else 4) else if 2 ^ 31 ≤ x then 2 else 5
      else if 2 ^ 31 ≤ x then 1 else 6 := by
  have hlt : x < 2 ^ 32 := hx ▸ (v.extractLsb' 0 32).isLt
  have hneg : (bits x 31 31 == 1) = decide (2 ^ 31 ≤ x) := by
    rw [beq_eq_decide, decide_eq_decide]
    simp only [bits]
    omega
  simp only [fclassVal, bits_fp32, hx, hneg, decide_eq_true_eq]
  simp [bits]

theorem fclassVal_inf (hx : (v.extractLsb' 0 32).toNat = x) (h : x % 2 ^ 31 = 0x7F800000) :
    fclassVal v = if 2 ^ 31 ≤ x then 0 else 7 := by
  rw [fclassVal_eq hx, if_pos (by omega), if_pos (by omega)]

theorem fclassVal_nan (hx : (v.extractLsb' 0 32).toNat = x) (h : fpNan x) :
    fclassVal v = if x / 2 ^ 22 % 2 = 0 then 8 else 9 := by
  rw [fclassVal_eq hx, if_pos (by omega), if_neg (by omega)]

theorem fclassVal_zero (hx : (v.extractLsb' 0 32).toNat = x) (h : x % 2 ^ 31 = 0) :
    fclassVal v = if 2 ^ 31 ≤ x then 3 else 4 := by
  rw [fclassVal_eq hx, if_neg (by omega), if_pos (by omega), if_pos (by omega)]

theorem fclassVal_subnormal (hx : (v.extractLsb' 0 32).toNat = x) (h : 0 < x % 2 ^ 31 ∧ x % 2 ^ 31 < 0x00800000) :
    fclassVal v = if 2 ^ 31 ≤ x then 2 else 5 := by
  rw [fclassVal_eq hx, if_neg (by omega), if_pos (by omega), if_neg (by omega)]

theorem fclassVal_normal (hx : (v.extractLsb' 0 32).toNat = x) (h : 0x00800000 ≤ x % 2 ^ 31 ∧ x % 2 ^ 31 < 0x7F800000) :
    fclassVal v = if 2 ^ 31 ≤ x then 1 else 6 := by
  rw [fclassVal_eq hx, if_neg (by omega), if_neg (by omega)]

end Fclass

/-- Settles O14: a code decodes to the number that its sign and magnitude name, so the comparisons of numbers are those of
codes, and FMIN and FMAX, which round one of their operands, give its code back. -/
theorem floatComparisons : Obligations.FloatComparisons := by
  unfold Obligations.FloatComparisons
  intro s d a b x y zeros gives
  have hx : x < 2 ^ 32 := ((s.rx a).extractLsb' 0 32).isLt
  have hy : y < 2 ^ 32 := ((s.rx b).extractLsb' 0 32).isLt
  have row {i : Instr} {opcode fn v : Nat} {w : XWord} (hfn : fn ≠ 6) (hop : opcode = 0x24 * 2 ^ 22 + fn)
      (hword : encodeNat i = some (opcode + d.toNat * 65536 + a.toNat * 1024 + b.toNat * 16))
      (hexec : exec i s = .next (s.produceX 4 d w)) (hw : w = .ofNat 64 v) : gives i fn v :=
    ⟨by rw [if_neg hfn, encodeNat_eq_rrr hop hword], hw ▸ hexec⟩
  have classWord : encodeNat (.fclass d a) = some (rrr 0x24 d a 0 6) := encodeNat_eq_rrr (opcode := 0x09000006) rfl rfl
  have fa : fOf (s.rx a) = Num.of32 x := fOf_eq_of32 _
  have fb : fOf (s.rx b) = Num.of32 y := fOf_eq_of32 _
  refine ⟨fun w hw hrow i => ?refused, Num.f32 0 (Num.minV (Num.of32 x) (Num.of32 y)),
    Num.f32 0 (Num.maxV (Num.of32 x) (Num.of32 y)), (Num.eq (Num.of32 x) (Num.of32 y)).toNat,
    (Num.lt (Num.of32 x) (Num.of32 y)).toNat, (Num.lt (Num.of32 x) (Num.of32 y) || Num.eq (Num.of32 x) (Num.of32 y)).toNat,
    (unordered (Num.of32 x) (Num.of32 y)).toNat, 2 ^ fclassVal (s.rx a), ?_⟩
  case refused =>
    have hnone : decode24 w.toNat = none := decode24_eq_none <| by
      simp only [bits_toNat_eq_extractLsb']
      exact hrow.imp_right fun ⟨hfn, hb⟩ => ⟨congrArg BitVec.toNat hfn, fun h => hb (BitVec.eq_of_toNat_eq h)⟩
    rw [decode_of_major24 hw hnone]
    exact nofun
  refine ⟨?fmin, ?fmax, ?feq, ?flt, ?fle, ?funord, ⟨classWord, rfl⟩, ?bothNan, ?leftNan, ?rightNan, ?noNan, ?someNan,
    Bool.toNat_le _, Bool.toNat_le _, Bool.toNat_le _, ?classes⟩
  case fmin | fmax => exact row (by decide) rfl rfl rfl (by rw [fa, fb]; rfl)
  case feq | flt | fle | funord => exact row (by decide) rfl rfl rfl (by rw [fa, fb, boolX_eq_ofNat])
  case bothNan =>
    rintro ⟨hxn, hyn⟩
    obtain ⟨hmin, hmax⟩ := Num.extremes_of_nan_nan (Num.isNan_of32 hx hxn) (Num.isNan_of32 hy hyn)
    rw [hmin, hmax]
    exact ⟨rfl, rfl⟩
  case leftNan =>
    rintro ⟨hxn, hyn⟩
    obtain ⟨hmin, hmax⟩ := Num.extremes_of_nan_left (Num.isNan_of32 hx hxn) (Num.not_isNan_of32 hy hyn)
    rw [hmin, hmax]
    exact ⟨Num.f32_of32 0 hy, Num.f32_of32 0 hy⟩
  case rightNan =>
    rintro ⟨hxn, hyn⟩
    obtain ⟨hmin, hmax⟩ := Num.extremes_of_nan_right (Num.not_isNan_of32 hx hxn) (Num.isNan_of32 hy hyn)
    rw [hmin, hmax]
    exact ⟨Num.f32_of32 0 hx, Num.f32_of32 0 hx⟩
  case noNan =>
    rintro ⟨hxn, hyn⟩
    rw [Num.minV_of32 hx hy hxn hyn, Num.maxV_of32 hx hy hxn hyn, Num.le_of32 hx hy hxn hyn, Num.eq_of32 hx hy hxn hyn,
      Num.lt_of32 hx hy hxn hyn, unordered, Num.not_isNan_of32 hx hxn, Num.not_isNan_of32 hy hyn]
    simp only [Bool.toNat_eq_one, decide_eq_true_eq]
    exact ⟨Num.f32_of32 0 (by split <;> assumption), Num.f32_of32 0 (by split <;> assumption), .rfl, .rfl, .rfl, rfl⟩
  case someNan =>
    intro h
    have hnan : (Num.of32 x).isNan = true ∨ (Num.of32 y).isNan = true := h.imp (Num.isNan_of32 hx) (Num.isNan_of32 hy)
    have hun : unordered (Num.of32 x) (Num.of32 y) = true := by rwa [unordered, Bool.or_eq_true]
    rw [Num.eq_of_nan hnan, Num.lt_of_nan hnan, hun]
    exact ⟨rfl, rfl, rfl, rfl⟩
  case classes =>
    have bit {p : Prop} [Decidable p] {m n : Nat} (h : fclassVal (s.rx a) = if p then m else n) :
        (p → 2 ^ fclassVal (s.rx a) = 2 ^ m) ∧ (¬p → 2 ^ fclassVal (s.rx a) = 2 ^ n) :=
      ⟨fun hp => by rw [h, if_pos hp], fun hp => by rw [h, if_neg hp]⟩
    exact ⟨fun h => (bit (fclassVal_inf rfl (by omega))).1 (by omega),
      fun h => (bit (fclassVal_normal rfl (by omega))).1 (by omega),
      fun h => (bit (fclassVal_subnormal rfl (by omega))).1 (by omega),
      fun h => (bit (fclassVal_zero rfl (by omega))).1 (by omega),
      fun h => (bit (fclassVal_zero rfl (by omega))).2 (by omega),
      fun h => (bit (fclassVal_subnormal rfl (by omega))).2 (by omega),
      fun h => (bit (fclassVal_normal rfl (by omega))).2 (by omega),
      fun h => (bit (fclassVal_inf rfl (by omega))).2 (by omega),
      fun h => (bit (fclassVal_nan rfl h.1)).1 h.2,
      fun h => (bit (fclassVal_nan rfl h.1)).2 (by omega)⟩

end Sys2Proof.Machine

/-! VBSET and VMATCH (15 R216, R218): the issue of a vector-class result, the bits of a mask built from a list. -/

namespace Sys2Proof.Num

/-- Codes of one bit each are the bits of the number that they pack to. -/
theorem testBit_packCodes_one (l : List Bool) (i : Nat) :
    (packCodes 1 (l.map Machine.bitNat)).testBit i = l.getD i false := by
  induction l generalizing i with
  | nil => simp [packCodes]
  | cons b bs ih =>
    have hbit : Machine.bitNat b % 2 ^ 1 = b.toNat := by cases b <;> rfl
    have hcons : packCodes 1 ((b :: bs).map Machine.bitNat) = Nat.bit b (packCodes 1 (bs.map Machine.bitNat)) := by
      rw [List.map_cons, packCodes, hbit, Nat.bit_val, pow_one, add_comm]
    rw [hcons]
    cases i with
    | zero => simp
    | succ i => rw [Nat.testBit_bit_succ, ih, List.getD_cons_succ]

end Sys2Proof.Num

namespace Sys2Proof.Machine

@[simp] theorem State.results_general (s : State) (latency : Nat) (w : RegWrite) (push : Bool) :
    (s.results latency w push).general = s.general := rfl

theorem State.vecUsed_of_general {s : State} (h : s.general = true) :
    s.vecUsed = { s with core := { s.core with vecBusy := s.core.cycle + 3 } } := if_pos h

theorem State.vecUsed_of_onCompute {s : State} (h : s.onCompute) : s.vecUsed = s := if_neg (by simp [h])

section Issue
variable {s : State} (hfree : s.vectorFree)
include hfree

theorem State.vecReady_ok : s.vecReady = .ok () :=
  require_of _ (by simpa [State.vectorFree] using hfree)

/-- With the vector unit free a vector-class result issues, three cycles later on a general core (15 R206, R207). -/
theorem State.vproduce_eq_results (latency : Nat) (w : RegWrite) :
    s.vproduce latency w = .ok ((s.results (if s.general then latency + 3 else latency) w false).vecUsed) := by
  rw [State.vproduce, State.vecReady_ok hfree, ok_bind, State.produce_eq_results]
  cases hg : s.general with
  | false =>
    rw [State.vecUsed_of_onCompute hg, State.vecUsed_of_onCompute ((s.results_general ..).trans hg)]
    rfl
  | true =>
    rw [State.vecUsed_of_general hg, State.vecUsed_of_general ((s.results_general ..).trans hg)]
    rfl

theorem State.vectorGives_of_exec {i : Instr} {latency : Nat} {w : RegWrite}
    (hexec : exec i s = finish s (s.vproduce latency w)) : s.vectorGives i latency w := by
  rw [State.vectorGives, hexec, State.vproduce_eq_results hfree, finish_ok]

end Issue

theorem getLsbD_ofBits (l : List Bool) (i : Nat) : (ofBits l).getLsbD i = (decide (i < 256) && l.getD i false) := by
  rw [ofBits, BitVec.getLsbD_ofNat, Num.testBit_packCodes_one]

/-- A mask made from a predicate on the places 0 to 255. -/
theorem getLsbD_ofBits_map_range (p : Nat → Bool) {i : Nat} (hi : i < 256) :
    (ofBits ((List.range 256).map p)).getLsbD i = p i := by
  rw [getLsbD_ofBits, decide_eq_true hi, Bool.true_and]
  simp [hi]

theorem matchAt_iff (text pat : VWord) (i : Nat) :
    matchAt text pat i = true ↔ 1 ≤ laneOf pat 8 0 ∧ i + laneOf pat 8 0 ≤ 256 ∧
      ∀ j, j < laneOf pat 8 0 → laneOf text 8 (i + j) = laneOf pat 8 (1 + j) := by
  simp [matchAt, and_assoc]

/-- The eleven bits of xa that VBSET reads name one of the 2,048 bits of v. -/
theorem bits_vectorBit (n : Nat) : bits n 10 0 = n % 2048 := by
  simp [bits]

theorem getLsbD_or_two_pow (v : VWord) (n : Nat) {k : Nat} (hk : k < 2048) :
    (v ||| .ofNat 2048 (2 ^ n)).getLsbD k = (decide (k = n) || v.getLsbD k) := by
  rw [BitVec.getLsbD_or, BitVec.getLsbD_ofNat, Nat.testBit_two_pow, decide_eq_true hk, Bool.true_and, Bool.or_comm,
    decide_eq_decide.2 eq_comm]

/-- Settles O37: VBSET's result is v with a power of two joined to it, and VMATCH's mask is made from `matchAt`. -/
theorem vectorBitSetAndMatch : Obligations.VectorBitSetAndMatch := by
  unfold Obligations.VectorBitSetAndMatch
  refine ⟨fun s v x hfree => ?vbset, fun s d a b hfree => ?vmatch⟩
  case vbset =>
    refine ⟨rfl, _, State.vectorGives_of_exec hfree rfl, fun k hk => ?_⟩
    rw [getLsbD_or_two_pow _ _ hk, bits_vectorBit]
  case vmatch =>
    refine ⟨rfl, _, State.vectorGives_of_exec hfree rfl, fun i hi => ?_⟩
    rw [getLsbD_ofBits_map_range _ hi]
    exact matchAt_iff (s.rv a) (s.rv b) i

end Sys2Proof.Machine
